-- ==== Sys2Proof/Word.lean ====
section
/-!
DEFINITION. The word types of the panel: bytes, 32-bit register lanes, 64-bit pairs and lane masks (R5, R6, R42).
-/
namespace Sys2Proof

/-- One byte of memory (R5). -/
abbrev Byte := BitVec 8
/-- One lane of a general register: 32 bits. -/
abbrev Word := BitVec 32
/-- A register pair, a barrier word or a pair special register: 64 bits (R6). -/
abbrev DWord := BitVec 64
/-- A lane mask: bit L stands for lane L, for at most 64 lanes (R42). -/
abbrev Mask := BitVec 64

end Sys2Proof
end

