-- ==== Sys2Proof/Config.lean ====
section
/-!
DEFINITION. What one panel fixes, and the free values: constants with no body, so that no proof can know what they are.
Every free value is applied to a counter the step advances, or to the operands it depends on (log entry 1).
-/
namespace Sys2Proof.Config

/-- Which of the values that R93 allows a breached read returns: applied to the counter of the word, the register's
code and the lane, so that every field of one word that names one register receives one value. -/
opaque breachPick : Nat → Nat → Nat → Nat
/-- Which of two writes with no marker between them a lane keeps (R94). -/
opaque settlePick : Nat → Nat → Nat → Nat
/-- How far back in coherence order a read goes that no rule orders after the newest write (R226). -/
opaque racePick : Nat → Nat → Nat
/-- Which of the moves that can happen next happens, where the spec orders none of them. -/
opaque schedPick : Nat → Nat
/-- A die-local cycle count (R4, R19, R159): the spec gives no value. -/
opaque clock : Nat → DWord
/-- A grid id (R372): the model takes it only where it is nonzero and unique. -/
opaque gridId : Nat → Word
/-- A grid id of a deterministic context (R334, R372), by what launches the grid and by attempt. -/
opaque detGridId : Nat → Nat → Word
/-- The TLB entry that makes room (R216 gives no replacement rule), and which translation of a changed entry an access to an
address takes (R215). -/
opaque tlbPick : Nat → Nat → Nat
/-- Whether firmware leaves room for one more round-buffer granule above the guaranteed count (R18). -/
opaque reserveRoom : Nat → Bool
/-- What comes of the training of an external link at bring-up (R26, R38): applied to the counter of the step and the link's place. -/
opaque training : Nat → Nat → Nat
/-- SHA3-256 of a byte string, as 32 bytes (R295, R317, R328). -/
opaque sha3 : List Nat → List Nat
/-- AES-256-GCM decryption of an import: ML-KEM decapsulation and KMAC key included (R327). Arguments: the vault's
creation count, the 1,088-byte ciphertext, the nonce, the blob. The plaintext, or nothing when a check fails. -/
opaque importOpen : Nat → List Nat → List Nat → List Nat → Option (List Nat)
/-- A 256-bit key that the panel generates for a vault, as 32 bytes (R326): by the moment of its creation and which of the three it is. -/
opaque newKey : Nat → Nat → List Nat
/-- AES-256-XTS encryption of a 256-byte granule under a key, with its physical address as the tweak (R326). -/
opaque xts : List Nat → Nat → List Nat → List Nat
/-- AES-256 key wrap of three keys under the panel's fused device key (R317). -/
opaque keyWrap : List Nat → List Nat
/-- What a monitor samples of a quantity that is timing alone: a latency or an occupancy (R332), by the counter of the step and the monitor. -/
opaque timing : Nat → Nat → Nat
/-- The 256 bytes into which 15 trace records of a vault are sealed with their tag (R331): the vault's creation, die, block number, bytes. -/
opaque traceSeal : Nat → Nat → Nat → List Nat → List Nat
/-- The content of a context's part of a checkpoint area: the spec gives its offset and length fields, not its bytes. -/
opaque recordBytes : Nat → List Nat
/-- The panel's serial number, 16 bytes (R328). -/
opaque serial : Nat → Byte
/-- A vault's ML-KEM-768 encapsulation key, by the vault's creation, and the panel's ML-DSA-44 signature of a byte string (R327, R328). -/
opaque encapKey : Nat → List Nat
opaque signature : List Nat → List Nat
/-- The supervisor handler's entry offset in the firmware code (R304). -/
opaque handlerEntry : Nat
/-- What the scheduler's own memory holds beyond one graph of the largest size that R365 allows, and all of it in bytes (R366 gives no size;
log entry 41). -/
opaque graphRoom : Nat
def graphMemory : Nat := 589856 + graphRoom

end Sys2Proof.Config
end

