-- ==== Sys2Proof/Syntax.lean ====
section
/-!
DEFINITION. The instructions of the panel as syntax (R103, R104, R108, R109, R100): one constructor for every row of the opcode table.
A word's first argument `sm` is its switch marker S (R90); register and mask numbers, counts and unsigned immediates
are natural numbers, signed immediates integers. The rows without an encoding are the panel's EVENTS: what an engine,
the scheduler, firmware, the host or a peer does, each whole and indivisible; their arguments say what it happens to.
-/
namespace Sys2Proof

/-- A rounding mode field: R76. -/
inductive Md where
  | rne | rz | ru | rd | sr | dyn
  deriving DecidableEq, Repr

/-- The condition of `vcmp`: R106. -/
inductive Cc where
  | eq | ne | lt | ge | le | gt | ltu | geu | leu | gtu
  deriving DecidableEq, Repr

/-- The condition of `vfcmp`: R106. -/
inductive Fcc where
  | eq | ne | lt | ge | le | gt | uo | ord
  deriving DecidableEq, Repr

/-- The element type of a packed word: R106. -/
inductive Pty where
  | f16x2 | bf16x2
  deriving DecidableEq, Repr

/-- The size of a `vld`: R106. -/
inductive LdSize where
  | b | h | w | d | sb | sh
  deriving DecidableEq, Repr

/-- An access size: R106. -/
inductive Size4 where
  | b | h | w | d
  deriving DecidableEq, Repr

/-- The operation of a lane atomic: R106. -/
inductive Aop where
  | add | min | max | minu | maxu | and | or | xor | swp | cas | fadd
  deriving DecidableEq, Repr

/-- The operation of `vred` and `vscan`: R108. -/
inductive RedFn where
  | add | min | max | minu | fadd | fmin | fmax | maxu | and | or | xor
  deriving DecidableEq, Repr

/-- The kind of a `vcvt`, result format first: R108. -/
inductive CvtKind where
  | f32Int | f32Uint | intF32 | uintF32 | f16F32 | f32F16 | bf16F32 | f32Bf16 | e4m3F32 | f32E4m3 | e5m2F32 | f32E5m2 | ts8F32 | f32Ts8 | int8F32 | uint8F32
  deriving DecidableEq, Repr

/-- The kind of an `scvt`: R109. -/
inductive ScvtKind where
  | f32Int | f32Uint | intF32 | uintF32
  deriving DecidableEq, Repr

/-- A scope: R109, R224. -/
inductive Scope where
  | blk | clu | dev | sys
  deriving DecidableEq, Repr

/-- The operation of a collective: R259. -/
inductive ColOp where
  | sum | min | max
  deriving DecidableEq, Repr

/-- The narrow format of a `vquant`: R66 codes 3 to 8. -/
inductive QFmt where
  | e4m3 | e5m2 | int8 | uint8 | int4 | ts8
  deriving DecidableEq, Repr

/-- A condition of R107: codes 0 to 11 by name, `kz n` (mask kn is zero) and `ka n` (mask kn is all ones). -/
inductive Cond where
  | al | eq | ne | lt | ge | le | gt | ltu | geu | leu | gtu | uo
  | kz (n : Nat) | ka (n : Nat)
  deriving DecidableEq, Repr

/-- A link: an external one with a `LINK_STATUS` register (R26), or the mesh link at an edge of a die (R11). -/
inductive Link where
  | host (h : Nat) | cxl (k : Nat) | peer (k : Nat) | mesh (die edge : Nat)
  deriving DecidableEq, Repr

/-- A native version the Mint has built (R296): its code bytes, its map table in the image's layout (R285) and its count of maps. -/
structure BuiltVersion where
  code : List Nat
  maps : List Nat
  nmap : Nat
  deriving DecidableEq, Repr

/-- One instruction word, short parcel or event of the opcode table. -/
inductive Instr where
  | vadd (sm : Bool) (xd : Nat) (xa : Nat) (xb : Nat) (kp : Nat)
  | vsub (sm : Bool) (xd : Nat) (xa : Nat) (xb : Nat) (kp : Nat)
  | vmul (sm : Bool) (xd : Nat) (xa : Nat) (xb : Nat) (kp : Nat)
  | vmulh (sm : Bool) (xd : Nat) (xa : Nat) (xb : Nat) (kp : Nat)
  | vmulhu (sm : Bool) (xd : Nat) (xa : Nat) (xb : Nat) (kp : Nat)
  | vmad (sm : Bool) (xd : Nat) (xa : Nat) (xb : Nat) (kp : Nat)
  | vmin (sm : Bool) (xd : Nat) (xa : Nat) (xb : Nat) (kp : Nat)
  | vminu (sm : Bool) (xd : Nat) (xa : Nat) (xb : Nat) (kp : Nat)
  | vmax (sm : Bool) (xd : Nat) (xa : Nat) (xb : Nat) (kp : Nat)
  | vmaxu (sm : Bool) (xd : Nat) (xa : Nat) (xb : Nat) (kp : Nat)
  | vand (sm : Bool) (xd : Nat) (xa : Nat) (xb : Nat) (kp : Nat)
  | vor (sm : Bool) (xd : Nat) (xa : Nat) (xb : Nat) (kp : Nat)
  | vxor (sm : Bool) (xd : Nat) (xa : Nat) (xb : Nat) (kp : Nat)
  | vshl (sm : Bool) (xd : Nat) (xa : Nat) (xb : Nat) (kp : Nat)
  | vshr (sm : Bool) (xd : Nat) (xa : Nat) (xb : Nat) (kp : Nat)
  | vsra (sm : Bool) (xd : Nat) (xa : Nat) (xb : Nat) (kp : Nat)
  | vaddi (sm : Bool) (xd : Nat) (xa : Nat) (imm : Int)
  | vandi (sm : Bool) (xd : Nat) (xa : Nat) (imm : Nat)
  | vori (sm : Bool) (xd : Nat) (xa : Nat) (imm : Nat)
  | vxori (sm : Bool) (xd : Nat) (xa : Nat) (imm : Nat)
  | vshli (sm : Bool) (xd : Nat) (xa : Nat) (amt : Nat)
  | vshri (sm : Bool) (xd : Nat) (xa : Nat) (amt : Nat)
  | vsrai (sm : Bool) (xd : Nat) (xa : Nat) (amt : Nat)
  | vmovi (sm : Bool) (xd : Nat) (imm : Int)
  | vlui (sm : Bool) (xd : Nat) (imm : Nat)
  | vbfx (sm : Bool) (xd : Nat) (xa : Nat) (xb : Nat) (kp : Nat)
  | vbfi (sm : Bool) (xd : Nat) (xa : Nat) (xb : Nat) (kp : Nat)
  | vsel (sm : Bool) (xd : Nat) (xa : Nat) (xb : Nat) (kp : Nat)
  | vmov (sm : Bool) (xd : Nat) (xa : Nat) (kp : Nat)
  | vneg (sm : Bool) (xd : Nat) (xa : Nat) (kp : Nat)
  | vabs (sm : Bool) (xd : Nat) (xa : Nat) (kp : Nat)
  | vnot (sm : Bool) (xd : Nat) (xa : Nat) (kp : Nat)
  | vpopc (sm : Bool) (xd : Nat) (xa : Nat) (kp : Nat)
  | vclz (sm : Bool) (xd : Nat) (xa : Nat) (kp : Nat)
  | vbrev (sm : Bool) (xd : Nat) (xa : Nat) (kp : Nat)
  | vlid (sm : Bool) (xd : Nat) (kp : Nat)
  | vcmp (sm : Bool) (cc : Cc) (kd : Nat) (xa : Nat) (xb : Nat) (kp : Nat)
  | vfcmp (sm : Bool) (cc : Fcc) (kd : Nat) (xa : Nat) (xb : Nat) (kp : Nat)
  | vfadd (sm : Bool) (xd : Nat) (xa : Nat) (xb : Nat) (kp : Nat)
  | vfsub (sm : Bool) (xd : Nat) (xa : Nat) (xb : Nat) (kp : Nat)
  | vfmul (sm : Bool) (xd : Nat) (xa : Nat) (xb : Nat) (kp : Nat)
  | vfma (sm : Bool) (xd : Nat) (xa : Nat) (xb : Nat) (kp : Nat)
  | vfms (sm : Bool) (xd : Nat) (xa : Nat) (xb : Nat) (kp : Nat)
  | vfmin (sm : Bool) (xd : Nat) (xa : Nat) (xb : Nat) (kp : Nat)
  | vfmax (sm : Bool) (xd : Nat) (xa : Nat) (xb : Nat) (kp : Nat)
  | vfabs (sm : Bool) (xd : Nat) (xa : Nat) (kp : Nat)
  | vfneg (sm : Bool) (xd : Nat) (xa : Nat) (kp : Nat)
  | vfrnd (sm : Bool) (md : Md) (xd : Nat) (xa : Nat) (kp : Nat)
  | vfclass (sm : Bool) (xd : Nat) (xa : Nat) (kp : Nat)
  | vrcp (sm : Bool) (md : Md) (xd : Nat) (xa : Nat) (kp : Nat)
  | vrsq (sm : Bool) (xd : Nat) (xa : Nat) (kp : Nat)
  | vsqrt (sm : Bool) (md : Md) (xd : Nat) (xa : Nat) (kp : Nat)
  | vexp2 (sm : Bool) (xd : Nat) (xa : Nat) (kp : Nat)
  | vlog2 (sm : Bool) (xd : Nat) (xa : Nat) (kp : Nat)
  | vsin (sm : Bool) (xd : Nat) (xa : Nat) (kp : Nat)
  | vcos (sm : Bool) (xd : Nat) (xa : Nat) (kp : Nat)
  | vtanh (sm : Bool) (xd : Nat) (xa : Nat) (kp : Nat)
  | vpadd (sm : Bool) (ty : Pty) (xd : Nat) (xa : Nat) (xb : Nat)
  | vpmul (sm : Bool) (ty : Pty) (xd : Nat) (xa : Nat) (xb : Nat)
  | vpfma (sm : Bool) (ty : Pty) (xd : Nat) (xa : Nat) (xb : Nat)
  | vcvt (sm : Bool) (kind : CvtKind) (md : Md) (xd : Nat) (xa : Nat) (kp : Nat)
  | vquant (sm : Bool) (fmt : QFmt) (xd : Nat) (xa : Nat) (kd : Nat) (kp : Nat)
  | vdot4 (sm : Bool) (sa : Bool) (sb : Bool) (st : Bool) (xd : Nat) (xa : Nat) (xb : Nat)
  | vdot8 (sm : Bool) (sa : Bool) (sb : Bool) (st : Bool) (xd : Nat) (xa : Nat) (xb : Nat)
  | vshfl (sm : Bool) (xd : Nat) (xa : Nat) (xb : Nat) (kp : Nat)
  | vbcast (sm : Bool) (xd : Nat) (xa : Nat) (lane : Nat)
  | vrot (sm : Bool) (xd : Nat) (xa : Nat) (rot : Nat)
  | vred (sm : Bool) (fn : RedFn) (md : Md) (xd : Nat) (xa : Nat) (kp : Nat)
  | vscan (sm : Bool) (fn : RedFn) (md : Md) (xd : Nat) (xa : Nat) (kp : Nat)
  | vld (sm : Bool) (sz : LdSize) (strong : Bool) (xt : Nat) (xo : Nat) (aw : Nat) (kp : Nat)
  | vst (sm : Bool) (sz : Size4) (strong : Bool) (xt : Nat) (xo : Nat) (aw : Nat) (kp : Nat)
  | vatom (sm : Bool) (aop : Aop) (xt : Nat) (xo : Nat) (aw : Nat) (kp : Nat)
  | lld (sm : Bool) (sz : Size4) (xt : Nat) (xo : Nat) (disp : Nat) (kp : Nat)
  | lst (sm : Bool) (sz : Size4) (xt : Nat) (xo : Nat) (disp : Nat) (kp : Nat)
  | latom (sm : Bool) (aop : Aop) (xt : Nat) (xo : Nat) (kp : Nat)
  | vltag (sm : Bool) (xd : Nat) (xa : Nat) (kp : Nat)
  | sadd (sm : Bool) (w : Bool) (xd : Nat) (xa : Nat) (xb : Nat)
  | ssub (sm : Bool) (w : Bool) (xd : Nat) (xa : Nat) (xb : Nat)
  | smul (sm : Bool) (w : Bool) (xd : Nat) (xa : Nat) (xb : Nat)
  | smulh (sm : Bool) (w : Bool) (xd : Nat) (xa : Nat) (xb : Nat)
  | sand (sm : Bool) (w : Bool) (xd : Nat) (xa : Nat) (xb : Nat)
  | sor (sm : Bool) (w : Bool) (xd : Nat) (xa : Nat) (xb : Nat)
  | sxor (sm : Bool) (w : Bool) (xd : Nat) (xa : Nat) (xb : Nat)
  | smulhu (sm : Bool) (w : Bool) (xd : Nat) (xa : Nat) (xb : Nat)
  | sshl (sm : Bool) (w : Bool) (xd : Nat) (xa : Nat) (xb : Nat)
  | sshr (sm : Bool) (w : Bool) (xd : Nat) (xa : Nat) (xb : Nat)
  | ssra (sm : Bool) (w : Bool) (xd : Nat) (xa : Nat) (xb : Nat)
  | sandn (sm : Bool) (w : Bool) (xd : Nat) (xa : Nat) (xb : Nat)
  | smin (sm : Bool) (w : Bool) (xd : Nat) (xa : Nat) (xb : Nat)
  | smax (sm : Bool) (w : Bool) (xd : Nat) (xa : Nat) (xb : Nat)
  | sminu (sm : Bool) (w : Bool) (xd : Nat) (xa : Nat) (xb : Nat)
  | smaxu (sm : Bool) (w : Bool) (xd : Nat) (xa : Nat) (xb : Nat)
  | sdiv (sm : Bool) (w : Bool) (xd : Nat) (xa : Nat) (xb : Nat)
  | sdivu (sm : Bool) (w : Bool) (xd : Nat) (xa : Nat) (xb : Nat)
  | srem (sm : Bool) (w : Bool) (xd : Nat) (xa : Nat) (xb : Nat)
  | sremu (sm : Bool) (w : Bool) (xd : Nat) (xa : Nat) (xb : Nat)
  | scmp (sm : Bool) (w : Bool) (xa : Nat) (xb : Nat)
  | sfcmp (sm : Bool) (xa : Nat) (xb : Nat)
  | spopc (sm : Bool) (w : Bool) (xd : Nat) (xa : Nat)
  | sclz (sm : Bool) (w : Bool) (xd : Nat) (xa : Nat)
  | sfadd (sm : Bool) (xd : Nat) (xa : Nat) (xb : Nat)
  | sfsub (sm : Bool) (xd : Nat) (xa : Nat) (xb : Nat)
  | sfmul (sm : Bool) (xd : Nat) (xa : Nat) (xb : Nat)
  | sfma (sm : Bool) (xd : Nat) (xa : Nat) (xb : Nat)
  | ssel (sm : Bool) (cnd : Cond) (xd : Nat) (xa : Nat) (xb : Nat)
  | saddi (sm : Bool) (xd : Nat) (xa : Nat) (imm : Int)
  | sandi (sm : Bool) (xd : Nat) (xa : Nat) (imm : Nat)
  | sori (sm : Bool) (xd : Nat) (xa : Nat) (imm : Nat)
  | sxori (sm : Bool) (xd : Nat) (xa : Nat) (imm : Nat)
  | sshli (sm : Bool) (w : Bool) (xd : Nat) (xa : Nat) (amt : Nat)
  | sshri (sm : Bool) (w : Bool) (xd : Nat) (xa : Nat) (amt : Nat)
  | ssrai (sm : Bool) (w : Bool) (xd : Nat) (xa : Nat) (amt : Nat)
  | scmpi (sm : Bool) (xa : Nat) (imm : Int)
  | smovi (sm : Bool) (xd : Nat) (imm : Int)
  | slui (sm : Bool) (xd : Nat) (imm : Nat)
  | smovl (sm : Bool) (xd : Nat) (imm : Nat)
  | scvt (sm : Bool) (kind : ScvtKind) (xd : Nat) (xa : Nat)
  | sget (sm : Bool) (xd : Nat) (xa : Nat) (xb : Nat)
  | sset (sm : Bool) (xd : Nat) (xa : Nat) (xb : Nat)
  | br (sm : Bool) (cnd : Cond) (off : Int)
  | call (sm : Bool) (cnd : Cond) (off : Int)
  | jmpr (sm : Bool) (xa : Nat)
  | ret (sm : Bool)
  | callr (sm : Bool) (xa : Nat)
  | dif (sm : Bool) (kc : Nat) (off : Int)
  | delse (sm : Bool) (off : Int)
  | dend (sm : Bool)
  | dloop (sm : Bool) (kc : Nat) (off : Int)
  | dbrk (sm : Bool) (kc : Nat) (off : Int)
  | kand (sm : Bool) (kd : Nat) (ka : Nat) (kb : Nat)
  | kor (sm : Bool) (kd : Nat) (ka : Nat) (kb : Nat)
  | kxor (sm : Bool) (kd : Nat) (ka : Nat) (kb : Nat)
  | kandn (sm : Bool) (kd : Nat) (ka : Nat) (kb : Nat)
  | knot (sm : Bool) (kd : Nat) (ka : Nat)
  | kmov (sm : Bool) (kd : Nat) (ka : Nat)
  | kpopc (sm : Bool) (xa : Nat) (ka : Nat)
  | kfirst (sm : Bool) (xa : Nat) (ka : Nat)
  | kset (sm : Bool) (kd : Nat)
  | kget (sm : Bool) (xa : Nat) (ka : Nat)
  | kfrom (sm : Bool) (kd : Nat) (xa : Nat)
  | sld (sm : Bool) (sz : Size4) (xd : Nat) (xa : Nat) (disp : Int)
  | sst (sm : Bool) (sz : Size4) (xd : Nat) (xa : Nat) (disp : Int)
  | satomAdd (sm : Bool) (w : Bool) (xd : Nat) (xa : Nat) (xb : Nat)
  | satomMin (sm : Bool) (w : Bool) (xd : Nat) (xa : Nat) (xb : Nat)
  | satomMax (sm : Bool) (w : Bool) (xd : Nat) (xa : Nat) (xb : Nat)
  | satomSwp (sm : Bool) (w : Bool) (xd : Nat) (xa : Nat) (xb : Nat)
  | satomAnd (sm : Bool) (w : Bool) (xd : Nat) (xa : Nat) (xb : Nat)
  | satomOr (sm : Bool) (w : Bool) (xd : Nat) (xa : Nat) (xb : Nat)
  | satomXor (sm : Bool) (w : Bool) (xd : Nat) (xa : Nat) (xb : Nat)
  | satomCas (sm : Bool) (w : Bool) (xd : Nat) (xa : Nat) (xb : Nat)
  | bar (sm : Bool) (id : Nat)
  | barph (sm : Bool) (id : Nat) (idx : Nat)
  | bwinit (sm : Bool) (xa : Nat) (xb : Nat)
  | barv (sm : Bool) (xd : Nat) (xa : Nat)
  | bwt (sm : Bool) (xa : Nat) (xb : Nat)
  | wait (sm : Bool) (cls : Nat) (count : Nat)
  | wtok (sm : Bool) (xa : Nat)
  | wadr (sm : Bool) (xd : Nat) (xa : Nat) (xb : Nat)
  | wake (sm : Bool) (xd : Nat) (xa : Nat) (xb : Nat)
  | fenceAcq (sm : Bool) (sc : Scope)
  | fenceRel (sm : Bool) (sc : Scope)
  | fenceAr (sm : Bool) (sc : Scope)
  | fenceSc (sm : Bool) (sc : Scope)
  | pfence (sm : Bool) (sc : Scope) (frm : Nat) (dst : Nat)
  | acq (sm : Bool) (xa : Nat)
  | rel (sm : Bool) (xa : Nat)
  | bind (sm : Bool) (xd : Nat) (xa : Nat) (xb : Nat)
  | unbind (sm : Bool) (xd : Nat) (xa : Nat) (xb : Nat)
  | ifence (sm : Bool)
  | cpy (sm : Bool) (arv : Bool) (xd : Nat) (xa : Nat)
  | cpy2d (sm : Bool) (arv : Bool) (xd : Nat) (xa : Nat)
  | gath (sm : Bool) (scl : Bool) (arv : Bool) (xd : Nat) (xa : Nat)
  | scat (sm : Bool) (scl : Bool) (arv : Bool) (xd : Nat) (xa : Nat)
  | cpyl (sm : Bool) (arv : Bool) (xd : Nat) (xa : Nat)
  | fill (sm : Bool) (arv : Bool) (xd : Nat) (xa : Nat)
  | allred (sm : Bool) (bf : Bool) (op : ColOp) (arv : Bool) (xd : Nat) (xa : Nat)
  | allgath (sm : Bool) (arv : Bool) (xd : Nat) (xa : Nat)
  | redscat (sm : Bool) (bf : Bool) (op : ColOp) (arv : Bool) (xd : Nat) (xa : Nat)
  | bcast (sm : Bool) (arv : Bool) (xd : Nat) (xa : Nat)
  | mxres (sm : Bool) (xd : Nat) (xa : Nat)
  | mxrel (sm : Bool) (xd : Nat) (xa : Nat)
  | mxld (sm : Bool) (xd : Nat) (xa : Nat)
  | mxmm (sm : Bool) (xd : Nat) (xa : Nat)
  | mxmmg (sm : Bool) (xd : Nat) (xa : Nat)
  | launch (sm : Bool) (arv : Bool) (xd : Nat) (xa : Nat)
  | gtrig (sm : Bool) (xd : Nat) (xa : Nat)
  | fdone (sm : Bool) (xd : Nat)
  | coinw (sm : Bool)
  | coinp (sm : Bool)
  | rnd (sm : Bool)
  | spt (sm : Bool) (n : Nat)
  | xfer (sm : Bool) (xd : Nat) (xa : Nat)
  | epopen (sm : Bool) (xd : Nat) (xa : Nat)
  | epstep (sm : Bool) (xd : Nat) (xa : Nat)
  | epclose (sm : Bool) (xd : Nat) (xa : Nat)
  | rwpost (sm : Bool) (xd : Nat) (xa : Nat)
  | lqpop (sm : Bool) (xd : Nat) (xa : Nat)
  | escfg (sm : Bool) (xd : Nat) (xa : Nat)
  | nop (sm : Bool)
  | brk (sm : Bool)
  | sret (sm : Bool)
  | halt (sm : Bool)
  | trap (sm : Bool) (n : Nat)
  | srd (sm : Bool) (xd : Nat) (num : Nat)
  | swr (sm : Bool) (xa : Nat) (num : Nat)
  | topo (sm : Bool) (xd : Nat) (xa : Nat) (sel : Nat)
  | capq (sm : Bool) (xd : Nat) (xa : Nat) (sel : Nat)
  | ltag (sm : Bool) (xd : Nat) (xa : Nat)
  | tagset (sm : Bool) (xd : Nat) (xa : Nat) (xb : Nat)
  | tagclr (sm : Bool) (xd : Nat) (xa : Nat) (xb : Nat)
  | xacq (sm : Bool) (n : Nat)
  | xrel (sm : Bool)
  | awin (sm : Bool) (aw : Nat) (xa : Nat)
  | pref (sm : Bool) (xa : Nat) (xb : Nat)
  | prefT (sm : Bool) (xa : Nat) (xb : Nat)
  | shortVadd (a b : Nat)
  | shortVsub (a b : Nat)
  | shortVmul (a b : Nat)
  | shortVfadd (a b : Nat)
  | shortVfmul (a b : Nat)
  | shortVfma (a b c : Nat)
  | shortVmov (a b : Nat)
  | shortVaddi (a b : Nat)
  | shortVld (a b : Nat)
  | shortVst (a b : Nat)
  | shortLld (a b c : Nat)
  | shortLst (a b c : Nat)
  | shortVand (a b : Nat)
  | shortVor (a b : Nat)
  | shortVshli (a b c : Nat)
  | shortVcmp (a b c : Nat)
  | shortSadd (a b : Nat)
  | shortSsub (a b : Nat)
  | shortSaddi (a b : Nat)
  | shortSmov (a b : Nat)
  | shortScmp (a b : Nat)
  | shortSld (a b c : Nat)
  | shortSst (a b c : Nat)
  | shortSshli (a b c : Nat)
  | shortBr (a b c : Nat)
  | shortDend
  | shortSpt (a b : Nat)
  | shortWait (a b : Nat)
  | shortBar (a : Nat)
  | shortNop
  | xacqGrant (core : Nat)
  | bwtWake (g : Nat)
  | wadrWake (g : Nat)
  | engineCause (g : Nat)
  | groupExit (g : Nat)
  | blockPlace (grid : Nat) (core : Nat)
  | phaseEnd (blk : Nat)
  | phaseResume (blk : Nat) (core : Nat)
  | blockRetire (blk : Nat)
  | gridComplete (grid : Nat)
  | copyComplete (cmd : Nat)
  | cpylLineLand (cmd : Nat)
  | collectiveRound (cmd : Nat)
  | matrixUnit (cluster : Nat)
  | powerOn (lost : List Nat) (down : List Nat)
  | powerStep (region : Nat) (current : Nat)
  | droopAlarm (region : Nat)
  | droopAlarmClear (region : Nat)
  | slowHoldExpire (region : Nat)
  | pwrDroopWrite (v : Nat)
  | linkStateChange (link : Link) (st : Nat) (width : Nat) (rate : Nat) (reason : Nat) (cap : Nat)
  | peerFlitReceive (port : Nat) (flit : List Nat)
  | peerLinkRetrain (port : Nat)
  | bar2Read (off : Nat) (len : Nat)
  | bar2Write (off : Nat) (bytes : List Nat)
  | registerWrite (off : Nat) (v : Nat)
  | pageRequestForward (c : Nat)
  | pgAnswer (v : Nat)
  | pgStaleClear
  | xlatInv (v : Nat)
  | xlatInvComplete
  | ctxCreate (v : Nat)
  | ctxDbg (c : Nat) (on : Bool)
  | ctxDestroy (c : Nat)
  | ctxKill (c : Nat)
  | ctxResume (c : Nat)
  | ctxPreempt (c : Nat)
  | ctxUnpreempt (c : Nat)
  | schedulerDrain (c : Nat)
  | drainComplete (c : Nat)
  | ckptStart
  | ckptRestore
  | ckptDone
  | dieOffline (v : Nat)
  | offlineDone
  | dieLoss (die : Nat)
  | correctedError (die : Nat) (kind : Nat) (unit : Nat) (cycle : Nat)
  | harvestRetire (die : Nat) (kind : Nat) (unit : Nat)
  | vaultImport (v : Nat)
  | securityAlarm (src : Nat)
  | secStatusWrite (v : Nat)
  | secFreeze
  | freezeLine
  | monClear (die : Nat) (mon : Nat)
  | mintStatClear
  | mintTrigger (c : Nat) (img : Nat) (kern : Nat)
  | mintBuildDone (c : Nat) (img : Nat) (kern : Nat) (built : Option BuiltVersion)
  | eventTask (c : Nat)
  | traceOverflowRecord (c : Nat) (die : Nat)
  | roundClose (grid : Nat)
  | coinWaitResume (g : Nat)
  | blockSuspend (blk : Nat)
  | rewardApply (post : Nat)
  | orphanExpire (slice : Nat) (c : Nat) (key : Nat) (t : Nat)
  | episodeTimeout (slice : Nat) (c : Nat) (key : Nat)
  | discountEpisode (slice : Nat)
  | episodeRelease (slice : Nat) (c : Nat)
  | escPost (size : Nat) (v : Nat)
  | gload (v : Nat)
  | gtrigWrite (v : Nat)
  | graphStatClear
  | graphRunStart (gid : Nat)
  | graphNodeStart (gid : Nat) (node : Nat)
  | graphRunComplete (gid : Nat)
  | firingDispatch (gid : Nat) (node : Nat) (stage : Nat) (core : Nat)
  | governorMove (gid : Nat) (node : Nat)
  | sgRebind (v : Nat)
  | sgRebindApply (gid : Nat) (node : Nat)
  | registerResultWritten (g : Nat)
  | contextCreationEnd
  | graphLoadEnd
  | importEnd
  | alarmSourceEnd (src : Nat)
  | imageLoad (c : Nat) (bytes : List Nat) (bases : List Nat) (syms : List (Nat × Nat × Bool))
  deriving DecidableEq, Repr

end Sys2Proof
end

