-- ==== Sys2Proof/WellFormed.lean ====
section
/-!
DEFINITION. Which instructions are well formed: every field within its width, and the static conditions of R105, R106, R110, R242, R247.
A word whose fields break one of these is not an instruction: it raises cause 0x01 (R110), so the decoder refuses it.
-/
namespace Sys2Proof

/-- The number of an even register: the only kind that names a 64-bit pair (R105). -/
def even (r : Nat) : Bool := r % 2 == 0
/-- When a form works on pairs, every register of the list is even (R105, R106). -/
def pairs (w : Bool) (rs : List Nat) : Bool := !w || rs.all even
/-- A register number names x0 to x127. -/
def regOk (r : Nat) : Bool := decide (r < 128)
/-- A mask or window number names k0 to k7 or a0 to a7. -/
def maskOk (k : Nat) : Bool := decide (k < 8)
/-- A signed immediate of n bits. -/
def sOk (n : Nat) (i : Int) : Bool := decide (-(2 ^ (n - 1) : Int) ≤ i ∧ i < 2 ^ (n - 1))
/-- A parameter block of n registers starts at an even register and ends at or below x127 (R242). -/
def blockOk (xa n : Nat) : Bool := even xa && decide (xa + n ≤ 128)
/-- The special registers that are named whole as a pair (R158). -/
def specialPair (num : Nat) : Bool :=
  num == 0x20 || num == 0x21 || num == 0x50 || num == 0x102 || num == 0x112 || num == 0x114

/-- A `vcvt` kind that rounds (R183). The others are exact and take md = 0. -/
def CvtKind.rounds : CvtKind → Bool
  | .f32F16 | .f32Bf16 | .f32E4m3 | .f32E5m2 | .f32Ts8 => false
  | .f32Int | .f32Uint | .intF32 | .uintF32 | .f16F32 | .bf16F32 | .e4m3F32 | .e5m2F32 | .ts8F32 | .int8F32
  | .uint8F32 => true
/-- `.fadd` takes every md but SR, every other reduction takes md = 0 (R76, R188). -/
def RedFn.mdOk (fn : RedFn) (md : Md) : Bool :=
  if fn == .fadd then !(md == .sr) else md == .rne
/-- The 5-bit code of a condition (R107). -/
def Cond.code : Cond → Nat
  | .al => 0 | .eq => 1 | .ne => 2 | .lt => 3 | .ge => 4 | .le => 5 | .gt => 6 | .ltu => 7 | .geu => 8 | .leu => 9
  | .gtu => 10 | .uo => 11 | .kz n => 11 + n | .ka n => 18 + n
/-- The mask of a mask condition is k1 to k7 (R107). -/
def Cond.ok : Cond → Bool
  | .kz n | .ka n => decide (1 ≤ n ∧ n ≤ 7)
  | .al | .eq | .ne | .lt | .ge | .le | .gt | .ltu | .geu | .leu | .gtu | .uo => true

/-- Every field within its width, and the static conditions of the instruction. The events have no encoding: no word
is one, and none is well formed as an instruction word. -/
def Instr.wf : Instr → Bool
  | .vadd _ xd xa xb kp => regOk xd && regOk xa && regOk xb && maskOk kp
  | .vsub _ xd xa xb kp => regOk xd && regOk xa && regOk xb && maskOk kp
  | .vmul _ xd xa xb kp => regOk xd && regOk xa && regOk xb && maskOk kp
  | .vmulh _ xd xa xb kp => regOk xd && regOk xa && regOk xb && maskOk kp
  | .vmulhu _ xd xa xb kp => regOk xd && regOk xa && regOk xb && maskOk kp
  | .vmad _ xd xa xb kp => regOk xd && regOk xa && regOk xb && maskOk kp
  | .vmin _ xd xa xb kp => regOk xd && regOk xa && regOk xb && maskOk kp
  | .vminu _ xd xa xb kp => regOk xd && regOk xa && regOk xb && maskOk kp
  | .vmax _ xd xa xb kp => regOk xd && regOk xa && regOk xb && maskOk kp
  | .vmaxu _ xd xa xb kp => regOk xd && regOk xa && regOk xb && maskOk kp
  | .vand _ xd xa xb kp => regOk xd && regOk xa && regOk xb && maskOk kp
  | .vor _ xd xa xb kp => regOk xd && regOk xa && regOk xb && maskOk kp
  | .vxor _ xd xa xb kp => regOk xd && regOk xa && regOk xb && maskOk kp
  | .vshl _ xd xa xb kp => regOk xd && regOk xa && regOk xb && maskOk kp
  | .vshr _ xd xa xb kp => regOk xd && regOk xa && regOk xb && maskOk kp
  | .vsra _ xd xa xb kp => regOk xd && regOk xa && regOk xb && maskOk kp
  | .vaddi _ xd xa imm => regOk xd && regOk xa && sOk 10 imm
  | .vandi _ xd xa imm => regOk xd && regOk xa && decide (imm < 1024)
  | .vori _ xd xa imm => regOk xd && regOk xa && decide (imm < 1024)
  | .vxori _ xd xa imm => regOk xd && regOk xa && decide (imm < 1024)
  | .vshli _ xd xa amt => regOk xd && regOk xa && decide (amt < 32)
  | .vshri _ xd xa amt => regOk xd && regOk xa && decide (amt < 32)
  | .vsrai _ xd xa amt => regOk xd && regOk xa && decide (amt < 32)
  | .vmovi _ xd imm => regOk xd && sOk 17 imm
  | .vlui _ xd imm => regOk xd && decide (imm < 131072)
  | .vbfx _ xd xa xb kp => regOk xd && regOk xa && regOk xb && maskOk kp
  | .vbfi _ xd xa xb kp => regOk xd && regOk xa && regOk xb && maskOk kp
  | .vsel _ xd xa xb kp => regOk xd && regOk xa && regOk xb && maskOk kp
  | .vmov _ xd xa kp => regOk xd && regOk xa && maskOk kp
  | .vneg _ xd xa kp => regOk xd && regOk xa && maskOk kp
  | .vabs _ xd xa kp => regOk xd && regOk xa && maskOk kp
  | .vnot _ xd xa kp => regOk xd && regOk xa && maskOk kp
  | .vpopc _ xd xa kp => regOk xd && regOk xa && maskOk kp
  | .vclz _ xd xa kp => regOk xd && regOk xa && maskOk kp
  | .vbrev _ xd xa kp => regOk xd && regOk xa && maskOk kp
  | .vlid _ xd kp => regOk xd && maskOk kp
  | .vcmp _ _ kd xa xb kp => maskOk kd && regOk xa && regOk xb && maskOk kp
  | .vfcmp _ _ kd xa xb kp => maskOk kd && regOk xa && regOk xb && maskOk kp
  | .vfadd _ xd xa xb kp => regOk xd && regOk xa && regOk xb && maskOk kp
  | .vfsub _ xd xa xb kp => regOk xd && regOk xa && regOk xb && maskOk kp
  | .vfmul _ xd xa xb kp => regOk xd && regOk xa && regOk xb && maskOk kp
  | .vfma _ xd xa xb kp => regOk xd && regOk xa && regOk xb && maskOk kp
  | .vfms _ xd xa xb kp => regOk xd && regOk xa && regOk xb && maskOk kp
  | .vfmin _ xd xa xb kp => regOk xd && regOk xa && regOk xb && maskOk kp
  | .vfmax _ xd xa xb kp => regOk xd && regOk xa && regOk xb && maskOk kp
  | .vfabs _ xd xa kp => regOk xd && regOk xa && maskOk kp
  | .vfneg _ xd xa kp => regOk xd && regOk xa && maskOk kp
  | .vfrnd _ _ xd xa kp => regOk xd && regOk xa && maskOk kp
  | .vfclass _ xd xa kp => regOk xd && regOk xa && maskOk kp
  | .vrcp _ _ xd xa kp => regOk xd && regOk xa && maskOk kp
  | .vrsq _ xd xa kp => regOk xd && regOk xa && maskOk kp
  | .vsqrt _ _ xd xa kp => regOk xd && regOk xa && maskOk kp
  | .vexp2 _ xd xa kp => regOk xd && regOk xa && maskOk kp
  | .vlog2 _ xd xa kp => regOk xd && regOk xa && maskOk kp
  | .vsin _ xd xa kp => regOk xd && regOk xa && maskOk kp
  | .vcos _ xd xa kp => regOk xd && regOk xa && maskOk kp
  | .vtanh _ xd xa kp => regOk xd && regOk xa && maskOk kp
  | .vpadd _ _ xd xa xb => regOk xd && regOk xa && regOk xb
  | .vpmul _ _ xd xa xb => regOk xd && regOk xa && regOk xb
  | .vpfma _ _ xd xa xb => regOk xd && regOk xa && regOk xb
  | .vcvt _ kind md xd xa kp => regOk xd && regOk xa && maskOk kp && (kind.rounds || md == .rne)
  | .vquant _ _ xd xa kd kp => regOk xd && regOk xa && maskOk kd && maskOk kp
  | .vdot4 _ _ _ _ xd xa xb => regOk xd && regOk xa && regOk xb
  | .vdot8 _ _ _ _ xd xa xb => regOk xd && regOk xa && regOk xb
  | .vshfl _ xd xa xb kp => regOk xd && regOk xa && regOk xb && maskOk kp
  | .vbcast _ xd xa lane => regOk xd && regOk xa && decide (lane < 64)
  | .vrot _ xd xa rot => regOk xd && regOk xa && decide (rot < 64)
  | .vred _ fn md xd xa kp => regOk xd && regOk xa && maskOk kp && fn.mdOk md
  | .vscan _ fn md xd xa kp => regOk xd && regOk xa && maskOk kp && fn.mdOk md
  | .vld _ sz _ xt xo aw kp => regOk xt && regOk xo && maskOk aw && maskOk kp && pairs (sz == .d) [xt]
  | .vst _ sz _ xt xo aw kp => regOk xt && regOk xo && maskOk aw && maskOk kp && pairs (sz == .d) [xt]
  | .vatom _ aop xt xo aw kp => regOk xt && regOk xo && maskOk aw && maskOk kp && pairs (aop == .cas) [xt]
  | .lld _ sz xt xo disp kp => regOk xt && regOk xo && decide (disp < 32) && maskOk kp && pairs (sz == .d) [xt]
  | .lst _ sz xt xo disp kp => regOk xt && regOk xo && decide (disp < 32) && maskOk kp && pairs (sz == .d) [xt]
  | .latom _ aop xt xo kp => regOk xt && regOk xo && maskOk kp && pairs (aop == .cas) [xt]
  | .vltag _ xd xa kp => regOk xd && regOk xa && maskOk kp
  | .sadd _ w xd xa xb => regOk xd && regOk xa && regOk xb && pairs w [xd, xa, xb]
  | .ssub _ w xd xa xb => regOk xd && regOk xa && regOk xb && pairs w [xd, xa, xb]
  | .smul _ w xd xa xb => regOk xd && regOk xa && regOk xb && pairs w [xd, xa, xb]
  | .smulh _ w xd xa xb => regOk xd && regOk xa && regOk xb && pairs w [xd, xa, xb]
  | .sand _ w xd xa xb => regOk xd && regOk xa && regOk xb && pairs w [xd, xa, xb]
  | .sor _ w xd xa xb => regOk xd && regOk xa && regOk xb && pairs w [xd, xa, xb]
  | .sxor _ w xd xa xb => regOk xd && regOk xa && regOk xb && pairs w [xd, xa, xb]
  | .smulhu _ w xd xa xb => regOk xd && regOk xa && regOk xb && pairs w [xd, xa, xb]
  | .sshl _ w xd xa xb => regOk xd && regOk xa && regOk xb && pairs w [xd, xa, xb]
  | .sshr _ w xd xa xb => regOk xd && regOk xa && regOk xb && pairs w [xd, xa, xb]
  | .ssra _ w xd xa xb => regOk xd && regOk xa && regOk xb && pairs w [xd, xa, xb]
  | .sandn _ w xd xa xb => regOk xd && regOk xa && regOk xb && pairs w [xd, xa, xb]
  | .smin _ w xd xa xb => regOk xd && regOk xa && regOk xb && pairs w [xd, xa, xb]
  | .smax _ w xd xa xb => regOk xd && regOk xa && regOk xb && pairs w [xd, xa, xb]
  | .sminu _ w xd xa xb => regOk xd && regOk xa && regOk xb && pairs w [xd, xa, xb]
  | .smaxu _ w xd xa xb => regOk xd && regOk xa && regOk xb && pairs w [xd, xa, xb]
  | .sdiv _ w xd xa xb => regOk xd && regOk xa && regOk xb && pairs w [xd, xa, xb]
  | .sdivu _ w xd xa xb => regOk xd && regOk xa && regOk xb && pairs w [xd, xa, xb]
  | .srem _ w xd xa xb => regOk xd && regOk xa && regOk xb && pairs w [xd, xa, xb]
  | .sremu _ w xd xa xb => regOk xd && regOk xa && regOk xb && pairs w [xd, xa, xb]
  | .scmp _ w xa xb => regOk xa && regOk xb && pairs w [xa, xb]
  | .sfcmp _ xa xb => regOk xa && regOk xb
  | .spopc _ w xd xa => regOk xd && regOk xa && pairs w [xd, xa]
  | .sclz _ w xd xa => regOk xd && regOk xa && pairs w [xd, xa]
  | .sfadd _ xd xa xb => regOk xd && regOk xa && regOk xb
  | .sfsub _ xd xa xb => regOk xd && regOk xa && regOk xb
  | .sfmul _ xd xa xb => regOk xd && regOk xa && regOk xb
  | .sfma _ xd xa xb => regOk xd && regOk xa && regOk xb
  | .ssel _ cnd xd xa xb => regOk xd && regOk xa && regOk xb && cnd.ok && decide (cnd.code < 8)
  | .saddi _ xd xa imm => regOk xd && regOk xa && sOk 10 imm
  | .sandi _ xd xa imm => regOk xd && regOk xa && decide (imm < 1024)
  | .sori _ xd xa imm => regOk xd && regOk xa && decide (imm < 1024)
  | .sxori _ xd xa imm => regOk xd && regOk xa && decide (imm < 1024)
  | .sshli _ w xd xa amt => regOk xd && regOk xa && decide (amt < 64) && pairs w [xd, xa] && (w || decide (amt < 32))
  | .sshri _ w xd xa amt => regOk xd && regOk xa && decide (amt < 64) && pairs w [xd, xa] && (w || decide (amt < 32))
  | .ssrai _ w xd xa amt => regOk xd && regOk xa && decide (amt < 64) && pairs w [xd, xa] && (w || decide (amt < 32))
  | .scmpi _ xa imm => regOk xa && sOk 10 imm
  | .smovi _ xd imm => regOk xd && sOk 17 imm
  | .slui _ xd imm => regOk xd && decide (imm < 131072)
  | .smovl _ xd imm => regOk xd && decide (imm < 4294967296)
  | .scvt _ _ xd xa => regOk xd && regOk xa
  | .sget _ xd xa xb => regOk xd && regOk xa && regOk xb
  | .sset _ xd xa xb => regOk xd && regOk xa && regOk xb
  | .br _ cnd off => sOk 19 off && cnd.ok
  | .call _ cnd off => sOk 19 off && cnd.ok
  | .jmpr _ xa => regOk xa
  | .ret _ => true
  | .callr _ xa => regOk xa
  | .dif _ kc off => maskOk kc && sOk 21 off
  | .delse _ off => sOk 21 off
  | .dend _ => true
  | .dloop _ kc off => maskOk kc && sOk 21 off
  | .dbrk _ kc off => maskOk kc && sOk 21 off
  | .kand _ kd ka kb => maskOk kd && maskOk ka && maskOk kb
  | .kor _ kd ka kb => maskOk kd && maskOk ka && maskOk kb
  | .kxor _ kd ka kb => maskOk kd && maskOk ka && maskOk kb
  | .kandn _ kd ka kb => maskOk kd && maskOk ka && maskOk kb
  | .knot _ kd ka => maskOk kd && maskOk ka
  | .kmov _ kd ka => maskOk kd && maskOk ka
  | .kpopc _ xa ka => regOk xa && maskOk ka
  | .kfirst _ xa ka => regOk xa && maskOk ka
  | .kset _ kd => maskOk kd
  | .kget _ xa ka => regOk xa && maskOk ka && even xa
  | .kfrom _ kd xa => maskOk kd && regOk xa && even xa
  | .sld _ sz xd xa disp => regOk xd && regOk xa && sOk 8 disp && even xa && pairs (sz == .d) [xd]
  | .sst _ sz xd xa disp => regOk xd && regOk xa && sOk 8 disp && even xa && pairs (sz == .d) [xd]
  | .satomAdd _ w xd xa xb => regOk xd && regOk xa && regOk xb && pairs w [xd, xb] && even xa
  | .satomMin _ w xd xa xb => regOk xd && regOk xa && regOk xb && pairs w [xd, xb] && even xa
  | .satomMax _ w xd xa xb => regOk xd && regOk xa && regOk xb && pairs w [xd, xb] && even xa
  | .satomSwp _ w xd xa xb => regOk xd && regOk xa && regOk xb && pairs w [xd, xb] && even xa
  | .satomAnd _ w xd xa xb => regOk xd && regOk xa && regOk xb && pairs w [xd, xb] && even xa
  | .satomOr _ w xd xa xb => regOk xd && regOk xa && regOk xb && pairs w [xd, xb] && even xa
  | .satomXor _ w xd xa xb => regOk xd && regOk xa && regOk xb && pairs w [xd, xb] && even xa
  | .satomCas _ w xd xa xb => regOk xd && regOk xa && regOk xb && pairs w [xd, xb] && even xa
  | .bar _ id => decide (id < 16)
  | .barph _ id idx => decide (id < 16) && decide (idx < 256)
  | .bwinit _ xa xb => regOk xa && regOk xb && even xa
  | .barv _ xd xa => regOk xd && regOk xa && even xa
  | .bwt _ xa xb => regOk xa && regOk xb && even xa
  | .wait _ cls count => decide (cls < 16) && decide (count < 4096) && decide (cls < 4)
  | .wtok _ xa => regOk xa
  | .wadr _ xd xa xb => regOk xd && regOk xa && regOk xb && even xa
  | .wake _ xd xa xb => regOk xd && regOk xa && regOk xb && even xa
  | .fenceAcq _ _ => true
  | .fenceRel _ _ => true
  | .fenceAr _ _ => true
  | .fenceSc _ _ => true
  | .pfence _ _ frm dst => decide (frm < 64) && decide (dst < 64)
  | .acq _ xa => regOk xa && even xa
  | .rel _ xa => regOk xa && even xa
  | .bind _ xd xa xb => regOk xd && regOk xa && regOk xb && even xa && even xb && decide (xb ≤ 124)
  | .unbind _ xd xa xb => regOk xd && regOk xa && regOk xb && even xa && even xb && decide (xb ≤ 124)
  | .ifence _ => true
  | .cpy _ arv xd xa => regOk xd && regOk xa && blockOk xa (if arv then 8 else 5)
  | .cpy2d _ arv xd xa => regOk xd && regOk xa && blockOk xa (if arv then 10 else 8)
  | .gath _ scl arv xd xa => regOk xd && regOk xa && blockOk xa ((if scl then 12 else 8) + (if arv then 2 else 0))
  | .scat _ scl arv xd xa => regOk xd && regOk xa && blockOk xa ((if scl then 12 else 8) + (if arv then 2 else 0))
  | .cpyl _ arv xd xa => regOk xd && regOk xa && blockOk xa (if arv then 8 else 5)
  | .fill _ arv xd xa => regOk xd && regOk xa && blockOk xa (if arv then 6 else 4)
  | .allred _ _ _ arv xd xa => regOk xd && regOk xa && blockOk xa (if arv then 12 else 8)
  | .allgath _ arv xd xa => regOk xd && regOk xa && blockOk xa (if arv then 12 else 8)
  | .redscat _ _ _ arv xd xa => regOk xd && regOk xa && blockOk xa (if arv then 12 else 8)
  | .bcast _ arv xd xa => regOk xd && regOk xa && blockOk xa (if arv then 12 else 9)
  | .mxres _ xd xa => regOk xd && regOk xa && blockOk xa (2)
  | .mxrel _ xd xa => regOk xd && regOk xa && blockOk xa (1)
  | .mxld _ xd xa => regOk xd && regOk xa && blockOk xa (6)
  | .mxmm _ xd xa => regOk xd && regOk xa && blockOk xa (16)
  | .mxmmg _ xd xa => regOk xd && regOk xa && blockOk xa (16)
  | .launch _ arv xd xa => regOk xd && regOk xa && blockOk xa (if arv then 18 else 16)
  | .gtrig _ xd xa => regOk xd && regOk xa && blockOk xa (4)
  | .fdone _ xd => regOk xd
  | .coinw _ => true
  | .coinp _ => true
  | .rnd _ => true
  | .spt _ n => decide (n < 4096)
  | .xfer _ xd xa => regOk xd && regOk xa
  | .epopen _ xd xa => regOk xd && regOk xa && blockOk xa (4)
  | .epstep _ xd xa => regOk xd && regOk xa && blockOk xa (6)
  | .epclose _ xd xa => regOk xd && regOk xa && blockOk xa (4)
  | .rwpost _ xd xa => regOk xd && regOk xa && blockOk xa (4)
  | .lqpop _ xd xa => regOk xd && regOk xa && blockOk xa (3)
  | .escfg _ xd xa => regOk xd && regOk xa && blockOk xa (8)
  | .nop _ => true
  | .brk _ => true
  | .sret _ => true
  | .halt _ => true
  | .trap _ n => decide (n < 256)
  | .srd _ xd num => regOk xd && decide (num < 512) && pairs (specialPair num) [xd]
  | .swr _ xa num => regOk xa && decide (num < 512) && pairs (specialPair num) [xa]
  | .topo _ xd xa sel => regOk xd && regOk xa && decide (sel < 1024)
  | .capq _ xd xa sel => regOk xd && regOk xa && decide (sel < 1024)
  | .ltag _ xd xa => regOk xd && regOk xa && even xd && even xa
  | .tagset _ xd xa xb => regOk xd && regOk xa && regOk xb && even xd && even xa
  | .tagclr _ xd xa xb => regOk xd && regOk xa && regOk xb && even xa
  | .xacq _ n => decide (n < 4) && decide (1 ≤ n)
  | .xrel _ => true
  | .awin _ aw xa => maskOk aw && regOk xa && even xa
  | .pref _ xa xb => regOk xa && regOk xb && even xa
  | .prefT _ xa xb => regOk xa && regOk xb && even xa
  | .shortVadd a b => decide (a < 16) && decide (b < 16)
  | .shortVsub a b => decide (a < 16) && decide (b < 16)
  | .shortVmul a b => decide (a < 16) && decide (b < 16)
  | .shortVfadd a b => decide (a < 16) && decide (b < 16)
  | .shortVfmul a b => decide (a < 16) && decide (b < 16)
  | .shortVfma a b c => decide (a < 16) && decide (b < 16) && decide (c < 4)
  | .shortVmov a b => decide (a < 16) && decide (b < 16)
  | .shortVaddi a b => decide (a < 16) && decide (b < 16)
  | .shortVld a b => decide (a < 16) && decide (b < 16)
  | .shortVst a b => decide (a < 16) && decide (b < 16)
  | .shortLld a b c => decide (a < 16) && decide (b < 16) && decide (c < 4)
  | .shortLst a b c => decide (a < 16) && decide (b < 16) && decide (c < 4)
  | .shortVand a b => decide (a < 16) && decide (b < 16)
  | .shortVor a b => decide (a < 16) && decide (b < 16)
  | .shortVshli a b c => decide (a < 16) && decide (b < 16) && decide (c < 4) && decide (c < 2)
  | .shortVcmp a b c => decide (a < 16) && decide (b < 16) && decide (c < 4)
  | .shortSadd a b => decide (a < 16) && decide (b < 16)
  | .shortSsub a b => decide (a < 16) && decide (b < 16)
  | .shortSaddi a b => decide (a < 16) && decide (b < 16)
  | .shortSmov a b => decide (a < 16) && decide (b < 16)
  | .shortScmp a b => decide (a < 16) && decide (b < 16)
  | .shortSld a b c => decide (a < 16) && decide (b < 16) && decide (c < 4) && even b
  | .shortSst a b c => decide (a < 16) && decide (b < 16) && decide (c < 4) && even b
  | .shortSshli a b c => decide (a < 16) && decide (b < 16) && decide (c < 4) && decide (c < 2)
  | .shortBr a b c => decide (a < 16) && decide (b < 16) && decide (c < 4)
  | .shortDend  => true
  | .shortSpt a b => decide (a < 16) && decide (b < 16)
  | .shortWait a b => decide (a < 16) && decide (b < 16) && decide (a < 4)
  | .shortBar a => decide (a < 16)
  | .shortNop  => true
  | .xacqGrant _ => false
  | .bwtWake _ => false
  | .wadrWake _ => false
  | .engineCause _ => false
  | .groupExit _ => false
  | .blockPlace _ _ => false
  | .phaseEnd _ => false
  | .phaseResume _ _ => false
  | .blockRetire _ => false
  | .gridComplete _ => false
  | .copyComplete _ => false
  | .cpylLineLand _ => false
  | .collectiveRound _ => false
  | .matrixUnit _ => false
  | .powerOn _ _ => false
  | .powerStep _ _ => false
  | .droopAlarm _ => false
  | .droopAlarmClear _ => false
  | .slowHoldExpire _ => false
  | .pwrDroopWrite _ => false
  | .linkStateChange _ _ _ _ _ _ => false
  | .peerFlitReceive _ _ => false
  | .peerLinkRetrain _ => false
  | .bar2Read _ _ => false
  | .bar2Write _ _ => false
  | .registerWrite _ _ => false
  | .pageRequestForward _ => false
  | .pgAnswer _ => false
  | .pgStaleClear => false
  | .xlatInv _ => false
  | .xlatInvComplete => false
  | .ctxCreate _ => false
  | .ctxDbg _ _ => false
  | .ctxDestroy _ => false
  | .ctxKill _ => false
  | .ctxResume _ => false
  | .ctxPreempt _ => false
  | .ctxUnpreempt _ => false
  | .schedulerDrain _ => false
  | .drainComplete _ => false
  | .ckptStart => false
  | .ckptRestore => false
  | .ckptDone => false
  | .dieOffline _ => false
  | .offlineDone => false
  | .dieLoss _ => false
  | .correctedError _ _ _ _ => false
  | .harvestRetire _ _ _ => false
  | .vaultImport _ => false
  | .securityAlarm _ => false
  | .secStatusWrite _ => false
  | .secFreeze => false
  | .freezeLine => false
  | .monClear _ _ => false
  | .mintStatClear => false
  | .mintTrigger _ _ _ => false
  | .mintBuildDone _ _ _ _ => false
  | .eventTask _ => false
  | .traceOverflowRecord _ _ => false
  | .roundClose _ => false
  | .coinWaitResume _ => false
  | .blockSuspend _ => false
  | .rewardApply _ => false
  | .orphanExpire _ _ _ _ => false
  | .episodeTimeout _ _ _ => false
  | .discountEpisode _ => false
  | .episodeRelease _ _ => false
  | .escPost _ _ => false
  | .gload _ => false
  | .gtrigWrite _ => false
  | .graphStatClear => false
  | .graphRunStart _ => false
  | .graphNodeStart _ _ => false
  | .graphRunComplete _ => false
  | .firingDispatch _ _ _ _ => false
  | .governorMove _ _ => false
  | .sgRebind _ => false
  | .sgRebindApply _ _ => false
  | .registerResultWritten _ => false
  | .contextCreationEnd => false
  | .graphLoadEnd => false
  | .importEnd => false
  | .alarmSourceEnd _ => false
  | .imageLoad _ _ _ _ => false

/-- The bytes of the list are bytes. -/
def bytesOk (bs : List Nat) : Bool := bs.all fun b => decide (b < 256)

/-- Whether a term is an event of the panel rather than an instruction word. -/
def Instr.isEvent : Instr → Bool
  | .vadd _ _ _ _ _ => false
  | .vsub _ _ _ _ _ => false
  | .vmul _ _ _ _ _ => false
  | .vmulh _ _ _ _ _ => false
  | .vmulhu _ _ _ _ _ => false
  | .vmad _ _ _ _ _ => false
  | .vmin _ _ _ _ _ => false
  | .vminu _ _ _ _ _ => false
  | .vmax _ _ _ _ _ => false
  | .vmaxu _ _ _ _ _ => false
  | .vand _ _ _ _ _ => false
  | .vor _ _ _ _ _ => false
  | .vxor _ _ _ _ _ => false
  | .vshl _ _ _ _ _ => false
  | .vshr _ _ _ _ _ => false
  | .vsra _ _ _ _ _ => false
  | .vaddi _ _ _ _ => false
  | .vandi _ _ _ _ => false
  | .vori _ _ _ _ => false
  | .vxori _ _ _ _ => false
  | .vshli _ _ _ _ => false
  | .vshri _ _ _ _ => false
  | .vsrai _ _ _ _ => false
  | .vmovi _ _ _ => false
  | .vlui _ _ _ => false
  | .vbfx _ _ _ _ _ => false
  | .vbfi _ _ _ _ _ => false
  | .vsel _ _ _ _ _ => false
  | .vmov _ _ _ _ => false
  | .vneg _ _ _ _ => false
  | .vabs _ _ _ _ => false
  | .vnot _ _ _ _ => false
  | .vpopc _ _ _ _ => false
  | .vclz _ _ _ _ => false
  | .vbrev _ _ _ _ => false
  | .vlid _ _ _ => false
  | .vcmp _ _ _ _ _ _ => false
  | .vfcmp _ _ _ _ _ _ => false
  | .vfadd _ _ _ _ _ => false
  | .vfsub _ _ _ _ _ => false
  | .vfmul _ _ _ _ _ => false
  | .vfma _ _ _ _ _ => false
  | .vfms _ _ _ _ _ => false
  | .vfmin _ _ _ _ _ => false
  | .vfmax _ _ _ _ _ => false
  | .vfabs _ _ _ _ => false
  | .vfneg _ _ _ _ => false
  | .vfrnd _ _ _ _ _ => false
  | .vfclass _ _ _ _ => false
  | .vrcp _ _ _ _ _ => false
  | .vrsq _ _ _ _ => false
  | .vsqrt _ _ _ _ _ => false
  | .vexp2 _ _ _ _ => false
  | .vlog2 _ _ _ _ => false
  | .vsin _ _ _ _ => false
  | .vcos _ _ _ _ => false
  | .vtanh _ _ _ _ => false
  | .vpadd _ _ _ _ _ => false
  | .vpmul _ _ _ _ _ => false
  | .vpfma _ _ _ _ _ => false
  | .vcvt _ _ _ _ _ _ => false
  | .vquant _ _ _ _ _ _ => false
  | .vdot4 _ _ _ _ _ _ _ => false
  | .vdot8 _ _ _ _ _ _ _ => false
  | .vshfl _ _ _ _ _ => false
  | .vbcast _ _ _ _ => false
  | .vrot _ _ _ _ => false
  | .vred _ _ _ _ _ _ => false
  | .vscan _ _ _ _ _ _ => false
  | .vld _ _ _ _ _ _ _ => false
  | .vst _ _ _ _ _ _ _ => false
  | .vatom _ _ _ _ _ _ => false
  | .lld _ _ _ _ _ _ => false
  | .lst _ _ _ _ _ _ => false
  | .latom _ _ _ _ _ => false
  | .vltag _ _ _ _ => false
  | .sadd _ _ _ _ _ => false
  | .ssub _ _ _ _ _ => false
  | .smul _ _ _ _ _ => false
  | .smulh _ _ _ _ _ => false
  | .sand _ _ _ _ _ => false
  | .sor _ _ _ _ _ => false
  | .sxor _ _ _ _ _ => false
  | .smulhu _ _ _ _ _ => false
  | .sshl _ _ _ _ _ => false
  | .sshr _ _ _ _ _ => false
  | .ssra _ _ _ _ _ => false
  | .sandn _ _ _ _ _ => false
  | .smin _ _ _ _ _ => false
  | .smax _ _ _ _ _ => false
  | .sminu _ _ _ _ _ => false
  | .smaxu _ _ _ _ _ => false
  | .sdiv _ _ _ _ _ => false
  | .sdivu _ _ _ _ _ => false
  | .srem _ _ _ _ _ => false
  | .sremu _ _ _ _ _ => false
  | .scmp _ _ _ _ => false
  | .sfcmp _ _ _ => false
  | .spopc _ _ _ _ => false
  | .sclz _ _ _ _ => false
  | .sfadd _ _ _ _ => false
  | .sfsub _ _ _ _ => false
  | .sfmul _ _ _ _ => false
  | .sfma _ _ _ _ => false
  | .ssel _ _ _ _ _ => false
  | .saddi _ _ _ _ => false
  | .sandi _ _ _ _ => false
  | .sori _ _ _ _ => false
  | .sxori _ _ _ _ => false
  | .sshli _ _ _ _ _ => false
  | .sshri _ _ _ _ _ => false
  | .ssrai _ _ _ _ _ => false
  | .scmpi _ _ _ => false
  | .smovi _ _ _ => false
  | .slui _ _ _ => false
  | .smovl _ _ _ => false
  | .scvt _ _ _ _ => false
  | .sget _ _ _ _ => false
  | .sset _ _ _ _ => false
  | .br _ _ _ => false
  | .call _ _ _ => false
  | .jmpr _ _ => false
  | .ret _ => false
  | .callr _ _ => false
  | .dif _ _ _ => false
  | .delse _ _ => false
  | .dend _ => false
  | .dloop _ _ _ => false
  | .dbrk _ _ _ => false
  | .kand _ _ _ _ => false
  | .kor _ _ _ _ => false
  | .kxor _ _ _ _ => false
  | .kandn _ _ _ _ => false
  | .knot _ _ _ => false
  | .kmov _ _ _ => false
  | .kpopc _ _ _ => false
  | .kfirst _ _ _ => false
  | .kset _ _ => false
  | .kget _ _ _ => false
  | .kfrom _ _ _ => false
  | .sld _ _ _ _ _ => false
  | .sst _ _ _ _ _ => false
  | .satomAdd _ _ _ _ _ => false
  | .satomMin _ _ _ _ _ => false
  | .satomMax _ _ _ _ _ => false
  | .satomSwp _ _ _ _ _ => false
  | .satomAnd _ _ _ _ _ => false
  | .satomOr _ _ _ _ _ => false
  | .satomXor _ _ _ _ _ => false
  | .satomCas _ _ _ _ _ => false
  | .bar _ _ => false
  | .barph _ _ _ => false
  | .bwinit _ _ _ => false
  | .barv _ _ _ => false
  | .bwt _ _ _ => false
  | .wait _ _ _ => false
  | .wtok _ _ => false
  | .wadr _ _ _ _ => false
  | .wake _ _ _ _ => false
  | .fenceAcq _ _ => false
  | .fenceRel _ _ => false
  | .fenceAr _ _ => false
  | .fenceSc _ _ => false
  | .pfence _ _ _ _ => false
  | .acq _ _ => false
  | .rel _ _ => false
  | .bind _ _ _ _ => false
  | .unbind _ _ _ _ => false
  | .ifence _ => false
  | .cpy _ _ _ _ => false
  | .cpy2d _ _ _ _ => false
  | .gath _ _ _ _ _ => false
  | .scat _ _ _ _ _ => false
  | .cpyl _ _ _ _ => false
  | .fill _ _ _ _ => false
  | .allred _ _ _ _ _ _ => false
  | .allgath _ _ _ _ => false
  | .redscat _ _ _ _ _ _ => false
  | .bcast _ _ _ _ => false
  | .mxres _ _ _ => false
  | .mxrel _ _ _ => false
  | .mxld _ _ _ => false
  | .mxmm _ _ _ => false
  | .mxmmg _ _ _ => false
  | .launch _ _ _ _ => false
  | .gtrig _ _ _ => false
  | .fdone _ _ => false
  | .coinw _ => false
  | .coinp _ => false
  | .rnd _ => false
  | .spt _ _ => false
  | .xfer _ _ _ => false
  | .epopen _ _ _ => false
  | .epstep _ _ _ => false
  | .epclose _ _ _ => false
  | .rwpost _ _ _ => false
  | .lqpop _ _ _ => false
  | .escfg _ _ _ => false
  | .nop _ => false
  | .brk _ => false
  | .sret _ => false
  | .halt _ => false
  | .trap _ _ => false
  | .srd _ _ _ => false
  | .swr _ _ _ => false
  | .topo _ _ _ _ => false
  | .capq _ _ _ _ => false
  | .ltag _ _ _ => false
  | .tagset _ _ _ _ => false
  | .tagclr _ _ _ _ => false
  | .xacq _ _ => false
  | .xrel _ => false
  | .awin _ _ _ => false
  | .pref _ _ _ => false
  | .prefT _ _ _ => false
  | .shortVadd _ _ => false
  | .shortVsub _ _ => false
  | .shortVmul _ _ => false
  | .shortVfadd _ _ => false
  | .shortVfmul _ _ => false
  | .shortVfma _ _ _ => false
  | .shortVmov _ _ => false
  | .shortVaddi _ _ => false
  | .shortVld _ _ => false
  | .shortVst _ _ => false
  | .shortLld _ _ _ => false
  | .shortLst _ _ _ => false
  | .shortVand _ _ => false
  | .shortVor _ _ => false
  | .shortVshli _ _ _ => false
  | .shortVcmp _ _ _ => false
  | .shortSadd _ _ => false
  | .shortSsub _ _ => false
  | .shortSaddi _ _ => false
  | .shortSmov _ _ => false
  | .shortScmp _ _ => false
  | .shortSld _ _ _ => false
  | .shortSst _ _ _ => false
  | .shortSshli _ _ _ => false
  | .shortBr _ _ _ => false
  | .shortDend => false
  | .shortSpt _ _ => false
  | .shortWait _ _ => false
  | .shortBar _ => false
  | .shortNop => false
  | .xacqGrant _ => true
  | .bwtWake _ => true
  | .wadrWake _ => true
  | .engineCause _ => true
  | .groupExit _ => true
  | .blockPlace _ _ => true
  | .phaseEnd _ => true
  | .phaseResume _ _ => true
  | .blockRetire _ => true
  | .gridComplete _ => true
  | .copyComplete _ => true
  | .cpylLineLand _ => true
  | .collectiveRound _ => true
  | .matrixUnit _ => true
  | .powerOn _ _ => true
  | .powerStep _ _ => true
  | .droopAlarm _ => true
  | .droopAlarmClear _ => true
  | .slowHoldExpire _ => true
  | .pwrDroopWrite _ => true
  | .linkStateChange _ _ _ _ _ _ => true
  | .peerFlitReceive _ _ => true
  | .peerLinkRetrain _ => true
  | .bar2Read _ _ => true
  | .bar2Write _ _ => true
  | .registerWrite _ _ => true
  | .pageRequestForward _ => true
  | .pgAnswer _ => true
  | .pgStaleClear => true
  | .xlatInv _ => true
  | .xlatInvComplete => true
  | .ctxCreate _ => true
  | .ctxDbg _ _ => true
  | .ctxDestroy _ => true
  | .ctxKill _ => true
  | .ctxResume _ => true
  | .ctxPreempt _ => true
  | .ctxUnpreempt _ => true
  | .schedulerDrain _ => true
  | .drainComplete _ => true
  | .ckptStart => true
  | .ckptRestore => true
  | .ckptDone => true
  | .dieOffline _ => true
  | .offlineDone => true
  | .dieLoss _ => true
  | .correctedError _ _ _ _ => true
  | .harvestRetire _ _ _ => true
  | .vaultImport _ => true
  | .securityAlarm _ => true
  | .secStatusWrite _ => true
  | .secFreeze => true
  | .freezeLine => true
  | .monClear _ _ => true
  | .mintStatClear => true
  | .mintTrigger _ _ _ => true
  | .mintBuildDone _ _ _ _ => true
  | .eventTask _ => true
  | .traceOverflowRecord _ _ => true
  | .roundClose _ => true
  | .coinWaitResume _ => true
  | .blockSuspend _ => true
  | .rewardApply _ => true
  | .orphanExpire _ _ _ _ => true
  | .episodeTimeout _ _ _ => true
  | .discountEpisode _ => true
  | .episodeRelease _ _ => true
  | .escPost _ _ => true
  | .gload _ => true
  | .gtrigWrite _ => true
  | .graphStatClear => true
  | .graphRunStart _ => true
  | .graphNodeStart _ _ => true
  | .graphRunComplete _ => true
  | .firingDispatch _ _ _ _ => true
  | .governorMove _ _ => true
  | .sgRebind _ => true
  | .sgRebindApply _ _ => true
  | .registerResultWritten _ => true
  | .contextCreationEnd => true
  | .graphLoadEnd => true
  | .importEnd => true
  | .alarmSourceEnd _ => true
  | .imageLoad _ _ _ _ => true

end Sys2Proof
end

