-- ==== Sys2Proof/Decode.lean ====
section
/-!
DEFINITION. The decoder and the encoder (R90, R91, R98-R110). A word is a natural number below 2^32, a parcel one below 2^16;
`fld w hi lo` is the field w[hi:lo]. The decoder is total: what is not an instruction is `none`, which is cause 0x01 (R110).
The encoder after it is written from the same tables of the spec.
-/
namespace Sys2Proof

/-- The field [hi:lo] of a word, both ends inclusive (R2). -/
def fld (w hi lo : Nat) : Nat := w / 2 ^ lo % 2 ^ (hi - lo + 1)
/-- One bit of a word as a truth value. -/
def bit (w i : Nat) : Bool := w / 2 ^ i % 2 == 1
/-- Sign extension of an n-bit field (R105). -/
def sext (n v : Nat) : Int := if v < 2 ^ (n - 1) then (v : Int) else (v : Int) - 2 ^ n
/-- The n-bit field of a signed immediate. -/
def unsext (n : Nat) (i : Int) : Nat := (i % (2 ^ n : Int)).toNat

/-- The code of Md. -/
def Md.code : Md → Nat
  | .rne => 0
  | .rz => 1
  | .ru => 2
  | .rd => 3
  | .sr => 4
  | .dyn => 5
/-- The Md of a code, `none` where the code is reserved. -/
def Md.ofCode : Nat → Option Md
  | 0 => some .rne
  | 1 => some .rz
  | 2 => some .ru
  | 3 => some .rd
  | 4 => some .sr
  | 5 => some .dyn
  | _ => none

/-- The code of Cc. -/
def Cc.code : Cc → Nat
  | .eq => 0
  | .ne => 1
  | .lt => 2
  | .ge => 3
  | .le => 4
  | .gt => 5
  | .ltu => 6
  | .geu => 7
  | .leu => 8
  | .gtu => 9
/-- The Cc of a code, `none` where the code is reserved. -/
def Cc.ofCode : Nat → Option Cc
  | 0 => some .eq
  | 1 => some .ne
  | 2 => some .lt
  | 3 => some .ge
  | 4 => some .le
  | 5 => some .gt
  | 6 => some .ltu
  | 7 => some .geu
  | 8 => some .leu
  | 9 => some .gtu
  | _ => none

/-- The code of Fcc. -/
def Fcc.code : Fcc → Nat
  | .eq => 0
  | .ne => 1
  | .lt => 2
  | .ge => 3
  | .le => 4
  | .gt => 5
  | .uo => 6
  | .ord => 7
/-- The Fcc of a code, `none` where the code is reserved. -/
def Fcc.ofCode : Nat → Option Fcc
  | 0 => some .eq
  | 1 => some .ne
  | 2 => some .lt
  | 3 => some .ge
  | 4 => some .le
  | 5 => some .gt
  | 6 => some .uo
  | 7 => some .ord
  | _ => none

/-- The code of Pty. -/
def Pty.code : Pty → Nat
  | .f16x2 => 0
  | .bf16x2 => 1
/-- The Pty of a code, `none` where the code is reserved. -/
def Pty.ofCode : Nat → Option Pty
  | 0 => some .f16x2
  | 1 => some .bf16x2
  | _ => none

/-- The code of LdSize. -/
def LdSize.code : LdSize → Nat
  | .b => 0
  | .h => 1
  | .w => 2
  | .d => 3
  | .sb => 4
  | .sh => 5
/-- The LdSize of a code, `none` where the code is reserved. -/
def LdSize.ofCode : Nat → Option LdSize
  | 0 => some .b
  | 1 => some .h
  | 2 => some .w
  | 3 => some .d
  | 4 => some .sb
  | 5 => some .sh
  | _ => none

/-- The code of Size4. -/
def Size4.code : Size4 → Nat
  | .b => 0
  | .h => 1
  | .w => 2
  | .d => 3
/-- The Size4 of a code, `none` where the code is reserved. -/
def Size4.ofCode : Nat → Option Size4
  | 0 => some .b
  | 1 => some .h
  | 2 => some .w
  | 3 => some .d
  | _ => none

/-- The code of Aop. -/
def Aop.code : Aop → Nat
  | .add => 0
  | .min => 1
  | .max => 2
  | .minu => 3
  | .maxu => 4
  | .and => 5
  | .or => 6
  | .xor => 7
  | .swp => 8
  | .cas => 9
  | .fadd => 10
/-- The Aop of a code, `none` where the code is reserved. -/
def Aop.ofCode : Nat → Option Aop
  | 0 => some .add
  | 1 => some .min
  | 2 => some .max
  | 3 => some .minu
  | 4 => some .maxu
  | 5 => some .and
  | 6 => some .or
  | 7 => some .xor
  | 8 => some .swp
  | 9 => some .cas
  | 10 => some .fadd
  | _ => none

/-- The code of RedFn. -/
def RedFn.code : RedFn → Nat
  | .add => 0
  | .min => 1
  | .max => 2
  | .minu => 3
  | .fadd => 4
  | .fmin => 5
  | .fmax => 6
  | .maxu => 7
  | .and => 8
  | .or => 9
  | .xor => 10
/-- The RedFn of a code, `none` where the code is reserved. -/
def RedFn.ofCode : Nat → Option RedFn
  | 0 => some .add
  | 1 => some .min
  | 2 => some .max
  | 3 => some .minu
  | 4 => some .fadd
  | 5 => some .fmin
  | 6 => some .fmax
  | 7 => some .maxu
  | 8 => some .and
  | 9 => some .or
  | 10 => some .xor
  | _ => none

/-- The code of CvtKind. -/
def CvtKind.code : CvtKind → Nat
  | .f32Int => 0
  | .f32Uint => 1
  | .intF32 => 2
  | .uintF32 => 3
  | .f16F32 => 4
  | .f32F16 => 5
  | .bf16F32 => 6
  | .f32Bf16 => 7
  | .e4m3F32 => 8
  | .f32E4m3 => 9
  | .e5m2F32 => 10
  | .f32E5m2 => 11
  | .ts8F32 => 12
  | .f32Ts8 => 13
  | .int8F32 => 14
  | .uint8F32 => 15
/-- The CvtKind of a code, `none` where the code is reserved. -/
def CvtKind.ofCode : Nat → Option CvtKind
  | 0 => some .f32Int
  | 1 => some .f32Uint
  | 2 => some .intF32
  | 3 => some .uintF32
  | 4 => some .f16F32
  | 5 => some .f32F16
  | 6 => some .bf16F32
  | 7 => some .f32Bf16
  | 8 => some .e4m3F32
  | 9 => some .f32E4m3
  | 10 => some .e5m2F32
  | 11 => some .f32E5m2
  | 12 => some .ts8F32
  | 13 => some .f32Ts8
  | 14 => some .int8F32
  | 15 => some .uint8F32
  | _ => none

/-- The code of ScvtKind. -/
def ScvtKind.code : ScvtKind → Nat
  | .f32Int => 0
  | .f32Uint => 1
  | .intF32 => 2
  | .uintF32 => 3
/-- The ScvtKind of a code, `none` where the code is reserved. -/
def ScvtKind.ofCode : Nat → Option ScvtKind
  | 0 => some .f32Int
  | 1 => some .f32Uint
  | 2 => some .intF32
  | 3 => some .uintF32
  | _ => none

/-- The code of Scope. -/
def Scope.code : Scope → Nat
  | .blk => 0
  | .clu => 1
  | .dev => 2
  | .sys => 3
/-- The Scope of a code, `none` where the code is reserved. -/
def Scope.ofCode : Nat → Option Scope
  | 0 => some .blk
  | 1 => some .clu
  | 2 => some .dev
  | 3 => some .sys
  | _ => none

/-- The code of ColOp. -/
def ColOp.code : ColOp → Nat
  | .sum => 0
  | .min => 1
  | .max => 2
/-- The ColOp of a code, `none` where the code is reserved. -/
def ColOp.ofCode : Nat → Option ColOp
  | 0 => some .sum
  | 1 => some .min
  | 2 => some .max
  | _ => none

/-- The R66 code of a narrow format. -/
def QFmt.code : QFmt → Nat
  | .e4m3 => 3 | .e5m2 => 4 | .int8 => 5 | .uint8 => 6 | .int4 => 7 | .ts8 => 8
/-- The narrow format of an R66 code. -/
def QFmt.ofCode : Nat → Option QFmt
  | 3 => some .e4m3 | 4 => some .e5m2 | 5 => some .int8 | 6 => some .uint8 | 7 => some .int4 | 8 => some .ts8
  | _ => none
/-- The condition of a 5-bit code; codes 26 to 31 are reserved (R107). -/
def Cond.ofCode (c : Nat) : Option Cond :=
  match c with
  | 0 => some .al | 1 => some .eq | 2 => some .ne | 3 => some .lt | 4 => some .ge | 5 => some .le | 6 => some .gt
  | 7 => some .ltu | 8 => some .geu | 9 => some .leu | 10 => some .gtu | 11 => some .uo
  | _ => if c < 19 then some (.kz (c - 11)) else if c < 26 then some (.ka (c - 18)) else none
/-- A result that needs must-be-zero fields to be zero (R105, R110). -/
def zeroed (z : Nat) (i : Option Instr) : Option Instr := if z = 0 then i else none

/-- The lane opcode map (R108). -/
def decodeLane (w : Nat) (sm : Bool) : Option Instr :=
  match fld w 29 24 with
  | 0 => some (.vadd sm (fld w 23 17) (fld w 16 10) (fld w 9 3) (fld w 2 0))
  | 1 => some (.vsub sm (fld w 23 17) (fld w 16 10) (fld w 9 3) (fld w 2 0))
  | 2 => some (.vmul sm (fld w 23 17) (fld w 16 10) (fld w 9 3) (fld w 2 0))
  | 3 => some (.vmulh sm (fld w 23 17) (fld w 16 10) (fld w 9 3) (fld w 2 0))
  | 4 => some (.vmulhu sm (fld w 23 17) (fld w 16 10) (fld w 9 3) (fld w 2 0))
  | 5 => some (.vmad sm (fld w 23 17) (fld w 16 10) (fld w 9 3) (fld w 2 0))
  | 6 => some (.vmin sm (fld w 23 17) (fld w 16 10) (fld w 9 3) (fld w 2 0))
  | 7 => some (.vminu sm (fld w 23 17) (fld w 16 10) (fld w 9 3) (fld w 2 0))
  | 8 => some (.vmax sm (fld w 23 17) (fld w 16 10) (fld w 9 3) (fld w 2 0))
  | 9 => some (.vmaxu sm (fld w 23 17) (fld w 16 10) (fld w 9 3) (fld w 2 0))
  | 10 => some (.vand sm (fld w 23 17) (fld w 16 10) (fld w 9 3) (fld w 2 0))
  | 11 => some (.vor sm (fld w 23 17) (fld w 16 10) (fld w 9 3) (fld w 2 0))
  | 12 => some (.vxor sm (fld w 23 17) (fld w 16 10) (fld w 9 3) (fld w 2 0))
  | 13 => some (.vshl sm (fld w 23 17) (fld w 16 10) (fld w 9 3) (fld w 2 0))
  | 14 => some (.vshr sm (fld w 23 17) (fld w 16 10) (fld w 9 3) (fld w 2 0))
  | 15 => some (.vsra sm (fld w 23 17) (fld w 16 10) (fld w 9 3) (fld w 2 0))
  | 16 => some (.vaddi sm (fld w 23 17) (fld w 16 10) (sext 10 (fld w 9 0)))
  | 17 => some (.vandi sm (fld w 23 17) (fld w 16 10) (fld w 9 0))
  | 18 => some (.vori sm (fld w 23 17) (fld w 16 10) (fld w 9 0))
  | 19 => some (.vxori sm (fld w 23 17) (fld w 16 10) (fld w 9 0))
  | 20 => zeroed (fld w 9 5) (some (.vshli sm (fld w 23 17) (fld w 16 10) (fld w 4 0)))
  | 21 => zeroed (fld w 9 5) (some (.vshri sm (fld w 23 17) (fld w 16 10) (fld w 4 0)))
  | 22 => zeroed (fld w 9 5) (some (.vsrai sm (fld w 23 17) (fld w 16 10) (fld w 4 0)))
  | 23 => some (.vmovi sm (fld w 23 17) (sext 17 (fld w 16 0)))
  | 24 => some (.vlui sm (fld w 23 17) (fld w 16 0))
  | 25 => some (.vbfx sm (fld w 23 17) (fld w 16 10) (fld w 9 3) (fld w 2 0))
  | 26 => some (.vbfi sm (fld w 23 17) (fld w 16 10) (fld w 9 3) (fld w 2 0))
  | 27 => some (.vsel sm (fld w 23 17) (fld w 16 10) (fld w 9 3) (fld w 2 0))
  | 28 =>
    match fld w 9 6 with
    | 0 => zeroed (fld w 5 3) (some (.vmov sm (fld w 23 17) (fld w 16 10) (fld w 2 0)))
    | 1 => zeroed (fld w 5 3) (some (.vneg sm (fld w 23 17) (fld w 16 10) (fld w 2 0)))
    | 2 => zeroed (fld w 5 3) (some (.vabs sm (fld w 23 17) (fld w 16 10) (fld w 2 0)))
    | 3 => zeroed (fld w 5 3) (some (.vnot sm (fld w 23 17) (fld w 16 10) (fld w 2 0)))
    | 4 => zeroed (fld w 5 3) (some (.vpopc sm (fld w 23 17) (fld w 16 10) (fld w 2 0)))
    | 5 => zeroed (fld w 5 3) (some (.vclz sm (fld w 23 17) (fld w 16 10) (fld w 2 0)))
    | 6 => zeroed (fld w 5 3) (some (.vbrev sm (fld w 23 17) (fld w 16 10) (fld w 2 0)))
    | 7 => zeroed (fld w 5 3 + fld w 16 10) (some (.vlid sm (fld w 23 17) (fld w 2 0)))
    | _ => none
  | 29 => (Cc.ofCode (fld w 6 3)).bind fun cc => some (.vcmp sm cc (fld w 23 21) (fld w 20 14) (fld w 13 7) (fld w 2 0))
  | 30 => (Fcc.ofCode (fld w 6 3)).bind fun cc => some (.vfcmp sm cc (fld w 23 21) (fld w 20 14) (fld w 13 7) (fld w 2 0))
  | 32 => some (.vfadd sm (fld w 23 17) (fld w 16 10) (fld w 9 3) (fld w 2 0))
  | 33 => some (.vfsub sm (fld w 23 17) (fld w 16 10) (fld w 9 3) (fld w 2 0))
  | 34 => some (.vfmul sm (fld w 23 17) (fld w 16 10) (fld w 9 3) (fld w 2 0))
  | 35 => some (.vfma sm (fld w 23 17) (fld w 16 10) (fld w 9 3) (fld w 2 0))
  | 36 => some (.vfms sm (fld w 23 17) (fld w 16 10) (fld w 9 3) (fld w 2 0))
  | 37 => some (.vfmin sm (fld w 23 17) (fld w 16 10) (fld w 9 3) (fld w 2 0))
  | 38 => some (.vfmax sm (fld w 23 17) (fld w 16 10) (fld w 9 3) (fld w 2 0))
  | 39 =>
    match fld w 9 6 with
    | 0 => zeroed (fld w 5 3) (some (.vfabs sm (fld w 23 17) (fld w 16 10) (fld w 2 0)))
    | 1 => zeroed (fld w 5 3) (some (.vfneg sm (fld w 23 17) (fld w 16 10) (fld w 2 0)))
    | 2 => (Md.ofCode (fld w 5 3)).bind fun md => some (.vfrnd sm md (fld w 23 17) (fld w 16 10) (fld w 2 0))
    | 3 => zeroed (fld w 5 3) (some (.vfclass sm (fld w 23 17) (fld w 16 10) (fld w 2 0)))
    | _ => none
  | 40 =>
    match fld w 9 6 with
    | 0 => (Md.ofCode (fld w 5 3)).bind fun md => some (.vrcp sm md (fld w 23 17) (fld w 16 10) (fld w 2 0))
    | 1 => zeroed (fld w 5 3) (some (.vrsq sm (fld w 23 17) (fld w 16 10) (fld w 2 0)))
    | 2 => (Md.ofCode (fld w 5 3)).bind fun md => some (.vsqrt sm md (fld w 23 17) (fld w 16 10) (fld w 2 0))
    | 3 => zeroed (fld w 5 3) (some (.vexp2 sm (fld w 23 17) (fld w 16 10) (fld w 2 0)))
    | 4 => zeroed (fld w 5 3) (some (.vlog2 sm (fld w 23 17) (fld w 16 10) (fld w 2 0)))
    | 5 => zeroed (fld w 5 3) (some (.vsin sm (fld w 23 17) (fld w 16 10) (fld w 2 0)))
    | 6 => zeroed (fld w 5 3) (some (.vcos sm (fld w 23 17) (fld w 16 10) (fld w 2 0)))
    | 7 => zeroed (fld w 5 3) (some (.vtanh sm (fld w 23 17) (fld w 16 10) (fld w 2 0)))
    | _ => none
  | 41 => (Pty.ofCode (fld w 2 0)).bind fun ty => some (.vpadd sm ty (fld w 23 17) (fld w 16 10) (fld w 9 3))
  | 42 => (Pty.ofCode (fld w 2 0)).bind fun ty => some (.vpmul sm ty (fld w 23 17) (fld w 16 10) (fld w 9 3))
  | 43 => (Pty.ofCode (fld w 2 0)).bind fun ty => some (.vpfma sm ty (fld w 23 17) (fld w 16 10) (fld w 9 3))
  | 44 => (CvtKind.ofCode (fld w 9 6)).bind fun kind => (Md.ofCode (fld w 5 3)).bind fun md => some (.vcvt sm kind md (fld w 23 17) (fld w 16 10) (fld w 2 0))
  | 45 => (QFmt.ofCode (fld w 6 3)).bind fun fmt => some (.vquant sm fmt (fld w 23 17) (fld w 16 10) (fld w 9 7) (fld w 2 0))
  | 46 => some (.vdot4 sm (bit w 2) (bit w 1) (bit w 0) (fld w 23 17) (fld w 16 10) (fld w 9 3))
  | 47 => some (.vdot8 sm (bit w 2) (bit w 1) (bit w 0) (fld w 23 17) (fld w 16 10) (fld w 9 3))
  | 48 => some (.vshfl sm (fld w 23 17) (fld w 16 10) (fld w 9 3) (fld w 2 0))
  | 49 => zeroed (fld w 9 6) (some (.vbcast sm (fld w 23 17) (fld w 16 10) (fld w 5 0)))
  | 50 => zeroed (fld w 9 6) (some (.vrot sm (fld w 23 17) (fld w 16 10) (fld w 5 0)))
  | 51 => (RedFn.ofCode (fld w 9 6)).bind fun fn => (Md.ofCode (fld w 5 3)).bind fun md => some (.vred sm fn md (fld w 23 17) (fld w 16 10) (fld w 2 0))
  | 52 => (RedFn.ofCode (fld w 9 6)).bind fun fn => (Md.ofCode (fld w 5 3)).bind fun md => some (.vscan sm fn md (fld w 23 17) (fld w 16 10) (fld w 2 0))
  | 53 => (LdSize.ofCode (fld w 6 4)).bind fun sz => some (.vld sm sz (bit w 3) (fld w 23 17) (fld w 16 10) (fld w 9 7) (fld w 2 0))
  | 54 => (Size4.ofCode (fld w 6 4)).bind fun sz => some (.vst sm sz (bit w 3) (fld w 23 17) (fld w 16 10) (fld w 9 7) (fld w 2 0))
  | 55 => (Aop.ofCode (fld w 6 3)).bind fun aop => some (.vatom sm aop (fld w 23 17) (fld w 16 10) (fld w 9 7) (fld w 2 0))
  | 56 => (Size4.ofCode (fld w 4 3)).bind fun sz => some (.lld sm sz (fld w 23 17) (fld w 16 10) (fld w 9 5) (fld w 2 0))
  | 57 => (Size4.ofCode (fld w 4 3)).bind fun sz => some (.lst sm sz (fld w 23 17) (fld w 16 10) (fld w 9 5) (fld w 2 0))
  | 58 => zeroed (fld w 9 7) ((Aop.ofCode (fld w 6 3)).bind fun aop => some (.latom sm aop (fld w 23 17) (fld w 16 10) (fld w 2 0)))
  | 59 =>
    match fld w 9 6 with
    | 0 => zeroed (fld w 5 3) (some (.vltag sm (fld w 23 17) (fld w 16 10) (fld w 2 0)))
    | _ => none
  | _ => none

/-- The uniform opcode map (R109). `imm` is the word that follows: the immediate of `smovl` (R91). -/
def decodeUniform (w imm : Nat) (sm : Bool) : Option Instr :=
  match fld w 29 24 with
  | 0 =>
    match fld w 1 0 with
    | 0 => some (.sadd sm (bit w 2) (fld w 23 17) (fld w 16 10) (fld w 9 3))
    | 1 => some (.ssub sm (bit w 2) (fld w 23 17) (fld w 16 10) (fld w 9 3))
    | 2 => some (.smul sm (bit w 2) (fld w 23 17) (fld w 16 10) (fld w 9 3))
    | 3 => some (.smulh sm (bit w 2) (fld w 23 17) (fld w 16 10) (fld w 9 3))
    | _ => none
  | 1 =>
    match fld w 1 0 with
    | 0 => some (.sand sm (bit w 2) (fld w 23 17) (fld w 16 10) (fld w 9 3))
    | 1 => some (.sor sm (bit w 2) (fld w 23 17) (fld w 16 10) (fld w 9 3))
    | 2 => some (.sxor sm (bit w 2) (fld w 23 17) (fld w 16 10) (fld w 9 3))
    | 3 => some (.smulhu sm (bit w 2) (fld w 23 17) (fld w 16 10) (fld w 9 3))
    | _ => none
  | 2 =>
    match fld w 1 0 with
    | 0 => some (.sshl sm (bit w 2) (fld w 23 17) (fld w 16 10) (fld w 9 3))
    | 1 => some (.sshr sm (bit w 2) (fld w 23 17) (fld w 16 10) (fld w 9 3))
    | 2 => some (.ssra sm (bit w 2) (fld w 23 17) (fld w 16 10) (fld w 9 3))
    | 3 => some (.sandn sm (bit w 2) (fld w 23 17) (fld w 16 10) (fld w 9 3))
    | _ => none
  | 3 =>
    match fld w 1 0 with
    | 0 => some (.smin sm (bit w 2) (fld w 23 17) (fld w 16 10) (fld w 9 3))
    | 1 => some (.smax sm (bit w 2) (fld w 23 17) (fld w 16 10) (fld w 9 3))
    | 2 => some (.sminu sm (bit w 2) (fld w 23 17) (fld w 16 10) (fld w 9 3))
    | 3 => some (.smaxu sm (bit w 2) (fld w 23 17) (fld w 16 10) (fld w 9 3))
    | _ => none
  | 4 =>
    match fld w 1 0 with
    | 0 => some (.sdiv sm (bit w 2) (fld w 23 17) (fld w 16 10) (fld w 9 3))
    | 1 => some (.sdivu sm (bit w 2) (fld w 23 17) (fld w 16 10) (fld w 9 3))
    | 2 => some (.srem sm (bit w 2) (fld w 23 17) (fld w 16 10) (fld w 9 3))
    | 3 => some (.sremu sm (bit w 2) (fld w 23 17) (fld w 16 10) (fld w 9 3))
    | _ => none
  | 5 =>
    match fld w 1 0 with
    | 0 => zeroed (fld w 23 17) (some (.scmp sm (bit w 2) (fld w 16 10) (fld w 9 3)))
    | 1 => zeroed (fld w 2 2 + fld w 23 17) (some (.sfcmp sm (fld w 16 10) (fld w 9 3)))
    | 2 => zeroed (fld w 9 3) (some (.spopc sm (bit w 2) (fld w 23 17) (fld w 16 10)))
    | 3 => zeroed (fld w 9 3) (some (.sclz sm (bit w 2) (fld w 23 17) (fld w 16 10)))
    | _ => none
  | 6 =>
    match fld w 1 0 with
    | 0 => zeroed (fld w 2 2) (some (.sfadd sm (fld w 23 17) (fld w 16 10) (fld w 9 3)))
    | 1 => zeroed (fld w 2 2) (some (.sfsub sm (fld w 23 17) (fld w 16 10) (fld w 9 3)))
    | 2 => zeroed (fld w 2 2) (some (.sfmul sm (fld w 23 17) (fld w 16 10) (fld w 9 3)))
    | 3 => zeroed (fld w 2 2) (some (.sfma sm (fld w 23 17) (fld w 16 10) (fld w 9 3)))
    | _ => none
  | 7 => (Cond.ofCode (fld w 2 0)).bind fun cnd => some (.ssel sm cnd (fld w 23 17) (fld w 16 10) (fld w 9 3))
  | 8 => some (.saddi sm (fld w 23 17) (fld w 16 10) (sext 10 (fld w 9 0)))
  | 9 => some (.sandi sm (fld w 23 17) (fld w 16 10) (fld w 9 0))
  | 10 => some (.sori sm (fld w 23 17) (fld w 16 10) (fld w 9 0))
  | 11 => some (.sxori sm (fld w 23 17) (fld w 16 10) (fld w 9 0))
  | 12 => zeroed (fld w 9 7) (some (.sshli sm (bit w 6) (fld w 23 17) (fld w 16 10) (fld w 5 0)))
  | 13 => zeroed (fld w 9 7) (some (.sshri sm (bit w 6) (fld w 23 17) (fld w 16 10) (fld w 5 0)))
  | 14 => zeroed (fld w 9 7) (some (.ssrai sm (bit w 6) (fld w 23 17) (fld w 16 10) (fld w 5 0)))
  | 15 => zeroed (fld w 23 17) (some (.scmpi sm (fld w 16 10) (sext 10 (fld w 9 0))))
  | 16 => some (.smovi sm (fld w 23 17) (sext 17 (fld w 16 0)))
  | 17 => some (.slui sm (fld w 23 17) (fld w 16 0))
  | 18 => zeroed (fld w 9 2) ((ScvtKind.ofCode (fld w 1 0)).bind fun kind => some (.scvt sm kind (fld w 23 17) (fld w 16 10)))
  | 19 =>
    match fld w 1 0 with
    | 0 => zeroed (fld w 2 2) (some (.sget sm (fld w 23 17) (fld w 16 10) (fld w 9 3)))
    | 1 => zeroed (fld w 2 2) (some (.sset sm (fld w 23 17) (fld w 16 10) (fld w 9 3)))
    | _ => none
  | 20 => (Cond.ofCode (fld w 23 19)).bind fun cnd => some (.br sm cnd (sext 19 (fld w 18 0)))
  | 21 => (Cond.ofCode (fld w 23 19)).bind fun cnd => some (.call sm cnd (sext 19 (fld w 18 0)))
  | 22 =>
    match fld w 1 0 with
    | 0 => zeroed (fld w 9 2 + fld w 23 17) (some (.jmpr sm (fld w 16 10)))
    | 1 => zeroed (fld w 23 2) (some (.ret sm))
    | 2 => zeroed (fld w 9 2 + fld w 23 17) (some (.callr sm (fld w 16 10)))
    | _ => none
  | 23 => some (.dif sm (fld w 23 21) (sext 21 (fld w 20 0)))
  | 24 => zeroed (fld w 23 21) (some (.delse sm (sext 21 (fld w 20 0))))
  | 25 => zeroed (fld w 23 0) (some (.dend sm))
  | 26 => some (.dloop sm (fld w 23 21) (sext 21 (fld w 20 0)))
  | 27 => some (.dbrk sm (fld w 23 21) (sext 21 (fld w 20 0)))
  | 28 =>
    match fld w 3 0 with
    | 0 => zeroed (fld w 14 4) (some (.kand sm (fld w 23 21) (fld w 20 18) (fld w 17 15)))
    | 1 => zeroed (fld w 14 4) (some (.kor sm (fld w 23 21) (fld w 20 18) (fld w 17 15)))
    | 2 => zeroed (fld w 14 4) (some (.kxor sm (fld w 23 21) (fld w 20 18) (fld w 17 15)))
    | 3 => zeroed (fld w 14 4) (some (.kandn sm (fld w 23 21) (fld w 20 18) (fld w 17 15)))
    | 4 => zeroed (fld w 17 4) (some (.knot sm (fld w 23 21) (fld w 20 18)))
    | 5 => zeroed (fld w 17 4) (some (.kmov sm (fld w 23 21) (fld w 20 18)))
    | 6 => zeroed (fld w 7 4 + fld w 17 15 + fld w 23 21) (some (.kpopc sm (fld w 14 8) (fld w 20 18)))
    | 7 => zeroed (fld w 7 4 + fld w 17 15 + fld w 23 21) (some (.kfirst sm (fld w 14 8) (fld w 20 18)))
    | 8 => zeroed (fld w 20 4) (some (.kset sm (fld w 23 21)))
    | 9 => zeroed (fld w 7 4 + fld w 17 15 + fld w 23 21) (some (.kget sm (fld w 14 8) (fld w 20 18)))
    | 10 => zeroed (fld w 7 4 + fld w 20 15) (some (.kfrom sm (fld w 23 21) (fld w 14 8)))
    | _ => none
  | 29 => (Size4.ofCode (fld w 9 8)).bind fun sz => some (.sld sm sz (fld w 23 17) (fld w 16 10) (sext 8 (fld w 7 0)))
  | 30 => (Size4.ofCode (fld w 9 8)).bind fun sz => some (.sst sm sz (fld w 23 17) (fld w 16 10) (sext 8 (fld w 7 0)))
  | 31 =>
    match fld w 1 0 with
    | 0 => some (.satomAdd sm (bit w 2) (fld w 23 17) (fld w 16 10) (fld w 9 3))
    | 1 => some (.satomMin sm (bit w 2) (fld w 23 17) (fld w 16 10) (fld w 9 3))
    | 2 => some (.satomMax sm (bit w 2) (fld w 23 17) (fld w 16 10) (fld w 9 3))
    | 3 => some (.satomSwp sm (bit w 2) (fld w 23 17) (fld w 16 10) (fld w 9 3))
    | _ => none
  | 32 =>
    match fld w 1 0 with
    | 0 => some (.satomAnd sm (bit w 2) (fld w 23 17) (fld w 16 10) (fld w 9 3))
    | 1 => some (.satomOr sm (bit w 2) (fld w 23 17) (fld w 16 10) (fld w 9 3))
    | 2 => some (.satomXor sm (bit w 2) (fld w 23 17) (fld w 16 10) (fld w 9 3))
    | 3 => some (.satomCas sm (bit w 2) (fld w 23 17) (fld w 16 10) (fld w 9 3))
    | _ => none
  | 33 => zeroed (fld w 23 4) (some (.bar sm (fld w 3 0)))
  | 34 => zeroed (fld w 23 12) (some (.barph sm (fld w 3 0) (fld w 11 4)))
  | 35 =>
    match fld w 1 0 with
    | 0 => zeroed (fld w 2 2 + fld w 23 17) (some (.bwinit sm (fld w 16 10) (fld w 9 3)))
    | 1 => zeroed (fld w 9 2) (some (.barv sm (fld w 23 17) (fld w 16 10)))
    | 2 => zeroed (fld w 2 2 + fld w 23 17) (some (.bwt sm (fld w 16 10) (fld w 9 3)))
    | _ => none
  | 36 => zeroed (fld w 23 16) (some (.wait sm (fld w 3 0) (fld w 15 4)))
  | 37 =>
    match fld w 1 0 with
    | 0 => zeroed (fld w 9 2 + fld w 23 17) (some (.wtok sm (fld w 16 10)))
    | 1 => zeroed (fld w 2 2) (some (.wadr sm (fld w 23 17) (fld w 16 10) (fld w 9 3)))
    | 2 => zeroed (fld w 2 2) (some (.wake sm (fld w 23 17) (fld w 16 10) (fld w 9 3)))
    | _ => none
  | 38 =>
    match fld w 1 0 with
    | 0 => zeroed (fld w 23 4) ((Scope.ofCode (fld w 3 2)).bind fun sc => some (.fenceAcq sm sc))
    | 1 => zeroed (fld w 23 4) ((Scope.ofCode (fld w 3 2)).bind fun sc => some (.fenceRel sm sc))
    | 2 => zeroed (fld w 23 4) ((Scope.ofCode (fld w 3 2)).bind fun sc => some (.fenceAr sm sc))
    | 3 => zeroed (fld w 23 4) ((Scope.ofCode (fld w 3 2)).bind fun sc => some (.fenceSc sm sc))
    | _ => none
  | 39 => zeroed (fld w 7 6 + fld w 15 14 + fld w 23 18) ((Scope.ofCode (fld w 17 16)).bind fun sc => some (.pfence sm sc (fld w 5 0) (fld w 13 8)))
  | 40 =>
    match fld w 1 0 with
    | 0 => zeroed (fld w 9 2 + fld w 23 17) (some (.acq sm (fld w 16 10)))
    | 1 => zeroed (fld w 9 2 + fld w 23 17) (some (.rel sm (fld w 16 10)))
    | 2 => zeroed (fld w 2 2) (some (.bind sm (fld w 23 17) (fld w 16 10) (fld w 9 3)))
    | 3 => zeroed (fld w 2 2) (some (.unbind sm (fld w 23 17) (fld w 16 10) (fld w 9 3)))
    | _ => none
  | 41 => zeroed (fld w 23 0) (some (.ifence sm))
  | 42 =>
    match fld w 9 6 with
    | 0 => zeroed (fld w 5 1) (some (.cpy sm (bit w 0) (fld w 23 17) (fld w 16 10)))
    | 1 => zeroed (fld w 5 1) (some (.cpy2d sm (bit w 0) (fld w 23 17) (fld w 16 10)))
    | 2 => zeroed (fld w 5 2) (some (.gath sm (bit w 1) (bit w 0) (fld w 23 17) (fld w 16 10)))
    | 3 => zeroed (fld w 5 2) (some (.scat sm (bit w 1) (bit w 0) (fld w 23 17) (fld w 16 10)))
    | 4 => zeroed (fld w 5 1) (some (.cpyl sm (bit w 0) (fld w 23 17) (fld w 16 10)))
    | 5 => zeroed (fld w 5 1) (some (.fill sm (bit w 0) (fld w 23 17) (fld w 16 10)))
    | _ => none
  | 43 =>
    match fld w 9 6 with
    | 0 => zeroed (fld w 5 4) ((ColOp.ofCode (fld w 2 1)).bind fun op => some (.allred sm (bit w 3) op (bit w 0) (fld w 23 17) (fld w 16 10)))
    | 1 => zeroed (fld w 5 1) (some (.allgath sm (bit w 0) (fld w 23 17) (fld w 16 10)))
    | 2 => zeroed (fld w 5 4) ((ColOp.ofCode (fld w 2 1)).bind fun op => some (.redscat sm (bit w 3) op (bit w 0) (fld w 23 17) (fld w 16 10)))
    | 3 => zeroed (fld w 5 1) (some (.bcast sm (bit w 0) (fld w 23 17) (fld w 16 10)))
    | _ => none
  | 44 =>
    match fld w 9 6 with
    | 0 => zeroed (fld w 5 0) (some (.mxres sm (fld w 23 17) (fld w 16 10)))
    | 1 => zeroed (fld w 5 0) (some (.mxrel sm (fld w 23 17) (fld w 16 10)))
    | 2 => zeroed (fld w 5 0) (some (.mxld sm (fld w 23 17) (fld w 16 10)))
    | 3 => zeroed (fld w 5 0) (some (.mxmm sm (fld w 23 17) (fld w 16 10)))
    | 4 => zeroed (fld w 5 0) (some (.mxmmg sm (fld w 23 17) (fld w 16 10)))
    | _ => none
  | 45 =>
    match fld w 9 6 with
    | 0 => zeroed (fld w 5 1) (some (.launch sm (bit w 0) (fld w 23 17) (fld w 16 10)))
    | 1 => zeroed (fld w 5 0) (some (.gtrig sm (fld w 23 17) (fld w 16 10)))
    | 2 => zeroed (fld w 5 0 + fld w 16 10) (some (.fdone sm (fld w 23 17)))
    | _ => none
  | 46 =>
    match fld w 23 0 with
    | 0 => some (.coinw sm)
    | 1 => some (.coinp sm)
    | 2 => some (.rnd sm)
    | _ => none
  | 47 => zeroed (fld w 23 12) (some (.spt sm (fld w 11 0)))
  | 48 =>
    match fld w 1 0 with
    | 0 => zeroed (fld w 9 2) (some (.xfer sm (fld w 23 17) (fld w 16 10)))
    | _ => none
  | 49 =>
    match fld w 9 6 with
    | 0 => zeroed (fld w 5 0) (some (.epopen sm (fld w 23 17) (fld w 16 10)))
    | 1 => zeroed (fld w 5 0) (some (.epstep sm (fld w 23 17) (fld w 16 10)))
    | 2 => zeroed (fld w 5 0) (some (.epclose sm (fld w 23 17) (fld w 16 10)))
    | 3 => zeroed (fld w 5 0) (some (.rwpost sm (fld w 23 17) (fld w 16 10)))
    | 4 => zeroed (fld w 5 0) (some (.lqpop sm (fld w 23 17) (fld w 16 10)))
    | 5 => zeroed (fld w 5 0) (some (.escfg sm (fld w 23 17) (fld w 16 10)))
    | _ => none
  | 50 =>
    match fld w 23 0 with
    | 0 => some (.nop sm)
    | 1 => some (.brk sm)
    | 2 => some (.sret sm)
    | 3 => some (.halt sm)
    | _ => if fld w 23 8 = 1 then some (.trap sm (fld w 7 0)) else none
  | 51 => zeroed (fld w 16 9) (some (.srd sm (fld w 23 17) (fld w 8 0)))
  | 52 => zeroed (fld w 9 9 + fld w 23 17) (some (.swr sm (fld w 16 10) (fld w 8 0)))
  | 53 => some (.topo sm (fld w 23 17) (fld w 16 10) (fld w 9 0))
  | 54 => some (.capq sm (fld w 23 17) (fld w 16 10) (fld w 9 0))
  | 55 =>
    match fld w 1 0 with
    | 0 => zeroed (fld w 9 2) (some (.ltag sm (fld w 23 17) (fld w 16 10)))
    | 1 => zeroed (fld w 2 2) (some (.tagset sm (fld w 23 17) (fld w 16 10) (fld w 9 3)))
    | 2 => zeroed (fld w 2 2) (some (.tagclr sm (fld w 23 17) (fld w 16 10) (fld w 9 3)))
    | _ => none
  | 56 => zeroed (fld w 23 2) (some (.xacq sm (fld w 1 0)))
  | 57 => zeroed (fld w 23 0) (some (.xrel sm))
  | 58 => zeroed (fld w 9 0 + fld w 20 17) (some (.awin sm (fld w 23 21) (fld w 16 10)))
  | 59 =>
    match fld w 1 0 with
    | 0 => zeroed (fld w 2 2 + fld w 23 17) (some (.pref sm (fld w 16 10) (fld w 9 3)))
    | 1 => zeroed (fld w 2 2 + fld w 23 17) (some (.prefT sm (fld w 16 10) (fld w 9 3)))
    | _ => none
  | 63 =>
    match fld w 16 10 with
    | 0 => zeroed (fld w 9 0) (some (.smovl sm (fld w 23 17) imm))
    | _ => none
  | _ => none

/-- The body of a word: P selects the map (R90), and what is not well formed is no instruction (R110). -/
def decodeBody (uniform : Bool) (w imm : Nat) (sm : Bool) : Option Instr :=
  ((if uniform then decodeUniform w imm sm else decodeLane w sm)).bind fun i => if i.wf then some i else none

/-- An N-form word with the word that follows it (R90, R91). -/
def decodeWord (w imm : Nat) : Option Instr := decodeBody (bit w 31) w imm (bit w 30)

/-- A short parcel (R100). -/
def decodeShort (q : Nat) : Option Instr :=
  let a := fld q 9 6
  let b := fld q 5 2
  let c := fld q 1 0
  (match fld q 14 10 with
  | 0 => zeroed (c) (some (.shortVadd a b))
  | 1 => zeroed (c) (some (.shortVsub a b))
  | 2 => zeroed (c) (some (.shortVmul a b))
  | 3 => zeroed (c) (some (.shortVfadd a b))
  | 4 => zeroed (c) (some (.shortVfmul a b))
  | 5 => some (.shortVfma a b c)
  | 6 => zeroed (c) (some (.shortVmov a b))
  | 7 => zeroed (c) (some (.shortVaddi a b))
  | 8 => zeroed (c) (some (.shortVld a b))
  | 9 => zeroed (c) (some (.shortVst a b))
  | 10 => some (.shortLld a b c)
  | 11 => some (.shortLst a b c)
  | 12 => zeroed (c) (some (.shortVand a b))
  | 13 => zeroed (c) (some (.shortVor a b))
  | 14 => some (.shortVshli a b c)
  | 15 => some (.shortVcmp a b c)
  | 16 => zeroed (c) (some (.shortSadd a b))
  | 17 => zeroed (c) (some (.shortSsub a b))
  | 18 => zeroed (c) (some (.shortSaddi a b))
  | 19 => zeroed (c) (some (.shortSmov a b))
  | 20 => zeroed (c) (some (.shortScmp a b))
  | 21 => some (.shortSld a b c)
  | 22 => some (.shortSst a b c)
  | 23 => some (.shortSshli a b c)
  | 24 => some (.shortBr a b c)
  | 25 => zeroed (a + b + c) (some (.shortDend))
  | 26 => zeroed (c) (some (.shortSpt a b))
  | 27 => zeroed (c) (some (.shortWait a b))
  | 28 => zeroed (b + c) (some (.shortBar a))
  | 29 => zeroed (a + b + c) (some (.shortNop))
  | _ => none).bind fun i => if i.wf then some i else none

/-- The instruction that starts at the parcel p0 of a D-form stream, with its length in parcels; p1, p2 and p3 are the
parcels after it (R98, R99). A long instruction and the immediate of `smovl` are stored high parcel first. -/
def decodeParcels (p0 p1 p2 p3 : Nat) : Option (Instr × Nat) :=
  if bit p0 15 then
    let w := p0 % 2 ^ 14 * 2 ^ 16 + p1
    (decodeBody (bit p0 14) w (p2 * 2 ^ 16 + p3) false).map fun i =>
      (i, match i with | .smovl _ _ _ => 4 | _ => 2)
  else (decodeShort p0).map fun i => (i, 1)

/-- The instruction that starts at the word w of an N-form stream, with its length in words; `imm` is the word after it. -/
def decodeNative (w imm : Nat) : Option (Instr × Nat) :=
  (decodeWord w imm).map fun i => (i, match i with | .smovl _ _ _ => 2 | _ => 1)

/-- The instruction of an opcode-table word: bit 0 is the least significant bit of its first word. Rows of at most 16
bits are D-form parcels; the longer ones N-form words, `smovl` with its immediate in bits [63:32]. -/
def decodeTableWord (nbits w : Nat) : Option Instr :=
  if nbits ≤ 16 then (decodeParcels (w % 2 ^ 16) 0 0 0).map (·.1)
  else decodeWord (w % 2 ^ 32) (w / 2 ^ 32 % 2 ^ 32)

/-! ### The encoder -/

/-- A truth value as a bit. -/
def b2n (b : Bool) : Nat := if b then 1 else 0
/-- A body: each value at its lowest bit. -/
def place : List (Nat × Nat) → Nat
  | [] => 0
  | (v, lo) :: rest => v * 2 ^ lo + place rest
/-- A lane word: P = 0 (R90). -/
def laneWord (sm : Bool) (op : Nat) (body : List (Nat × Nat)) : Nat := b2n sm * 2 ^ 30 + op * 2 ^ 24 + place body
/-- A uniform word: P = 1 (R90). -/
def uniWord (sm : Bool) (op : Nat) (body : List (Nat × Nat)) : Nat :=
  2 ^ 31 + b2n sm * 2 ^ 30 + op * 2 ^ 24 + place body
/-- A short parcel (R100). -/
def parcel (op a b c : Nat) : Nat := op * 2 ^ 10 + a * 2 ^ 6 + b * 2 ^ 2 + c

/-- The bits of an instruction: an N-form word, for `smovl` the first word and its immediate in bits [63:32], for a
short instruction its parcel. An event has no encoding. -/
def encode : Instr → Option Nat
  | .vadd sm xd xa xb kp => some (laneWord sm 0 [(xd, 17), (xa, 10), (xb, 3), (kp, 0)])
  | .vsub sm xd xa xb kp => some (laneWord sm 1 [(xd, 17), (xa, 10), (xb, 3), (kp, 0)])
  | .vmul sm xd xa xb kp => some (laneWord sm 2 [(xd, 17), (xa, 10), (xb, 3), (kp, 0)])
  | .vmulh sm xd xa xb kp => some (laneWord sm 3 [(xd, 17), (xa, 10), (xb, 3), (kp, 0)])
  | .vmulhu sm xd xa xb kp => some (laneWord sm 4 [(xd, 17), (xa, 10), (xb, 3), (kp, 0)])
  | .vmad sm xd xa xb kp => some (laneWord sm 5 [(xd, 17), (xa, 10), (xb, 3), (kp, 0)])
  | .vmin sm xd xa xb kp => some (laneWord sm 6 [(xd, 17), (xa, 10), (xb, 3), (kp, 0)])
  | .vminu sm xd xa xb kp => some (laneWord sm 7 [(xd, 17), (xa, 10), (xb, 3), (kp, 0)])
  | .vmax sm xd xa xb kp => some (laneWord sm 8 [(xd, 17), (xa, 10), (xb, 3), (kp, 0)])
  | .vmaxu sm xd xa xb kp => some (laneWord sm 9 [(xd, 17), (xa, 10), (xb, 3), (kp, 0)])
  | .vand sm xd xa xb kp => some (laneWord sm 10 [(xd, 17), (xa, 10), (xb, 3), (kp, 0)])
  | .vor sm xd xa xb kp => some (laneWord sm 11 [(xd, 17), (xa, 10), (xb, 3), (kp, 0)])
  | .vxor sm xd xa xb kp => some (laneWord sm 12 [(xd, 17), (xa, 10), (xb, 3), (kp, 0)])
  | .vshl sm xd xa xb kp => some (laneWord sm 13 [(xd, 17), (xa, 10), (xb, 3), (kp, 0)])
  | .vshr sm xd xa xb kp => some (laneWord sm 14 [(xd, 17), (xa, 10), (xb, 3), (kp, 0)])
  | .vsra sm xd xa xb kp => some (laneWord sm 15 [(xd, 17), (xa, 10), (xb, 3), (kp, 0)])
  | .vaddi sm xd xa imm => some (laneWord sm 16 [(xd, 17), (xa, 10), (unsext 10 imm, 0)])
  | .vandi sm xd xa imm => some (laneWord sm 17 [(xd, 17), (xa, 10), (imm, 0)])
  | .vori sm xd xa imm => some (laneWord sm 18 [(xd, 17), (xa, 10), (imm, 0)])
  | .vxori sm xd xa imm => some (laneWord sm 19 [(xd, 17), (xa, 10), (imm, 0)])
  | .vshli sm xd xa amt => some (laneWord sm 20 [(xd, 17), (xa, 10), (amt, 0)])
  | .vshri sm xd xa amt => some (laneWord sm 21 [(xd, 17), (xa, 10), (amt, 0)])
  | .vsrai sm xd xa amt => some (laneWord sm 22 [(xd, 17), (xa, 10), (amt, 0)])
  | .vmovi sm xd imm => some (laneWord sm 23 [(xd, 17), (unsext 17 imm, 0)])
  | .vlui sm xd imm => some (laneWord sm 24 [(xd, 17), (imm, 0)])
  | .vbfx sm xd xa xb kp => some (laneWord sm 25 [(xd, 17), (xa, 10), (xb, 3), (kp, 0)])
  | .vbfi sm xd xa xb kp => some (laneWord sm 26 [(xd, 17), (xa, 10), (xb, 3), (kp, 0)])
  | .vsel sm xd xa xb kp => some (laneWord sm 27 [(xd, 17), (xa, 10), (xb, 3), (kp, 0)])
  | .vmov sm xd xa kp => some (laneWord sm 28 [(xd, 17), (xa, 10), (kp, 0)])
  | .vneg sm xd xa kp => some (laneWord sm 28 [(1, 6), (xd, 17), (xa, 10), (kp, 0)])
  | .vabs sm xd xa kp => some (laneWord sm 28 [(2, 6), (xd, 17), (xa, 10), (kp, 0)])
  | .vnot sm xd xa kp => some (laneWord sm 28 [(3, 6), (xd, 17), (xa, 10), (kp, 0)])
  | .vpopc sm xd xa kp => some (laneWord sm 28 [(4, 6), (xd, 17), (xa, 10), (kp, 0)])
  | .vclz sm xd xa kp => some (laneWord sm 28 [(5, 6), (xd, 17), (xa, 10), (kp, 0)])
  | .vbrev sm xd xa kp => some (laneWord sm 28 [(6, 6), (xd, 17), (xa, 10), (kp, 0)])
  | .vlid sm xd kp => some (laneWord sm 28 [(7, 6), (xd, 17), (kp, 0)])
  | .vcmp sm cc kd xa xb kp => some (laneWord sm 29 [(cc.code, 3), (kd, 21), (xa, 14), (xb, 7), (kp, 0)])
  | .vfcmp sm cc kd xa xb kp => some (laneWord sm 30 [(cc.code, 3), (kd, 21), (xa, 14), (xb, 7), (kp, 0)])
  | .vfadd sm xd xa xb kp => some (laneWord sm 32 [(xd, 17), (xa, 10), (xb, 3), (kp, 0)])
  | .vfsub sm xd xa xb kp => some (laneWord sm 33 [(xd, 17), (xa, 10), (xb, 3), (kp, 0)])
  | .vfmul sm xd xa xb kp => some (laneWord sm 34 [(xd, 17), (xa, 10), (xb, 3), (kp, 0)])
  | .vfma sm xd xa xb kp => some (laneWord sm 35 [(xd, 17), (xa, 10), (xb, 3), (kp, 0)])
  | .vfms sm xd xa xb kp => some (laneWord sm 36 [(xd, 17), (xa, 10), (xb, 3), (kp, 0)])
  | .vfmin sm xd xa xb kp => some (laneWord sm 37 [(xd, 17), (xa, 10), (xb, 3), (kp, 0)])
  | .vfmax sm xd xa xb kp => some (laneWord sm 38 [(xd, 17), (xa, 10), (xb, 3), (kp, 0)])
  | .vfabs sm xd xa kp => some (laneWord sm 39 [(xd, 17), (xa, 10), (kp, 0)])
  | .vfneg sm xd xa kp => some (laneWord sm 39 [(1, 6), (xd, 17), (xa, 10), (kp, 0)])
  | .vfrnd sm md xd xa kp => some (laneWord sm 39 [(2, 6), (md.code, 3), (xd, 17), (xa, 10), (kp, 0)])
  | .vfclass sm xd xa kp => some (laneWord sm 39 [(3, 6), (xd, 17), (xa, 10), (kp, 0)])
  | .vrcp sm md xd xa kp => some (laneWord sm 40 [(md.code, 3), (xd, 17), (xa, 10), (kp, 0)])
  | .vrsq sm xd xa kp => some (laneWord sm 40 [(1, 6), (xd, 17), (xa, 10), (kp, 0)])
  | .vsqrt sm md xd xa kp => some (laneWord sm 40 [(2, 6), (md.code, 3), (xd, 17), (xa, 10), (kp, 0)])
  | .vexp2 sm xd xa kp => some (laneWord sm 40 [(3, 6), (xd, 17), (xa, 10), (kp, 0)])
  | .vlog2 sm xd xa kp => some (laneWord sm 40 [(4, 6), (xd, 17), (xa, 10), (kp, 0)])
  | .vsin sm xd xa kp => some (laneWord sm 40 [(5, 6), (xd, 17), (xa, 10), (kp, 0)])
  | .vcos sm xd xa kp => some (laneWord sm 40 [(6, 6), (xd, 17), (xa, 10), (kp, 0)])
  | .vtanh sm xd xa kp => some (laneWord sm 40 [(7, 6), (xd, 17), (xa, 10), (kp, 0)])
  | .vpadd sm ty xd xa xb => some (laneWord sm 41 [(ty.code, 0), (xd, 17), (xa, 10), (xb, 3)])
  | .vpmul sm ty xd xa xb => some (laneWord sm 42 [(ty.code, 0), (xd, 17), (xa, 10), (xb, 3)])
  | .vpfma sm ty xd xa xb => some (laneWord sm 43 [(ty.code, 0), (xd, 17), (xa, 10), (xb, 3)])
  | .vcvt sm kind md xd xa kp => some (laneWord sm 44 [(kind.code, 6), (md.code, 3), (xd, 17), (xa, 10), (kp, 0)])
  | .vquant sm fmt xd xa kd kp => some (laneWord sm 45 [(fmt.code, 3), (xd, 17), (xa, 10), (kd, 7), (kp, 0)])
  | .vdot4 sm sa sb st xd xa xb => some (laneWord sm 46 [(b2n sa, 2), (b2n sb, 1), (b2n st, 0), (xd, 17), (xa, 10), (xb, 3)])
  | .vdot8 sm sa sb st xd xa xb => some (laneWord sm 47 [(b2n sa, 2), (b2n sb, 1), (b2n st, 0), (xd, 17), (xa, 10), (xb, 3)])
  | .vshfl sm xd xa xb kp => some (laneWord sm 48 [(xd, 17), (xa, 10), (xb, 3), (kp, 0)])
  | .vbcast sm xd xa lane => some (laneWord sm 49 [(xd, 17), (xa, 10), (lane, 0)])
  | .vrot sm xd xa rot => some (laneWord sm 50 [(xd, 17), (xa, 10), (rot, 0)])
  | .vred sm fn md xd xa kp => some (laneWord sm 51 [(fn.code, 6), (md.code, 3), (xd, 17), (xa, 10), (kp, 0)])
  | .vscan sm fn md xd xa kp => some (laneWord sm 52 [(fn.code, 6), (md.code, 3), (xd, 17), (xa, 10), (kp, 0)])
  | .vld sm sz strong xt xo aw kp => some (laneWord sm 53 [(sz.code, 4), (b2n strong, 3), (xt, 17), (xo, 10), (aw, 7), (kp, 0)])
  | .vst sm sz strong xt xo aw kp => some (laneWord sm 54 [(sz.code, 4), (b2n strong, 3), (xt, 17), (xo, 10), (aw, 7), (kp, 0)])
  | .vatom sm aop xt xo aw kp => some (laneWord sm 55 [(aop.code, 3), (xt, 17), (xo, 10), (aw, 7), (kp, 0)])
  | .lld sm sz xt xo disp kp => some (laneWord sm 56 [(sz.code, 3), (xt, 17), (xo, 10), (disp, 5), (kp, 0)])
  | .lst sm sz xt xo disp kp => some (laneWord sm 57 [(sz.code, 3), (xt, 17), (xo, 10), (disp, 5), (kp, 0)])
  | .latom sm aop xt xo kp => some (laneWord sm 58 [(aop.code, 3), (xt, 17), (xo, 10), (kp, 0)])
  | .vltag sm xd xa kp => some (laneWord sm 59 [(xd, 17), (xa, 10), (kp, 0)])
  | .sadd sm w xd xa xb => some (uniWord sm 0 [(b2n w, 2), (xd, 17), (xa, 10), (xb, 3)])
  | .ssub sm w xd xa xb => some (uniWord sm 0 [(1, 0), (b2n w, 2), (xd, 17), (xa, 10), (xb, 3)])
  | .smul sm w xd xa xb => some (uniWord sm 0 [(2, 0), (b2n w, 2), (xd, 17), (xa, 10), (xb, 3)])
  | .smulh sm w xd xa xb => some (uniWord sm 0 [(3, 0), (b2n w, 2), (xd, 17), (xa, 10), (xb, 3)])
  | .sand sm w xd xa xb => some (uniWord sm 1 [(b2n w, 2), (xd, 17), (xa, 10), (xb, 3)])
  | .sor sm w xd xa xb => some (uniWord sm 1 [(1, 0), (b2n w, 2), (xd, 17), (xa, 10), (xb, 3)])
  | .sxor sm w xd xa xb => some (uniWord sm 1 [(2, 0), (b2n w, 2), (xd, 17), (xa, 10), (xb, 3)])
  | .smulhu sm w xd xa xb => some (uniWord sm 1 [(3, 0), (b2n w, 2), (xd, 17), (xa, 10), (xb, 3)])
  | .sshl sm w xd xa xb => some (uniWord sm 2 [(b2n w, 2), (xd, 17), (xa, 10), (xb, 3)])
  | .sshr sm w xd xa xb => some (uniWord sm 2 [(1, 0), (b2n w, 2), (xd, 17), (xa, 10), (xb, 3)])
  | .ssra sm w xd xa xb => some (uniWord sm 2 [(2, 0), (b2n w, 2), (xd, 17), (xa, 10), (xb, 3)])
  | .sandn sm w xd xa xb => some (uniWord sm 2 [(3, 0), (b2n w, 2), (xd, 17), (xa, 10), (xb, 3)])
  | .smin sm w xd xa xb => some (uniWord sm 3 [(b2n w, 2), (xd, 17), (xa, 10), (xb, 3)])
  | .smax sm w xd xa xb => some (uniWord sm 3 [(1, 0), (b2n w, 2), (xd, 17), (xa, 10), (xb, 3)])
  | .sminu sm w xd xa xb => some (uniWord sm 3 [(2, 0), (b2n w, 2), (xd, 17), (xa, 10), (xb, 3)])
  | .smaxu sm w xd xa xb => some (uniWord sm 3 [(3, 0), (b2n w, 2), (xd, 17), (xa, 10), (xb, 3)])
  | .sdiv sm w xd xa xb => some (uniWord sm 4 [(b2n w, 2), (xd, 17), (xa, 10), (xb, 3)])
  | .sdivu sm w xd xa xb => some (uniWord sm 4 [(1, 0), (b2n w, 2), (xd, 17), (xa, 10), (xb, 3)])
  | .srem sm w xd xa xb => some (uniWord sm 4 [(2, 0), (b2n w, 2), (xd, 17), (xa, 10), (xb, 3)])
  | .sremu sm w xd xa xb => some (uniWord sm 4 [(3, 0), (b2n w, 2), (xd, 17), (xa, 10), (xb, 3)])
  | .scmp sm w xa xb => some (uniWord sm 5 [(b2n w, 2), (xa, 10), (xb, 3)])
  | .sfcmp sm xa xb => some (uniWord sm 5 [(1, 0), (xa, 10), (xb, 3)])
  | .spopc sm w xd xa => some (uniWord sm 5 [(2, 0), (b2n w, 2), (xd, 17), (xa, 10)])
  | .sclz sm w xd xa => some (uniWord sm 5 [(3, 0), (b2n w, 2), (xd, 17), (xa, 10)])
  | .sfadd sm xd xa xb => some (uniWord sm 6 [(xd, 17), (xa, 10), (xb, 3)])
  | .sfsub sm xd xa xb => some (uniWord sm 6 [(1, 0), (xd, 17), (xa, 10), (xb, 3)])
  | .sfmul sm xd xa xb => some (uniWord sm 6 [(2, 0), (xd, 17), (xa, 10), (xb, 3)])
  | .sfma sm xd xa xb => some (uniWord sm 6 [(3, 0), (xd, 17), (xa, 10), (xb, 3)])
  | .ssel sm cnd xd xa xb => some (uniWord sm 7 [(cnd.code, 0), (xd, 17), (xa, 10), (xb, 3)])
  | .saddi sm xd xa imm => some (uniWord sm 8 [(xd, 17), (xa, 10), (unsext 10 imm, 0)])
  | .sandi sm xd xa imm => some (uniWord sm 9 [(xd, 17), (xa, 10), (imm, 0)])
  | .sori sm xd xa imm => some (uniWord sm 10 [(xd, 17), (xa, 10), (imm, 0)])
  | .sxori sm xd xa imm => some (uniWord sm 11 [(xd, 17), (xa, 10), (imm, 0)])
  | .sshli sm w xd xa amt => some (uniWord sm 12 [(b2n w, 6), (xd, 17), (xa, 10), (amt, 0)])
  | .sshri sm w xd xa amt => some (uniWord sm 13 [(b2n w, 6), (xd, 17), (xa, 10), (amt, 0)])
  | .ssrai sm w xd xa amt => some (uniWord sm 14 [(b2n w, 6), (xd, 17), (xa, 10), (amt, 0)])
  | .scmpi sm xa imm => some (uniWord sm 15 [(xa, 10), (unsext 10 imm, 0)])
  | .smovi sm xd imm => some (uniWord sm 16 [(xd, 17), (unsext 17 imm, 0)])
  | .slui sm xd imm => some (uniWord sm 17 [(xd, 17), (imm, 0)])
  | .smovl sm xd imm => some (uniWord sm 63 [(xd, 17), (imm, 32)])
  | .scvt sm kind xd xa => some (uniWord sm 18 [(kind.code, 0), (xd, 17), (xa, 10)])
  | .sget sm xd xa xb => some (uniWord sm 19 [(xd, 17), (xa, 10), (xb, 3)])
  | .sset sm xd xa xb => some (uniWord sm 19 [(1, 0), (xd, 17), (xa, 10), (xb, 3)])
  | .br sm cnd off => some (uniWord sm 20 [(cnd.code, 19), (unsext 19 off, 0)])
  | .call sm cnd off => some (uniWord sm 21 [(cnd.code, 19), (unsext 19 off, 0)])
  | .jmpr sm xa => some (uniWord sm 22 [(xa, 10)])
  | .ret sm => some (uniWord sm 22 [(1, 0)])
  | .callr sm xa => some (uniWord sm 22 [(2, 0), (xa, 10)])
  | .dif sm kc off => some (uniWord sm 23 [(kc, 21), (unsext 21 off, 0)])
  | .delse sm off => some (uniWord sm 24 [(unsext 21 off, 0)])
  | .dend sm => some (uniWord sm 25 [])
  | .dloop sm kc off => some (uniWord sm 26 [(kc, 21), (unsext 21 off, 0)])
  | .dbrk sm kc off => some (uniWord sm 27 [(kc, 21), (unsext 21 off, 0)])
  | .kand sm kd ka kb => some (uniWord sm 28 [(kd, 21), (ka, 18), (kb, 15)])
  | .kor sm kd ka kb => some (uniWord sm 28 [(1, 0), (kd, 21), (ka, 18), (kb, 15)])
  | .kxor sm kd ka kb => some (uniWord sm 28 [(2, 0), (kd, 21), (ka, 18), (kb, 15)])
  | .kandn sm kd ka kb => some (uniWord sm 28 [(3, 0), (kd, 21), (ka, 18), (kb, 15)])
  | .knot sm kd ka => some (uniWord sm 28 [(4, 0), (kd, 21), (ka, 18)])
  | .kmov sm kd ka => some (uniWord sm 28 [(5, 0), (kd, 21), (ka, 18)])
  | .kpopc sm xa ka => some (uniWord sm 28 [(6, 0), (xa, 8), (ka, 18)])
  | .kfirst sm xa ka => some (uniWord sm 28 [(7, 0), (xa, 8), (ka, 18)])
  | .kset sm kd => some (uniWord sm 28 [(8, 0), (kd, 21)])
  | .kget sm xa ka => some (uniWord sm 28 [(9, 0), (xa, 8), (ka, 18)])
  | .kfrom sm kd xa => some (uniWord sm 28 [(10, 0), (kd, 21), (xa, 8)])
  | .sld sm sz xd xa disp => some (uniWord sm 29 [(sz.code, 8), (xd, 17), (xa, 10), (unsext 8 disp, 0)])
  | .sst sm sz xd xa disp => some (uniWord sm 30 [(sz.code, 8), (xd, 17), (xa, 10), (unsext 8 disp, 0)])
  | .satomAdd sm w xd xa xb => some (uniWord sm 31 [(b2n w, 2), (xd, 17), (xa, 10), (xb, 3)])
  | .satomMin sm w xd xa xb => some (uniWord sm 31 [(1, 0), (b2n w, 2), (xd, 17), (xa, 10), (xb, 3)])
  | .satomMax sm w xd xa xb => some (uniWord sm 31 [(2, 0), (b2n w, 2), (xd, 17), (xa, 10), (xb, 3)])
  | .satomSwp sm w xd xa xb => some (uniWord sm 31 [(3, 0), (b2n w, 2), (xd, 17), (xa, 10), (xb, 3)])
  | .satomAnd sm w xd xa xb => some (uniWord sm 32 [(b2n w, 2), (xd, 17), (xa, 10), (xb, 3)])
  | .satomOr sm w xd xa xb => some (uniWord sm 32 [(1, 0), (b2n w, 2), (xd, 17), (xa, 10), (xb, 3)])
  | .satomXor sm w xd xa xb => some (uniWord sm 32 [(2, 0), (b2n w, 2), (xd, 17), (xa, 10), (xb, 3)])
  | .satomCas sm w xd xa xb => some (uniWord sm 32 [(3, 0), (b2n w, 2), (xd, 17), (xa, 10), (xb, 3)])
  | .bar sm id => some (uniWord sm 33 [(id, 0)])
  | .barph sm id idx => some (uniWord sm 34 [(id, 0), (idx, 4)])
  | .bwinit sm xa xb => some (uniWord sm 35 [(xa, 10), (xb, 3)])
  | .barv sm xd xa => some (uniWord sm 35 [(1, 0), (xd, 17), (xa, 10)])
  | .bwt sm xa xb => some (uniWord sm 35 [(2, 0), (xa, 10), (xb, 3)])
  | .wait sm cls count => some (uniWord sm 36 [(cls, 0), (count, 4)])
  | .wtok sm xa => some (uniWord sm 37 [(xa, 10)])
  | .wadr sm xd xa xb => some (uniWord sm 37 [(1, 0), (xd, 17), (xa, 10), (xb, 3)])
  | .wake sm xd xa xb => some (uniWord sm 37 [(2, 0), (xd, 17), (xa, 10), (xb, 3)])
  | .fenceAcq sm sc => some (uniWord sm 38 [(sc.code, 2)])
  | .fenceRel sm sc => some (uniWord sm 38 [(1, 0), (sc.code, 2)])
  | .fenceAr sm sc => some (uniWord sm 38 [(2, 0), (sc.code, 2)])
  | .fenceSc sm sc => some (uniWord sm 38 [(3, 0), (sc.code, 2)])
  | .pfence sm sc frm dst => some (uniWord sm 39 [(sc.code, 16), (frm, 0), (dst, 8)])
  | .acq sm xa => some (uniWord sm 40 [(xa, 10)])
  | .rel sm xa => some (uniWord sm 40 [(1, 0), (xa, 10)])
  | .bind sm xd xa xb => some (uniWord sm 40 [(2, 0), (xd, 17), (xa, 10), (xb, 3)])
  | .unbind sm xd xa xb => some (uniWord sm 40 [(3, 0), (xd, 17), (xa, 10), (xb, 3)])
  | .ifence sm => some (uniWord sm 41 [])
  | .cpy sm arv xd xa => some (uniWord sm 42 [(b2n arv, 0), (xd, 17), (xa, 10)])
  | .cpy2d sm arv xd xa => some (uniWord sm 42 [(1, 6), (b2n arv, 0), (xd, 17), (xa, 10)])
  | .gath sm scl arv xd xa => some (uniWord sm 42 [(2, 6), (b2n scl, 1), (b2n arv, 0), (xd, 17), (xa, 10)])
  | .scat sm scl arv xd xa => some (uniWord sm 42 [(3, 6), (b2n scl, 1), (b2n arv, 0), (xd, 17), (xa, 10)])
  | .cpyl sm arv xd xa => some (uniWord sm 42 [(4, 6), (b2n arv, 0), (xd, 17), (xa, 10)])
  | .fill sm arv xd xa => some (uniWord sm 42 [(5, 6), (b2n arv, 0), (xd, 17), (xa, 10)])
  | .allred sm bf op arv xd xa => some (uniWord sm 43 [(b2n bf, 3), (op.code, 1), (b2n arv, 0), (xd, 17), (xa, 10)])
  | .allgath sm arv xd xa => some (uniWord sm 43 [(1, 6), (b2n arv, 0), (xd, 17), (xa, 10)])
  | .redscat sm bf op arv xd xa => some (uniWord sm 43 [(2, 6), (b2n bf, 3), (op.code, 1), (b2n arv, 0), (xd, 17), (xa, 10)])
  | .bcast sm arv xd xa => some (uniWord sm 43 [(3, 6), (b2n arv, 0), (xd, 17), (xa, 10)])
  | .mxres sm xd xa => some (uniWord sm 44 [(xd, 17), (xa, 10)])
  | .mxrel sm xd xa => some (uniWord sm 44 [(1, 6), (xd, 17), (xa, 10)])
  | .mxld sm xd xa => some (uniWord sm 44 [(2, 6), (xd, 17), (xa, 10)])
  | .mxmm sm xd xa => some (uniWord sm 44 [(3, 6), (xd, 17), (xa, 10)])
  | .mxmmg sm xd xa => some (uniWord sm 44 [(4, 6), (xd, 17), (xa, 10)])
  | .launch sm arv xd xa => some (uniWord sm 45 [(b2n arv, 0), (xd, 17), (xa, 10)])
  | .gtrig sm xd xa => some (uniWord sm 45 [(1, 6), (xd, 17), (xa, 10)])
  | .fdone sm xd => some (uniWord sm 45 [(2, 6), (xd, 17)])
  | .coinw sm => some (uniWord sm 46 [])
  | .coinp sm => some (uniWord sm 46 [(1, 0)])
  | .rnd sm => some (uniWord sm 46 [(2, 0)])
  | .spt sm n => some (uniWord sm 47 [(n, 0)])
  | .xfer sm xd xa => some (uniWord sm 48 [(xd, 17), (xa, 10)])
  | .epopen sm xd xa => some (uniWord sm 49 [(xd, 17), (xa, 10)])
  | .epstep sm xd xa => some (uniWord sm 49 [(1, 6), (xd, 17), (xa, 10)])
  | .epclose sm xd xa => some (uniWord sm 49 [(2, 6), (xd, 17), (xa, 10)])
  | .rwpost sm xd xa => some (uniWord sm 49 [(3, 6), (xd, 17), (xa, 10)])
  | .lqpop sm xd xa => some (uniWord sm 49 [(4, 6), (xd, 17), (xa, 10)])
  | .escfg sm xd xa => some (uniWord sm 49 [(5, 6), (xd, 17), (xa, 10)])
  | .nop sm => some (uniWord sm 50 [])
  | .brk sm => some (uniWord sm 50 [(1, 0)])
  | .sret sm => some (uniWord sm 50 [(2, 0)])
  | .halt sm => some (uniWord sm 50 [(3, 0)])
  | .trap sm n => some (uniWord sm 50 [(1, 8), (n, 0)])
  | .srd sm xd num => some (uniWord sm 51 [(xd, 17), (num, 0)])
  | .swr sm xa num => some (uniWord sm 52 [(xa, 10), (num, 0)])
  | .topo sm xd xa sel => some (uniWord sm 53 [(xd, 17), (xa, 10), (sel, 0)])
  | .capq sm xd xa sel => some (uniWord sm 54 [(xd, 17), (xa, 10), (sel, 0)])
  | .ltag sm xd xa => some (uniWord sm 55 [(xd, 17), (xa, 10)])
  | .tagset sm xd xa xb => some (uniWord sm 55 [(1, 0), (xd, 17), (xa, 10), (xb, 3)])
  | .tagclr sm xd xa xb => some (uniWord sm 55 [(2, 0), (xd, 17), (xa, 10), (xb, 3)])
  | .xacq sm n => some (uniWord sm 56 [(n, 0)])
  | .xrel sm => some (uniWord sm 57 [])
  | .awin sm aw xa => some (uniWord sm 58 [(aw, 21), (xa, 10)])
  | .pref sm xa xb => some (uniWord sm 59 [(xa, 10), (xb, 3)])
  | .prefT sm xa xb => some (uniWord sm 59 [(1, 0), (xa, 10), (xb, 3)])
  | .shortVadd a b => some (parcel 0 a b 0)
  | .shortVsub a b => some (parcel 1 a b 0)
  | .shortVmul a b => some (parcel 2 a b 0)
  | .shortVfadd a b => some (parcel 3 a b 0)
  | .shortVfmul a b => some (parcel 4 a b 0)
  | .shortVfma a b c => some (parcel 5 a b c)
  | .shortVmov a b => some (parcel 6 a b 0)
  | .shortVaddi a b => some (parcel 7 a b 0)
  | .shortVld a b => some (parcel 8 a b 0)
  | .shortVst a b => some (parcel 9 a b 0)
  | .shortLld a b c => some (parcel 10 a b c)
  | .shortLst a b c => some (parcel 11 a b c)
  | .shortVand a b => some (parcel 12 a b 0)
  | .shortVor a b => some (parcel 13 a b 0)
  | .shortVshli a b c => some (parcel 14 a b c)
  | .shortVcmp a b c => some (parcel 15 a b c)
  | .shortSadd a b => some (parcel 16 a b 0)
  | .shortSsub a b => some (parcel 17 a b 0)
  | .shortSaddi a b => some (parcel 18 a b 0)
  | .shortSmov a b => some (parcel 19 a b 0)
  | .shortScmp a b => some (parcel 20 a b 0)
  | .shortSld a b c => some (parcel 21 a b c)
  | .shortSst a b c => some (parcel 22 a b c)
  | .shortSshli a b c => some (parcel 23 a b c)
  | .shortBr a b c => some (parcel 24 a b c)
  | .shortDend  => some (parcel 25 0 0 0)
  | .shortSpt a b => some (parcel 26 a b 0)
  | .shortWait a b => some (parcel 27 a b 0)
  | .shortBar a => some (parcel 28 a 0 0)
  | .shortNop  => some (parcel 29 0 0 0)
  | .xacqGrant _ => none
  | .bwtWake _ => none
  | .wadrWake _ => none
  | .engineCause _ => none
  | .groupExit _ => none
  | .blockPlace _ _ => none
  | .phaseEnd _ => none
  | .phaseResume _ _ => none
  | .blockRetire _ => none
  | .gridComplete _ => none
  | .copyComplete _ => none
  | .cpylLineLand _ => none
  | .collectiveRound _ => none
  | .matrixUnit _ => none
  | .powerOn _ _ => none
  | .powerStep _ _ => none
  | .droopAlarm _ => none
  | .droopAlarmClear _ => none
  | .slowHoldExpire _ => none
  | .pwrDroopWrite _ => none
  | .linkStateChange _ _ _ _ _ _ => none
  | .peerFlitReceive _ _ => none
  | .peerLinkRetrain _ => none
  | .bar2Read _ _ => none
  | .bar2Write _ _ => none
  | .registerWrite _ _ => none
  | .pageRequestForward _ => none
  | .pgAnswer _ => none
  | .pgStaleClear => none
  | .xlatInv _ => none
  | .xlatInvComplete => none
  | .ctxCreate _ => none
  | .ctxDbg _ _ => none
  | .ctxDestroy _ => none
  | .ctxKill _ => none
  | .ctxResume _ => none
  | .ctxPreempt _ => none
  | .ctxUnpreempt _ => none
  | .schedulerDrain _ => none
  | .drainComplete _ => none
  | .ckptStart => none
  | .ckptRestore => none
  | .ckptDone => none
  | .dieOffline _ => none
  | .offlineDone => none
  | .dieLoss _ => none
  | .correctedError _ _ _ _ => none
  | .harvestRetire _ _ _ => none
  | .vaultImport _ => none
  | .securityAlarm _ => none
  | .secStatusWrite _ => none
  | .secFreeze => none
  | .freezeLine => none
  | .monClear _ _ => none
  | .mintStatClear => none
  | .mintTrigger _ _ _ => none
  | .mintBuildDone _ _ _ _ => none
  | .eventTask _ => none
  | .traceOverflowRecord _ _ => none
  | .roundClose _ => none
  | .coinWaitResume _ => none
  | .blockSuspend _ => none
  | .rewardApply _ => none
  | .orphanExpire _ _ _ _ => none
  | .episodeTimeout _ _ _ => none
  | .discountEpisode _ => none
  | .episodeRelease _ _ => none
  | .escPost _ _ => none
  | .gload _ => none
  | .gtrigWrite _ => none
  | .graphStatClear => none
  | .graphRunStart _ => none
  | .graphNodeStart _ _ => none
  | .graphRunComplete _ => none
  | .firingDispatch _ _ _ _ => none
  | .governorMove _ _ => none
  | .sgRebind _ => none
  | .sgRebindApply _ _ => none
  | .registerResultWritten _ => none
  | .contextCreationEnd => none
  | .graphLoadEnd => none
  | .importEnd => none
  | .alarmSourceEnd _ => none
  | .imageLoad _ _ _ _ => none

/-- Whether an instruction is a short D-form parcel. -/
def Instr.isShort : Instr → Bool
  | .shortVadd _ _ => true
  | .shortVsub _ _ => true
  | .shortVmul _ _ => true
  | .shortVfadd _ _ => true
  | .shortVfmul _ _ => true
  | .shortVfma _ _ _ => true
  | .shortVmov _ _ => true
  | .shortVaddi _ _ => true
  | .shortVld _ _ => true
  | .shortVst _ _ => true
  | .shortLld _ _ _ => true
  | .shortLst _ _ _ => true
  | .shortVand _ _ => true
  | .shortVor _ _ => true
  | .shortVshli _ _ _ => true
  | .shortVcmp _ _ _ => true
  | .shortSadd _ _ => true
  | .shortSsub _ _ => true
  | .shortSaddi _ _ => true
  | .shortSmov _ _ => true
  | .shortScmp _ _ => true
  | .shortSld _ _ _ => true
  | .shortSst _ _ _ => true
  | .shortSshli _ _ _ => true
  | .shortBr _ _ _ => true
  | .shortDend => true
  | .shortSpt _ _ => true
  | .shortWait _ _ => true
  | .shortBar _ => true
  | .shortNop => true
  | _ => false

end Sys2Proof
end

