-- ==== Sys2Proof/Machine/State.lean ====
section
/-!
DEFINITION. The state of the panel: everything the spec gives the machine, as plain data (INVENTORY.md, '## State', names the rule of each piece).
Objects that come and go (contexts, grids, blocks, groups, commands) are kept by a unique number in `AMap`s.
-/
namespace Sys2Proof.Machine

/-- A finite map by number: pairs, at most one for each number. What it does not list has the reader's default. -/
abbrev AMap (α : Type) := List (Nat × α)

/-- A write, or one byte of it, as something that can be seen: the number of its log entry, and the location of the byte (none: all of it). -/
abbrev Vis := Nat × Option Nat

/-- Why a step can stop with a fault. -/
inductive Fault where
  /-- An instruction word executes while no group acts. Raised by every instruction word when `cur` names no group. Safe:
  the hardware has no such moment, and `step` never reaches it. -/
  | noGroup
  deriving DecidableEq, Repr

/-- Why a step has no meaning. -/
inductive Refusal where
  /-- An instruction that has no meaning yet, by its mnemonic. Raised by `exec` alone. Safe. -/
  | notModelled (mnemonic : String)
  /-- The input tape holds an instruction word where only an event can come from outside. Raised by `step`. Safe. -/
  | notAnEvent
  deriving DecidableEq, Repr

/-! ### Groups -/

/-- The flags Z, N, C and V (R130). -/
structure Flags where
  z : Bool
  n : Bool
  c : Bool
  v : Bool
  deriving DecidableEq, Repr

/-- A translated page (R210, R211). -/
structure Page where
  vbase : Nat
  size : Nat
  il : Bool
  ilw : Nat
  frame : Nat
  w : Bool
  x : Bool
  deriving DecidableEq, Repr

/-- An opened address window (R213). -/
structure Window where
  base : Nat
  gen : Nat
  lim : Nat
  page : Option Page
  deriving DecidableEq, Repr

/-- One entry of a group's path table (R50, R138). -/
inductive PathEntry where
  | split (key : Nat) (entered arrived : Mask)
  | loop (key level : Nat) (entered arrived : Mask)
  | pending (mask : Mask) (resume age : Nat)
  deriving DecidableEq, Repr

/-- One write of a register since the group last left a marker park: which lanes it wrote, and the register after it. -/
structure RegWrite where
  mask : Mask
  vals : List Word
  deriving DecidableEq, Repr

/-- Why a group is parked (R48). `woken` of a `wadr` is the number of the write or `wake` that woke it (R154). Two parks are those of the
built-in handler (R219): `install` with a zeroed frame that it has taken for an absent page, the entry to fill and the value it found there, and
`giveBack` with a frame that it returns to the pool. In `result` a word waits to issue for a register result that an escrow word still owes
(R92, R95, R101). -/
inductive Park where
  | marker
  | bar (id len : Nat) (sm : Bool)
  | barph (id idx : Nat) (sm : Bool)
  | cls (c count : Nat)
  | token (tok : Word)
  | presence (lines : List Nat)
  | gridRoom
  | trigRoom (gid : Nat)
  | latchRoom
  | commit
  | bwt (loc phase : Nat) (sm : Bool)
  | wadr (loc xd : Nat) (sm : Bool) (woken : Option Nat)
  | xacq (n : Nat) (sm : Bool)
  | rnd (sm : Bool)
  | coinw
  | coinWait
  | answer (slot : Nat)
  | install (va entry frame absent : Nat)
  | giveBack (frame : Nat)
  | evacuation
  | result
  | brk
  | halted
  deriving DecidableEq, Repr

/-- What a lane did when its access faulted: lane, virtual address, access kind (R218, R304): 0 load, 1 store or atomic, 2 fetch, 3 engine;
4 is added for an engine's write, which R220 tells apart and R304 does not. -/
structure LaneFault where
  lane : Nat
  va : Nat
  kind : Nat
  cause : Nat
  deriving DecidableEq, Repr

/-- An engine cause that has not been taken yet (R250), or with `own` a cause of the group itself: die loss (R320). -/
structure EngineCause where
  cause : Nat
  token : Word
  va : Option Nat
  write : Bool
  cmd : Option Nat
  own : Bool := false
  deriving DecidableEq, Repr

/-- The handler stack of a group: its uniform state at trap entry (R304), the park an engine cause took it from where its
arrival outlives the trap (R124, R250, R314, R343), and the bytes of its trap frame while its block is on no core (R313, R315). -/
structure HandlerStack where
  k : AMap Mask
  active : Mask
  flags : Flags
  level : Nat
  mode : Word
  park : Option Park
  frame : List Byte
  deriving DecidableEq, Repr

/-- The writes that a fence or release of a group published: scope, the instances the publisher lies in, the writes (R224, R230, R238);
`eng` for the arrival of an engine command (R257, R273). -/
structure Published where
  scope : Scope
  blk : Nat
  clu : Nat
  ctx : Nat
  ids : List Vis
  eng : Bool
  deriving DecidableEq, Repr

/-- Moments as log numbers, for what has performed in the reader's block, in its cluster and for everyone (R224, R228). -/
structure Times where
  blk : Nat
  clu : Nat
  dev : Nat
  deriving DecidableEq, Repr

/-- One byte of a round buffer (R336): where, its value, the writer's logical thread index. -/
structure RoundByte where
  loc : Nat
  val : Byte
  writer : Nat
  deriving DecidableEq, Repr

/-- What a trap entry records (R304, R305). `moved`: the page under evacuation that the access met has been moved before the entry (R303). -/
structure TrapInfo where
  cause : Nat
  n : Nat
  engine : Bool
  token : Word
  faults : List LaneFault
  fmask : Mask
  sepc : Nat
  kind : Nat
  cmd : Option Nat
  moved : Bool := false
  deriving DecidableEq, Repr

/-- The escrow words whose result comes from a slice (R349, R350). -/
inductive EscKind where
  | epopen
  | epstep
  | epclose
  | escfg
  | lqpop
  deriving DecidableEq, Repr
/-- An escrow word on its way to its slice (R350): its parameter block, the register that takes its result, and the allocations that its
destination chose at issue (R202). -/
structure EscWord where
  kind : EscKind
  prm : List Word
  xd : Nat
  chosen : AMap Nat
  deriving DecidableEq, Repr

/-- A group: one control thread and its lanes (R42, R46, R159, R305). `seen` holds the writes of engine commands it has seen complete,
`waited` those among them whose token `wait` or `wtok` reached (R240), `compl` those of completed commands it has not seen complete
(R236, R249). `ldTime` are the first moments at which its next strong load may perform (R228);
`trapAt` the code offset at which the group trapped last (R307). `words` are its escrow words that have issued and whose slices have not applied
them yet, by number (R350); `trapping` is a trap whose entry waits for their results (R95). -/
structure Group where
  ctx : Nat
  grid : Nat
  block : Nat
  gidx : Nat
  gwid : Nat
  slot : Nat
  x : AMap (List Word)
  k : AMap Mask
  win : AMap Window
  flags : Flags
  histX : AMap (List RegWrite)
  histK : AMap (List (Mask × Mask))
  histW : AMap (List (Option Window))
  histF : List Flags
  active : Mask
  table : List PathEntry
  level : Nat
  pc : Nat
  agelim : Word
  mode : Word
  qthr : Word
  qscale : Word
  qside : Word
  srx : Word
  gang : DWord
  icnt : DWord
  spn : Word
  ver : Nat
  xstat : Word
  xreq : Option Nat
  sup : Bool
  scause : Word
  sepc : Word
  sfmask : DWord
  stok : Word
  sretc : Word
  faults : List LaneFault
  trapCmd : Option Nat
  trapAt : Nat
  hstack : Option HandlerStack
  uhnd : Word
  inUser : Bool
  ext : Nat
  cnt : AMap Nat
  seen : List Vis
  waited : List Vis
  compl : List (Word × List Vis)
  pfSnap : AMap (List RoundByte)
  park : Option Park
  halted : Bool
  exited : Bool
  causes : List EngineCause
  replay : Option Mask
  pub : List Published
  got : List Published
  ldTime : Times
  parkSeq : Nat
  words : AMap EscWord
  trapping : Option TrapInfo
  deriving DecidableEq, Repr

/-! ### Blocks and grids -/

/-- A reservation record of a matrix engine (R264). Weights are stored element codes by stored K block. -/
structure MxRec where
  block : Nat
  kb : Nat
  next : Nat
  bfmt : Nat
  pcnt : Nat
  pfirst : Nat
  sparse : Nat
  soff : Nat
  closing : Bool
  weights : AMap (List Nat)
  scales : AMap Nat
  deriving DecidableEq, Repr

/-- The barrier state of one id (R314). -/
structure Bar where
  count : Nat
  mask : Nat
  parity : Bool
  deriving DecidableEq, Repr

/-- Where a block is in its life. -/
inductive BlockSt where
  | running | queued | suspended | saved
  deriving DecidableEq, Repr

/-- The phase record of one group (R58). -/
structure PhaseHeader where
  group : Nat
  regs : AMap (List Word)
  k : AMap Mask
  win : AMap Window
  flags : Flags
  agelim : Word
  srx : Word
  icnt : DWord
  ver : Nat
  spn : Word
  xstat : Word
  xreq : Option Nat
  carry : Nat
  pc : Nat
  exited : Bool
  deriving DecidableEq, Repr

/-- A block (R42, R201, R203, R314, R336): `base` is where its allocation starts in the block space of its core; `recs` holds its
reservation records while it is out of its core (R266), `rot` the place in the rotation after its own last turn (R313, R344), `enter` the place at
which it joins the rotation of a core that was running when it came, until the rotation gets there (R344), and `susp` the round in which it was
suspended last (R339). -/
structure Block where
  ctx : Nat
  grid : Nat
  bidx : Nat
  core : Nat
  st : BlockSt
  base : Nat
  lmem : Nat
  groups : List Nat
  pend : AMap Nat
  bars : AMap Bar
  phase : Option (Nat × Nat × List Nat)
  record : List PhaseHeader
  rbuf : List RoundByte
  acq : List Vis
  recs : AMap MxRec
  rot : Nat
  enter : Option Nat
  susp : Nat
  deriving DecidableEq, Repr

/-- A grid (R40, R41, R62-R65, R335-R340, R370): `acq` is what every block acquires at its start, `rels` what each retired block released,
by `bidx`, `more` what its child grids and the merges of its rounds did (R238, R338). In a deterministic grid `roundOld` holds the bytes written in the open round as they
stood when it opened (R337), `oldBufs` the buffers of
retired blocks: `bidx`, core die, bytes (R376, R18); `closed` tells that its last round has closed (R65, R335). -/
structure Grid where
  ctx : Nat
  gid : Word
  img : Nat
  kern : Nat
  gdx : Nat
  gdy : Nat
  gdz : Nat
  ngrp : Nat
  gwid : Nat
  cls : Nat
  lmem : Nat
  sets : Nat
  ways : Nat
  gran : Nat
  param : DWord
  uhnd : Word
  deps : List (Int × Int × Int)
  depth : Nat
  parent : Option (Nat × Nat)
  arv : Option (Nat × Nat)
  node : Option (Nat × Nat)
  firing : Option (Nat × Nat × Nat × Nat)
  committed : Bool
  event : Option (List Nat)
  cores : List Nat
  engines : List Nat
  startAt : List (Nat × Nat)
  started : List Nat
  retired : List Nat
  ready : List Nat
  readyAt : AMap Nat
  out : AMap Nat
  round : Nat
  coinPos : Nat
  coinHeld : Bool
  roundOld : List (Nat × Byte)
  oldBufs : List (Nat × Nat × List RoundByte)
  acq : List Vis
  rels : AMap (List Vis)
  more : List Vis
  closed : Bool
  deriving DecidableEq, Repr

/-! ### Code -/

/-- One value entry of a map (R286). -/
structure MapEntry where
  val : Nat
  kind : Nat
  opnd : Nat
  reg : Nat
  w1 : Word
  w2 : Word
  deriving DecidableEq, Repr

/-- A safe-point map (R285). -/
structure SpMap where
  spn : Nat
  spadr : Nat
  resume : Nat
  xblk : Nat
  gkind : Nat
  gval : Nat
  gt : Word
  pad0 : Nat
  pad1 : Nat
  con : List Nat
  ents : List MapEntry
  deriving DecidableEq, Repr

/-- A version of a kernel (R281). `va` is where its code lies in the context's space, when the loader placed it so: then fetches
go through translation (R210, R240); otherwise it lies in the instruction store alone (R385). -/
structure Version where
  nform : Bool
  mint : Bool
  profile : Nat
  code : List Byte
  va : Option Nat
  maps : List SpMap
  deriving DecidableEq, Repr

/-- A kernel of a loaded image (R280). -/
structure Kernel where
  vers : AMap Version
  entry : Option Nat
  pin : Bool
  nval : Nat
  lmem : Nat
  carry : List Word
  pins : List Word
  deriving DecidableEq, Repr

/-- A loaded image (R279): its kernels, the values of the symbols it exports, by symbol index (R297), and the runs of virtual bytes it
takes, address and length (R385). -/
structure Image where
  kernels : List Kernel
  exports : List (Nat × Nat)
  runs : List (Nat × Nat)
  deriving DecidableEq, Repr

/-! ### Engines -/

/-- The command words (R245). -/
inductive CmdKind where
  | cpy | cpy2d | gath (scl : Bool) | scat (scl : Bool) | cpyl | fill
  | allred (op : ColOp) (bf : Bool) | allgath | redscat (op : ColOp) (bf : Bool) | bcast
  | mxrel | mxld | mxmm | mxmmg
  deriving DecidableEq, Repr

/-- A command in flight (R242-R251): `grp` is 0 for a copy node's command; `chosen` maps a core number of the cluster to
the block whose allocation the command chose at issue (R202); `prog` is its progress; `members` are the other issues of a gang
(R278); `comm` and `seq` the communicator and round (R260); `data` what a collective will write, or an index table
read; `fail` the cause that ended a copy node's command; `save` tells that the command stands at a pre-emption point (R251). -/
structure Cmd where
  kind : CmdKind
  grp : Nat
  block : Nat
  grid : Nat
  ctx : Nat
  core : Nat
  slot : Nat
  cls : Nat
  token : Word
  prm : List Word
  arv : Option Nat
  chosen : AMap Nat
  prog : Nat
  stalled : Bool
  started : Bool
  members : List Nat
  node : Option (Nat × Nat)
  comm : Nat
  seq : Nat
  writes : List Vis
  ordered : List RoundByte
  data : List Byte
  fail : Option Nat
  save : Bool
  deriving DecidableEq, Repr

/-- An open rendezvous latch (R277). -/
structure Latch where
  slots : List Nat
  ctx : Nat
  issues : List (Nat × Nat)
  prm : List Word
  deriving DecidableEq, Repr

/-- A cluster's matrix engine (R263, R274). -/
structure Cluster where
  recs : AMap MxRec
  queues : AMap (List Nat)
  last : Nat
  latches : List Latch
  deriving DecidableEq, Repr

/-- One TLB entry (R216). -/
structure TlbEntry where
  ctx : Nat
  gen : Nat
  page : Page
  deriving DecidableEq, Repr

/-- A pinned line of code (R298): its code offset, its bytes as they were fetched at a moment, and the writes that this fetch went back behind
(R226, R240). Code that lies in the instruction store alone cannot change, so that its lines hold no bytes. -/
structure PinLine where
  off : Nat
  at_ : Nat
  behind : List Nat
  bytes : List Byte
  deriving DecidableEq, Repr
/-- A core's own state (R49, R58, R60, R216, R298, R344): `cycle` the groups taken for this cycle that have not issued yet, `odd` the groups
in D-form code that have issued in it, `even` those of the cycle before (R48). -/
structure Core where
  lanePtr : List Nat
  uniPtr : List Nat
  cycle : List Nat
  odd : List Nat
  even : List Nat
  grantQ : List Nat
  phaseQ : List Nat
  tlb : List TlbEntry
  pins : List (Nat × Nat × Nat × List PinLine)
  rot : Nat
  deriving DecidableEq, Repr

/-! ### Escrow -/

/-- The captured factors of an episode (R352). -/
structure EscrowCfg where
  gamma : Word
  lambda : Word
  gl : Word
  minver : Word
  ohold : Word
  tout : Word
  policy : Word
  defr : Word
  lqhome : Nat
  deriving DecidableEq, Repr

/-- An episode (R352-R359): `done` once it is complete, `results` once the discount unit has computed it. -/
structure Episode where
  ctx : Nat
  key : Nat
  cap : Nat
  ver : Word
  cfg : EscrowCfg
  steps : AMap (Word × Word × Word)
  closed : Option (Nat × Word)
  rewards : AMap Word
  conflict : Bool
  filled : Bool
  age : Nat
  done : Option Nat
  results : Option (List (Word × Word))
  deriving DecidableEq, Repr

/-- An orphan reward (R355). -/
structure Orphan where
  ctx : Nat
  key : Nat
  t : Nat
  r : Word
  age : Nat
  deriving DecidableEq, Repr

/-- The escrow slice of a memory die (R347-R359). -/
structure Slice where
  episodes : List Episode
  orphans : List Orphan
  seq : Nat
  deriving DecidableEq, Repr

/-- A reward post under way (R351, R354, R362). `src` is twice the poster's group, or twice its link plus 1; `core` and `grid` are the
poster's outstanding entry (0 for a link); `writer` its writer index. -/
structure Post where
  ctx : Nat
  key : Nat
  t : Nat
  r : Word
  src : Nat
  grid : Nat
  core : Nat
  writer : Nat
  deriving DecidableEq, Repr

/-! ### Contexts -/

/-- A trace ring (R331). -/
structure Ring where
  die : Nat
  pos : Nat
  used : Nat
  dropped : Nat
  block : List Nat
  seq : Nat
  deriving DecidableEq, Repr

/-- A context (R308-R313). `cst` is STATE of `CTX_CTL`; `xinv` is the
moment, as a log number, of its last completed invalidation or of its creation, `pages` the translations it has used since (R215); `evDue` the
records at the head of the event queue that a round close has let run (R324), `starts` the starts of portable versions that each die has
counted and `triggers` the triggers its counts have set off (R294), by die and kernel; `ctrClosed` the counters as the last round close found
them (R363); `latches` its open latches while it is drained (R278),
`resuming` that it resumes once a marked unit is retired (R322);
`vkeys` a vault's memory, trace and import keys, `keys` that it has them (R326). -/
structure Ctx where
  cst : Nat
  cause : Nat
  dbg : Bool
  cgen : Word
  det : Bool
  vault : Bool
  keys : Bool
  meas : List Nat
  rbufg : Nat
  seed : DWord
  ptroot : Nat
  fpool : DWord
  rqtab : DWord
  pinq : Nat
  epq : Nat
  stq : Nat
  lqcap : Nat
  evk : Option (Nat × Nat)
  trbase : Nat
  trlog : Nat
  trmask : Nat
  part : List Nat
  xgen : Nat
  xinv : Nat
  pages : List Page
  binds : List (Nat × Nat × Nat)
  images : List Image
  touched : List Nat
  reqid : Nat
  events : List (List Nat)
  drops : Nat
  evRun : Option Nat
  evDue : Nat
  esc : EscrowCfg
  queue : List (List Nat)
  counters : AMap Nat
  ctrClosed : AMap Nat
  rings : List Ring
  draining : Bool
  lost : Bool
  forward : List Nat
  starts : AMap Nat
  triggers : AMap Nat
  latches : List Latch
  resuming : Bool
  vkeys : List (List Nat)
  deriving DecidableEq, Repr

/-! ### Graphs -/

/-- A node of a task graph (R365). -/
structure Node where
  kind : Nat
  fn : Nat
  pb : List Word
  deriving DecidableEq, Repr

/-- Where a node is in a run (R368). -/
inductive NodeSt where
  | waiting | running | completed | failed | skipped
  deriving DecidableEq, Repr

/-- A ring of a bound stage graph (R379). -/
structure SgRing where
  base : Nat
  cap : Nat
  rsize : Nat
  deriving DecidableEq, Repr

/-- An edge of a stage graph (R378). -/
structure SgEdge where
  frm : Nat
  dst : Nat
  prod : Nat
  cons : Nat
  init : Nat
  rsize : Nat
  high : Nat
  low : Nat
  deriving DecidableEq, Repr

/-- A stage of a stage graph (R378). -/
structure SgStage where
  img : Nat
  kern : Nat
  param : DWord
  cores : Nat
  stateless : Bool
  ngrp : Nat
  wcode : Nat
  deriving DecidableEq, Repr

/-- A bound stage graph (R379-R384): `done` lists the committed firings (stage, number, what the commit released), `flight` the firings in
flight with their grid, `cores` the cores each stage holds, by their logical numbers (R34, R382), `moves` the governor's pending moves (donor, recipient), `since` the moment at which the next firing of a stage became ready,
where it is (R45), `base` the periods
completed before this binding, `tabPos` the firings dispatched since, `acq` what the node acquired at its start. -/
structure StageGraph where
  desc : Nat
  result : Nat
  arena : Nat
  arenaBytes : Nat
  periods : Nat
  gov : Bool
  stages : List SgStage
  edges : List SgEdge
  q : List Nat
  table : List Nat
  rings : List SgRing
  occ : List Nat
  next : List Nat
  done : List (Nat × Nat × List Vis)
  flight : List (Nat × Nat × Nat)
  cores : List (List Nat)
  moves : List (Nat × Nat)
  rebind : Bool
  base : Nat
  tabPos : Nat
  since : AMap Nat
  acq : List Vis
  deriving DecidableEq, Repr

/-- A run of a graph (R368): `acq` what its trigger released, `rel` what each completed node released. -/
structure Run where
  st : List NodeSt
  fail : Option (Nat × Nat)
  sg : AMap StageGraph
  acq : List Vis
  rel : AMap (List Vis)
  deriving DecidableEq, Repr

/-- A trigger not yet started (R367). -/
structure Trigger where
  patch : Nat
  acq : List Vis
  deriving DecidableEq, Repr

/-- A loaded graph (R365-R369). -/
structure Graph where
  ctx : Nat
  nodes : List Node
  edges : List (Nat × Nat)
  crec : Nat
  vec : Nat
  trigs : List Trigger
  issued : Nat
  runs : Nat
  run : Option Run
  killed : Option Nat
  deriving DecidableEq, Repr

/-! ### The panel -/

/-- One write in the visibility log (R226): who wrote, where, through which virtual address (R227, R235), the bytes it replaced. A rule
makes it visible to the agents of `seenBy`, and at single bytes to those of `seenAt`; a reader of `readAt` has read it or a later write
at a run of bytes (R226). `frm` is the block and the cluster of the group that wrote it, if one did. `perf` is the moment from which it has
performed for every group, as a log number: at once for a strong store (R228); `near` are those from which it has performed in one block or cluster
alone: the scope's code, the block or cluster, the moment (R224, R229). `ls` are groups for which it counts as an LS write of theirs (R236);
`pub` is what it published (R230). -/
structure LogEntry where
  id : Nat
  agent : Nat
  ctx : Nat
  frm : Option (Nat × Nat)
  loc : Nat
  va : Option Nat
  old : List Byte
  seenBy : List Nat
  seenAt : List (Nat × Nat)
  readAt : List (Nat × Nat × Nat)
  perf : Option Nat
  near : List (Nat × Nat × Nat)
  ls : List Nat
  pub : List Published
  deriving DecidableEq, Repr

/-- A peer link (R23, R24): the next sequence number to send and the next expected, the unacknowledged flits, the credits held, how often each
unacknowledged flit has been sent again (by sequence number), whether a gap has been met, the number RS of a replay request that waits for room
in the window, the credits owed, and every flit sent, in order. -/
structure PeerLink where
  sendSeq : Nat
  recvSeq : Nat
  window : List (Nat × List Nat)
  credits : List Nat
  replays : AMap Nat
  gap : Bool
  ask : Option Nat
  owed : List Nat
  out : List (List Nat)
  deriving DecidableEq, Repr

/-- A power region (R29, R30): `queue` lists the launches and the phases whose starts have joined its queue, by the number of their grid
or block, in order; `held` those among them whose starts a full gate has held back. -/
structure Region where
  cstep : Word
  clk : Word
  pendCstep : Option Word
  pendClk : Option Word
  alarm : Bool
  latch : Bool
  pendDroop : Bool
  hold : Nat
  steps : Nat
  current : Nat
  admitted : Nat
  queue : List Nat
  held : List Nat
  deriving DecidableEq, Repr

/-- A Mint table entry (R295): 1 building, 2 ready, 3 failed. -/
structure MintEntry where
  key : List Nat
  vaultCtx : Option Nat
  kern : Nat
  home : Nat
  st : Nat
  built : Option BuiltVersion
  order : Nat
  waiting : List (Nat × Nat × Nat)
  deriving DecidableEq, Repr

/-- A monitor (R332). -/
structure Monitor where
  ctl : Word
  min : Word
  max : Word
  bins : List Word
  deriving DecidableEq, Repr

/-- The state that a checkpoint in the CXL tier restores, known by its digest (R317, R318); `vaultMem` are the bytes of vaults that the area
holds as ciphertext. -/
structure Checkpoint where
  digest : List Nat
  ctxs : List (Nat × Ctx)
  grids : AMap Grid
  blocks : AMap Block
  groups : AMap Group
  cmds : AMap Cmd
  clusters : AMap Cluster
  graphs : AMap Graph
  slices : AMap Slice
  posts : AMap Post
  localMem : List Host.Cell
  vaultMem : List Host.Cell
  deriving DecidableEq, Repr

/-- The panel (R10-R39 and the registers of the other chapters). `evac` lists the page-table entries whose W an evacuation has cleared (R323), `marked` the units to retire
with the errors of the window that marked them (R36, R322), `reports` the harvest records that bring-up ignored (R36, R37). -/
structure State where
  lostd : Nat
  grade : Nat
  stage : Nat
  ready : Bool
  irqReady : Word
  irqPower : Word
  irqPgreq : Word
  irqLink : Word
  msix : List Nat
  links : List (Link × Word)
  cxlCap : AMap Nat
  peers : AMap PeerLink
  regions : AMap Region
  lostDies : List Nat
  offDies : List Nat
  degraded : List Nat
  downLinks : List (Nat × Nat)
  sites : Nat
  retiredCores : List (Nat × Nat)
  retiredEngines : List (Nat × Nat)
  retiredSlices : List Nat
  harvest : List (List Nat)
  reports : List (List Nat)
  volatileRet : List (Nat × Nat × Nat)
  harvCtl : Word
  errors : List (Nat × Nat × Nat × Nat)
  marked : List (Nat × Nat × Nat × Nat)
  offCtl : Word
  evac : List Nat
  ckptCtl : Word
  ckptBase : DWord
  ckpts : List Checkpoint
  ckptBusy : Option Bool
  xlatInv : Word
  xlatHeld : List Nat
  pgAnswer : DWord
  pgStale : Nat
  ctxCreate : Word
  creating : Option Nat
  createHeld : List Nat
  gload : Word
  loading : Option Nat
  graphStat : Word
  sgRebind : Word
  importStat : Word
  importing : Option Nat
  importHeld : List Nat
  secPolicy : Word
  secRefused : Nat
  secAlarm : Word
  secAsserted : List Nat
  frozen : Bool
  mintCtl : Word
  mintStat : Word
  mint : List MintEntry
  monitors : AMap Monitor
  mem : List Host.Cell
  log : List LogEntry
  fenceLog : List Published
  bound : List Published
  ctxs : AMap Ctx
  grids : AMap Grid
  blocks : AMap Block
  groups : AMap Group
  cores : AMap Core
  clusters : AMap Cluster
  cmds : AMap Cmd
  slices : AMap Slice
  posts : AMap Post
  graphs : AMap Graph
  evSeq : AMap Nat
  hostData : List Byte
  /-- The firmware measurement: SHA3-256 of the firmware, taken as power comes on (R328). -/
  fwMeas : List Nat
  fw : List Byte
  cur : Option Nat
  inputs : List (Option Instr)
  free : Nat
  nextUid : Nat
  deriving DecidableEq, Repr

/-! ### Reset -/

/-- A power region at reset (R29, R30). -/
def Region.reset : Region :=
  { cstep := 0x00020040, clk := 0x00000410, pendCstep := none, pendClk := none, alarm := false, latch := false, pendDroop := false,
    hold := 0, steps := 0, current := 0, admitted := 0, queue := [], held := [] }

/-- The panel right after power is applied (R38 stage 1): log entries 2 and 3 name what the spec leaves open. -/
def State.reset : State where
  lostd := 0
  grade := 0xA
  stage := 1
  ready := false
  irqReady := 0x80000000
  irqPower := 0x00000001
  irqPgreq := 0x80000002
  irqLink := 0x00000003
  msix := []
  links := []
  cxlCap := []
  peers := []
  regions := []
  lostDies := []
  offDies := []
  degraded := []
  downLinks := []
  sites := 900
  retiredCores := []
  retiredEngines := []
  retiredSlices := []
  harvest := []
  reports := []
  volatileRet := []
  harvCtl := 0x80100020
  errors := []
  marked := []
  offCtl := 0
  evac := []
  ckptCtl := 0
  ckptBase := 0
  ckpts := []
  ckptBusy := none
  xlatInv := 0
  xlatHeld := []
  pgAnswer := 0
  pgStale := 0
  ctxCreate := 0
  creating := none
  createHeld := []
  gload := 0
  loading := none
  graphStat := 0
  sgRebind := 0
  importStat := 0
  importing := none
  importHeld := []
  secPolicy := 0x1F
  secRefused := 0
  secAlarm := 0
  secAsserted := []
  frozen := false
  mintCtl := 0x80001000
  mintStat := 0
  mint := []
  monitors := []
  mem := []
  log := []
  fenceLog := []
  bound := []
  ctxs := []
  grids := []
  blocks := []
  groups := []
  cores := []
  clusters := []
  cmds := []
  slices := []
  posts := []
  graphs := []
  evSeq := []
  hostData := []
  fwMeas := []
  fw := []
  cur := none
  inputs := []
  free := 0
  nextUid := 1

end Sys2Proof.Machine
end

