-- ==== Sys2Proof/Machine/Maps.lean ====
section
/-!
DEFINITION. Operations on finite maps and on the canonical byte memory: sorted by address, one entry each, no entry equal to what an
unlisted address reads as, which is zero (R38 initialises DRAM to zero, R201 zeroes an allocation; log entry 4).
-/
namespace Sys2Proof.Machine

/-- The value a map lists for a number. -/
def mget {α : Type} : AMap α → Nat → Option α
  | [], _ => none
  | (k, v) :: m, n => if k = n then some v else mget m n
/-- The value a map lists for a number, or a default. -/
def mgetD {α : Type} (m : AMap α) (n : Nat) (d : α) : α := (mget m n).getD d
/-- The map that lists `v` for `n`, and otherwise what `m` lists. -/
def mset {α : Type} : AMap α → Nat → α → AMap α
  | [], n, v => [(n, v)]
  | (k, w) :: m, n, v => if k = n then (n, v) :: m else (k, w) :: mset m n v
/-- The map without the number `n`. -/
def mdel {α : Type} (m : AMap α) (n : Nat) : AMap α := m.filter fun e => e.1 != n
/-- The map with the value of `n`, where it lists one, changed by `f`. -/
def mmod {α : Type} (m : AMap α) (n : Nat) (f : α → α) : AMap α :=
  match mget m n with
  | some v => mset m n (f v)
  | none => m
/-- The numbers a map lists. -/
def mkeys {α : Type} (m : AMap α) : List Nat := m.map (·.1)

namespace Memory

/-- What an address that no entry lists reads as (log entry 4). -/
def unlisted : Byte := 0
/-- The byte at an address. -/
def read : List Host.Cell → Nat → Byte
  | [], _ => unlisted
  | (k, v) :: m, a => if k = a then v else read m a
/-- The canonical memory in which `a` holds `b` and every other address what it held. -/
def write : List Host.Cell → Nat → Byte → List Host.Cell
  | [], a, b => if b = unlisted then [] else [(a, b)]
  | (k, v) :: m, a, b =>
    if a < k then (if b = unlisted then (k, v) :: m else (a, b) :: (k, v) :: m)
    else if a = k then (if b = unlisted then m else (a, b) :: m)
    else (k, v) :: write m a b
/-- Every address of the list lies above `lo`, and the addresses rise strictly, with no entry at the unlisted value. -/
def wfAbove : Nat → List Host.Cell → Bool
  | _, [] => true
  | lo, (k, v) :: m => decide (lo ≤ k) && (v != unlisted) && wfAbove (k + 1) m
/-- The canonical form. -/
def wf (m : List Host.Cell) : Bool := wfAbove 0 m
/-- The n bytes from an address, lowest first (R5). -/
def readN (m : List Host.Cell) (a n : Nat) : List Byte := (List.range n).map fun i => read m (a + i)
/-- Bytes stored from an address, lowest first (R5). -/
def writeN : List Host.Cell → Nat → List Byte → List Host.Cell
  | m, _, [] => m
  | m, a, b :: bs => writeN (write m a b) (a + 1) bs
/-- The memory with nothing listed from `lo` up to `hi`: those addresses read as unlisted. -/
def clear (m : List Host.Cell) (lo hi : Nat) : List Host.Cell := m.filter fun c => !(decide (lo ≤ c.1) && decide (c.1 < hi))

end Memory

/-- The number whose bytes, lowest first, are the list (R5). -/
def leNat : List Byte → Nat
  | [] => 0
  | b :: bs => b.toNat + 256 * leNat bs
/-- The n bytes of a number, lowest first (R5). -/
def leBytes : Nat → Nat → List Byte
  | 0, _ => []
  | n + 1, v => BitVec.ofNat 8 (v % 256) :: leBytes n (v / 256)
/-- The little-endian number in n bytes of a byte list from an offset; bytes beyond the list read as zero. -/
def leAt (bs : List Byte) (off n : Nat) : Nat := leNat ((List.range n).map fun i => bs.getD (off + i) 0)
/-- Bytes given as numbers. -/
def asBytes (l : List Nat) : List Byte := l.map (BitVec.ofNat 8)
/-- The number of low zero bits below the top of a positive number: floor(log2 n), and 0 for n = 0. -/
def ilog2 (n : Nat) : Nat := n.log2
/-- ceil(a / b) for b > 0. -/
def cdiv (a b : Nat) : Nat := (a + b - 1) / b
/-- The mask whose bit L is `f L`, for lanes below n. -/
def maskOf (n : Nat) (f : Nat → Bool) : Mask :=
  BitVec.ofNat 64 ((List.range n).foldl (fun m L => if f L then m + 2 ^ L else m) 0)
/-- All ones over n lanes. -/
def ones (n : Nat) : Mask := BitVec.ofNat 64 (2 ^ n - 1)
/-- The lanes of a mask below n, ascending. -/
def lanesOf (n : Nat) (m : Mask) : List Nat := (List.range n).filter fun L => m.getLsbD L
/-- The lowest lane of a mask below n, or 0. -/
def lowLane (n : Nat) (m : Mask) : Nat := (lanesOf n m).headD 0
/-- A list without repeats, keeping first places. -/
def dedup {α : Type} [BEq α] : List α → List α
  | [] => []
  | a :: l => a :: (dedup l).filter (· != a)
/-- The union of two lists without repeats. -/
def union {α : Type} [BEq α] (a b : List α) : List α := a ++ b.filter fun x => !a.contains x
/-- The list with position i holding `v`. -/
def setAt {α : Type} (l : List α) (i : Nat) (v : α) : List α := l.set i v
/-- Insertion into an ascending list of numbers. -/
def insertAsc (n : Nat) : List Nat → List Nat
  | [] => [n]
  | a :: l => if n ≤ a then n :: a :: l else a :: insertAsc n l
/-- Ascending order. -/
def sortAsc : List Nat → List Nat
  | [] => []
  | a :: l => insertAsc a (sortAsc l)
/-- The pick-th element of a nonempty list of choices: a single choice needs no free value. -/
def choose {α : Type} (pick : Nat) : List α → Option α
  | [] => none
  | [a] => some a
  | a :: b :: l => some ((a :: b :: l).getD (pick % (l.length + 2)) a)

end Sys2Proof.Machine
end

