-- ==== Sys2Proof/Machine/Numerics.lean ====
section
/-!
DEFINITION. Number formats and arithmetic (R66-R80, R176-R183): a format's bits as an exact value, exact operations on signed dyadic,
rational and root magnitudes, and the one rounding at the end (R78, R79).
-/
namespace Sys2Proof.Machine

/-- A binary floating format (R68, R69): exponent and fraction widths and the bias. -/
structure Fmt where
  eb : Nat
  fb : Nat
  bias : Nat
  deriving DecidableEq, Repr

def fp32 : Fmt := ⟨8, 23, 127⟩
def fp16 : Fmt := ⟨5, 10, 15⟩
def bf16 : Fmt := ⟨8, 7, 127⟩
def e4m3 : Fmt := ⟨4, 3, 7⟩
def e5m2 : Fmt := ⟨5, 2, 15⟩

/-- What a datum stands for: NaN, an infinity, or (−1)^s × m × 2^e. -/
inductive FVal where
  | nan
  | inf (s : Bool)
  | fin (s : Bool) (m : Nat) (e : Int)
  deriving DecidableEq, Repr

/-- The width of a format's sign, exponent and fraction. -/
def Fmt.width (f : Fmt) : Nat := 1 + f.eb + f.fb
/-- E4M3 has no infinity and one NaN (R69). -/
def Fmt.hasInf (f : Fmt) : Bool := f != e4m3
/-- The canonical NaN (R68, R69). -/
def Fmt.nan (f : Fmt) : Nat :=
  if f = e4m3 then 0x7F else (2 ^ f.eb - 1) * 2 ^ f.fb + 2 ^ (f.fb - 1)
/-- The largest finite magnitude's bits. -/
def Fmt.maxFin (f : Fmt) : Nat := if f = e4m3 then 0x7E else (2 ^ f.eb - 1) * 2 ^ f.fb - 1
/-- The bits of +infinity. -/
def Fmt.infBits (f : Fmt) : Nat := (2 ^ f.eb - 1) * 2 ^ f.fb
/-- The largest exponent of a finite value. -/
def Fmt.emax (f : Fmt) : Int := if f = e4m3 then 8 else (2 ^ f.eb - 2 : Int) - f.bias
/-- The value of a datum's bits (R68, R69). -/
def Fmt.decode (f : Fmt) (v : Nat) : FVal :=
  let s := v / 2 ^ (f.eb + f.fb) % 2 == 1
  let e := v / 2 ^ f.fb % 2 ^ f.eb
  let m := v % 2 ^ f.fb
  if f = e4m3 then
    if e = 15 && m = 7 then .nan
    else if e = 0 then .fin s m (1 - (f.bias : Int) - f.fb) else .fin s (2 ^ f.fb + m) ((e : Int) - f.bias - f.fb)
  else if e = 2 ^ f.eb - 1 then (if m = 0 then .inf s else .nan)
  else if e = 0 then .fin s m (1 - (f.bias : Int) - f.fb)
  else .fin s (2 ^ f.fb + m) ((e : Int) - f.bias - f.fb)

/-- A rounding mode that has been resolved (R76). -/
inductive RMode where
  | rne | rz | ru | rd | sr
  deriving DecidableEq, Repr
/-- A positive real, exactly: m × 2^e, (p ÷ q) × 2^e, √(m × 2^e), 1 ÷ √(m × 2^e), or a real a little above v × 2^e that
no format holds (a transcendental value). -/
inductive Mag where
  | dy (m : Nat) (e : Int)
  | rat (p q : Nat) (e : Int)
  | root (m : Nat) (e : Int)
  | rroot (m : Nat) (e : Int)
  | above (v : Nat) (e : Int)
  deriving DecidableEq, Repr

/-- v × 2^k for k that may be negative: the floor, and whether something was cut off. -/
def shiftFloor (v : Nat) (k : Int) : Nat × Bool :=
  if 0 ≤ k then (v * 2 ^ k.toNat, false) else (v / 2 ^ (-k).toNat, v % 2 ^ (-k).toNat != 0)
/-- floor(x × 2^k), and whether x × 2^k is no integer. -/
def Mag.scaled (x : Mag) (k : Int) : Nat × Bool :=
  match x with
  | .dy m e => shiftFloor m (k + e)
  | .rat p q e =>
    let n := if 0 ≤ k + e then p * 2 ^ (k + e).toNat else p
    let d := if 0 ≤ k + e then q else q * 2 ^ (-(k + e)).toNat
    (n / d, n % d != 0)
  | .root m e =>
    let t := 2 * k + e
    let n := if 0 ≤ t then m * 2 ^ t.toNat else m / 2 ^ (-t).toNat
    let cut := decide (t < 0) && m % 2 ^ (-t).toNat != 0
    let r := Nat.sqrt n
    (r, cut || r * r != n)
  | .rroot m e =>
    let t := 2 * k - e
    let n := if 0 ≤ t then 2 ^ t.toNat / m else 0
    let r := Nat.sqrt n
    (r, !(decide (0 ≤ t) && r * r * m == 2 ^ t.toNat))
  | .above v e => ((shiftFloor v (k + e)).1, true)
/-- floor(log2 x). -/
def Mag.log (x : Mag) : Int :=
  match x with
  | .dy m e => (m.log2 : Int) + e
  | .above v e => (v.log2 : Int) + e
  | .rat p q e =>
    let l : Int := (p.log2 : Int) - q.log2
    if (if 0 ≤ l then p < q * 2 ^ l.toNat else p * 2 ^ (-l).toNat < q) then l - 1 + e else l + e
  | .root m e => ((m.log2 : Int) + e) / 2
  | .rroot m e =>
    let l := (m.log2 : Int) + e
    if m = 2 ^ m.log2 && l % 2 == 0 then -(l / 2) else -(l / 2) - 1
/-- The magnitude is zero. -/
def Mag.isZero : Mag → Bool
  | .dy m _ => m == 0
  | .rat p _ _ => p == 0
  | .root m _ => m == 0
  | .rroot _ _ => false
  | .above v _ => v == 0

/-- Whether a magnitude between a lattice point q and the next goes up. `r` is the fraction in 32 bits, `st` whether more
follows below it, `odd` whether q is odd; SR compares the b-bit field h (R78). -/
def roundUp (md : RMode) (neg odd : Bool) (r : Nat) (st : Bool) (h b : Nat) : Bool :=
  if r == 0 && !st then false
  else match md with
    | .rne => decide (2 ^ 31 < r) || (r == 2 ^ 31 && (st || odd))
    | .rz => false
    | .ru => !neg
    | .rd => neg
    | .sr =>
      let fr := r / 2 ^ (32 - b)
      let more := st || r % 2 ^ (32 - b) != 0
      decide (h < fr) || (h == fr && more)
/-- The integer nearest a magnitude under a mode, before any bound: the round of R78 with F the integers. -/
def roundIntMag (md : RMode) (neg : Bool) (x : Mag) (h b : Nat) : Nat :=
  let t := x.scaled 32
  let q := t.1 / 2 ^ 32
  if roundUp md neg (q % 2 == 1) (t.1 % 2 ^ 32) t.2 h b then q + 1 else q
/-- round(F, ±x, md, h) for a floating format and x > 0 (R78, R79). -/
def roundMag (f : Fmt) (md : RMode) (neg : Bool) (x : Mag) (h b : Nat) : Nat :=
  let sgn := if neg then 2 ^ (f.eb + f.fb) else 0
  let E := x.log
  let emin : Int := 1 - f.bias
  let excess : Nat :=
    if f.hasInf then
      match md with
      | .rne | .sr => f.infBits
      | .rz => f.maxFin
      | .ru => if neg then f.maxFin else f.infBits
      | .rd => if neg then f.infBits else f.maxFin
    else f.maxFin
  if x.isZero then sgn
  else if f.emax < E then sgn + excess
  else
    let ue : Int := (if emin ≤ E then E else emin) - f.fb
    let t := x.scaled (32 - ue)
    let q := t.1 / 2 ^ 32
    let q' := if roundUp md neg (q % 2 == 1) (t.1 % 2 ^ 32) t.2 h b then q + 1 else q
    let bits := if emin ≤ E then (E + f.bias - 1).toNat * 2 ^ f.fb + q' else q'
    sgn + (if !f.hasInf && decide (f.maxFin < bits) then f.maxFin else bits)

/-- A signed exact result: NaN, an infinity, or a sign with a magnitude (a zero keeps its sign). -/
inductive Exact where
  | nan
  | inf (s : Bool)
  | val (s : Bool) (x : Mag)
  deriving DecidableEq, Repr

/-- The datum that an exact result becomes in a format (R75, R78, R79). -/
def Exact.round (f : Fmt) (md : RMode) (h b : Nat) : Exact → Nat
  | .nan => f.nan
  | .inf s => (if s then 2 ^ (f.eb + f.fb) else 0) + (if f.hasInf then f.infBits else f.maxFin)
  | .val s x => roundMag f md s x h b

/-! ### Exact operations (R75) -/

/-- The negation of a value. -/
def FVal.neg : FVal → FVal
  | .nan => .nan
  | .inf s => .inf (!s)
  | .fin s m e => .fin (!s) m e
/-- The product. -/
def FVal.mul : FVal → FVal → FVal
  | .nan, _ | _, .nan => .nan
  | .inf s, .inf t => .inf (s != t)
  | .inf s, .fin t m _ | .fin t m _, .inf s => if m = 0 then .nan else .inf (s != t)
  | .fin s m e, .fin t n d => .fin (s != t) (m * n) (e + d)
/-- The exact sum; an exact zero sum of opposite signs is +0, except under RD (R75). -/
def FVal.add (md : RMode) : FVal → FVal → FVal
  | .nan, _ | _, .nan => .nan
  | .inf s, .inf t => if s = t then .inf s else .nan
  | .inf s, .fin _ _ _ | .fin _ _ _, .inf s => .inf s
  | .fin s m e, .fin t n d =>
    let z := min e d
    let a : Int := (if s then -1 else 1) * (m * 2 ^ (e - z).toNat : Nat)
    let c : Int := (if t then -1 else 1) * (n * 2 ^ (d - z).toNat : Nat)
    let r := a + c
    if r = 0 then .fin (if s = t then s else md == .rd) 0 z
    else .fin (decide (r < 0)) r.natAbs z
/-- A value as an exact result. -/
def FVal.exact : FVal → Exact
  | .nan => .nan
  | .inf s => .inf s
  | .fin s m e => .val s (.dy m e)
/-- a + b rounded once. -/
def fAdd (f : Fmt) (md : RMode) (h b : Nat) (x y : Nat) : Nat :=
  ((f.decode x).add md (f.decode y)).exact.round f md h b
/-- a − b rounded once. -/
def fSub (f : Fmt) (md : RMode) (h b : Nat) (x y : Nat) : Nat :=
  ((f.decode x).add md (f.decode y).neg).exact.round f md h b
/-- a × b rounded once. -/
def fMul (f : Fmt) (md : RMode) (h b : Nat) (x y : Nat) : Nat :=
  ((f.decode x).mul (f.decode y)).exact.round f md h b
/-- a × b + d rounded once. -/
def fMa (f : Fmt) (md : RMode) (h b : Nat) (x y d : Nat) : Nat :=
  (((f.decode x).mul (f.decode y)).add md (f.decode d)).exact.round f md h b
/-- d − a × b rounded once. -/
def fMs (f : Fmt) (md : RMode) (h b : Nat) (x y d : Nat) : Nat :=
  ((f.decode d).add md ((f.decode x).mul (f.decode y)).neg).exact.round f md h b
/-- The exact comparison of two values that are not NaN: −1, 0 or 1 as an ordering; −0 equals +0. -/
def FVal.cmp : FVal → FVal → Option Ordering
  | .nan, _ | _, .nan => none
  | .inf s, .inf t => some (if s = t then .eq else if s then .lt else .gt)
  | .inf s, .fin _ _ _ => some (if s then .lt else .gt)
  | .fin _ _ _, .inf t => some (if t then .gt else .lt)
  | .fin s m e, .fin t n d =>
    let z := min e d
    let a : Int := (if s then -1 else 1) * (m * 2 ^ (e - z).toNat : Nat)
    let c : Int := (if t then -1 else 1) * (n * 2 ^ (d - z).toNat : Nat)
    some (compare a c)
/-- The sign of a datum. -/
def Fmt.sign (f : Fmt) (v : Nat) : Bool := v / 2 ^ (f.eb + f.fb) % 2 == 1
/-- The smaller or larger operand, −0 below +0; one NaN gives the other operand, two the canonical NaN (R177). -/
def fMinMax (f : Fmt) (max : Bool) (x y : Nat) : Nat :=
  match f.decode x, f.decode y with
  | .nan, .nan => f.nan
  | .nan, _ => y
  | _, .nan => x
  | a, b =>
    match a.cmp b with
    | some .lt => if max then y else x
    | some .gt => if max then x else y
    | _ => if f.sign x == max then y else x

/-! ### Integers and TS8 -/

/-- A rounded signed value bounded to [lo, hi] (R79). -/
def clampI (v lo hi : Int) : Int := if v < lo then lo else if hi < v then hi else v
/-- An exact result rounded to an integer in [lo, hi]; NaN gives 0, infinities and values beyond saturate (R79). -/
def Exact.toInt (md : RMode) (h b : Nat) (lo hi : Int) : Exact → Int
  | .nan => 0
  | .inf s => if s then lo else hi
  | .val s x =>
    let q : Int := roundIntMag md s x h b
    clampI (if s then -q else q) lo hi
/-- The positive magnitudes of TS8, ascending (R72). -/
def ts8Mags : List Nat :=
  [0, 1, 2, 3, 4, 5, 6, 7, 8, 9, 10, 12, 14, 15, 16, 17, 18, 20, 24, 28, 30, 31, 32, 33, 34, 36, 40, 48, 56, 60, 62, 63,
   64, 65, 66, 68, 72, 80, 96, 128]
/-- One term of a TS8 byte: (sign, code) in a nibble (R71). -/
def ts8Term (n : Nat) : Int := if n % 8 = 7 then 0 else (if n / 8 = 1 then -1 else 1) * 2 ^ (n % 8)
/-- The value of a TS8 byte (R71). -/
def ts8Val (v : Nat) : Int := ts8Term (v / 16 % 16) + ts8Term (v % 16)
/-- The canonical TS8 encoding of a representable magnitude with a sign (R72): the first rule that matches. -/
def ts8Enc (neg : Bool) (v : Nat) : Nat :=
  let s := if neg then 8 else 0
  let t := if neg then 0 else 8
  let pairs := (List.range 7).flatMap fun a => (List.range a).map fun b => (a, b)
  if v = 0 then 0x77
  else if v = 128 then (s + 6) * 16 + (s + 6)
  else if v = 2 ^ v.log2 then (s + v.log2) * 16 + 7
  else match pairs.find? fun p => 2 ^ p.1 + 2 ^ p.2 = v with
    | some (a, b) => (s + a) * 16 + (s + b)
    | none => match pairs.find? fun p => 2 ^ p.1 - 2 ^ p.2 = v with
      | some (a, b) => (s + a) * 16 + (t + b)
      | none => 0x77
/-- The magnitude that m × 2^e becomes in TS8: neighbours lo and hi, a tie goes to lo, beyond 128 saturates (R78, R79). -/
def ts8Round (md : RMode) (neg : Bool) (m : Nat) (e : Int) (h b : Nat) : Nat :=
  let sc := if e < 0 then (-e).toNat else 0
  let M := m * 2 ^ (e + sc).toNat
  let lo := (ts8Mags.filter fun v => v * 2 ^ sc ≤ M).foldl max 0
  match ts8Mags.find? fun v => M < v * 2 ^ sc with
  | none => 128
  | some hi =>
    let d := M - lo * 2 ^ sc
    let g := (hi - lo) * 2 ^ sc
    if d = 0 then lo
    else match md with
      | .rne => if g < 2 * d then hi else lo
      | .rz => lo
      | .ru => if neg then lo else hi
      | .rd => if neg then hi else lo
      | .sr => if h * g < d * 2 ^ b then hi else lo
/-- A datum of a floating format with its value as a TS8 byte (R79). -/
def FVal.toTs8 (md : RMode) (h b : Nat) : FVal → Nat
  | .nan => 0x77
  | .inf s => ts8Enc s 128
  | .fin s m e => ts8Enc s (ts8Round md s m e h b)
/-- n-bit two's complement of an integer. -/
def twos (n : Nat) (i : Int) : Nat := (i % (2 ^ n : Int)).toNat
/-- A value in one of the narrow formats of `vquant`, scaled by 2^(e − 127) before the one rounding (R74, R184). -/
def FVal.quant (q : QFmt) (md : RMode) (h b : Nat) (scale : Nat) (v : FVal) : Nat :=
  let v' : FVal :=
    if scale = 255 then .nan
    else match v with
      | .fin s m e => .fin s m (e + scale - 127)
      | w => w
  match q with
  | .e4m3 => v'.exact.round Machine.e4m3 md h b
  | .e5m2 => v'.exact.round Machine.e5m2 md h b
  | .int8 => twos 8 (v'.exact.toInt md h b (-128) 127)
  | .uint8 => twos 8 (v'.exact.toInt md h b 0 255)
  | .int4 => twos 4 (v'.exact.toInt md h b (-8) 7)
  | .ts8 => v'.toTs8 md h b
/-- The zero encoding of a narrow format (R184). -/
def qzero : QFmt → Nat
  | .ts8 => 0x77
  | .e4m3 | .e5m2 | .int8 | .uint8 | .int4 => 0

/-! ### Special functions (R179, R180): fixed point with `prec` fraction bits -/

/-- Fraction bits of the fixed-point evaluation: enough to separate every FP32 result from every rounding boundary. -/
def prec : Nat := 640
/-- Σ z^(2k+1) ÷ (2k+1), k < n, with sign (−1)^k when `alt`: the atanh or atan series in fixed point. -/
def atanSeries (alt : Bool) (z : Int) : Nat → Int
  | 0 => 0
  | n + 1 => atanSeries alt z n +
      (let t := (z ^ (2 * n + 1)) / (2 ^ (prec * (2 * n)) : Int) / (2 * n + 1)
       if alt && n % 2 == 1 then -t else t)
/-- Horner-like Taylor sum: 1 + z/k (1 + z/(k+1) (…)) with n terms from k. -/
def expSeries (z : Int) : Nat → Nat → Int
  | 0, _ => (2 ^ prec : Int)
  | n + 1, k => (2 ^ prec : Int) + z * expSeries z n (k + 1) / (2 ^ prec : Int) / k
/-- ln 2. -/
def ln2 : Int := 2 * atanSeries false ((2 ^ prec : Int) / 3) 210
/-- π, by Machin's formula. -/
def piFix : Int := 16 * atanSeries true ((2 ^ prec : Int) / 5) 145 - 4 * atanSeries true ((2 ^ prec : Int) / 239) 45
/-- sin z for 0 ≤ z ≤ 1 (fixed point): z Σ (−z²)^k ÷ (2k+1)!. -/
def sinFix (z : Int) : Int :=
  let z2 := z * z / (2 ^ prec : Int)
  let rec go : Nat → Nat → Int
    | 0, _ => (2 ^ prec : Int)
    | n + 1, k => (2 ^ prec : Int) - z2 * go n (k + 2) / (2 ^ prec : Int) / (k * (k + 1))
  z * go 70 2 / (2 ^ prec : Int)
/-- cos z for 0 ≤ z ≤ 1. -/
def cosFix (z : Int) : Int :=
  let z2 := z * z / (2 ^ prec : Int)
  let rec go : Nat → Nat → Int
    | 0, _ => (2 ^ prec : Int)
    | n + 1, k => (2 ^ prec : Int) - z2 * go n (k + 2) / (2 ^ prec : Int) / (k * (k + 1))
  go 70 1
/-- A dyadic ±m × 2^e in fixed point; exact for every FP32 value. -/
def fixOf (s : Bool) (m : Nat) (e : Int) : Int :=
  (if s then -1 else 1) * (shiftFloor m (e + prec)).1
/-- A fixed-point result that no format holds exactly. -/
def fixExact (v : Int) : Exact := .val (decide (v < 0)) (.above v.natAbs (-(prec : Int)))
/-- 2^x (R180). -/
def exp2F : FVal → Exact
  | .nan => .nan
  | .inf s => if s then .val false (.dy 0 0) else .inf false
  | .fin s m e =>
    let v := fixOf s m e
    let i := v / (2 ^ prec : Int)
    let f := v % (2 ^ prec : Int)
    if 128 ≤ i then .inf false
    else if v < -150 * (2 ^ prec : Int) then .val false (.dy 0 0)
    else if f = 0 then .val false (.dy 1 i)
    else .val false (.above (expSeries (f * ln2 / (2 ^ prec : Int)) 150 1).toNat (i - prec))
/-- log2 x (R180). -/
def log2F : FVal → Exact
  | .nan => .nan
  | .inf s => if s then .nan else .inf false
  | .fin s m e =>
    if m = 0 then .inf true
    else if s then .nan
    else
      let E : Int := (m.log2 : Int) + e
      if m = 2 ^ m.log2 then .val (decide (E < 0)) (.dy E.natAbs 0)
      else
        let y : Int := m * 2 ^ (prec - m.log2)
        let high : Bool := decide (3 * (2 ^ prec : Int) ≤ 2 * y)
        let y' := if high then y / 2 else y
        let E' := if high then E + 1 else E
        let t := (y' - (2 ^ prec : Int)) * (2 ^ prec : Int) / (y' + (2 ^ prec : Int))
        fixExact (E' * (2 ^ prec : Int) + 2 * atanSeries false t 150 * (2 ^ prec : Int) / ln2)
/-- sin(π × q ÷ 2 + π u) for 0 ≤ u ≤ 1/2 in fixed point, q the quadrant 0 to 3: near a zero the argument is exact. -/
def sinQuad (q : Nat) (u : Int) : Exact :=
  let half : Int := (2 ^ prec : Int) / 2
  let v := if q % 2 = 0 then u else half - u
  let r := if 4 * v ≤ (2 ^ prec : Int) then sinFix (v * piFix / (2 ^ prec : Int))
    else cosFix ((half - v) * piFix / (2 ^ prec : Int))
  if q < 2 then fixExact r else fixExact (-r)
/-- sin(π x) (R180). -/
def sinF : FVal → Exact
  | .nan => .nan
  | .inf _ => .nan
  | .fin s m e =>
    let v := fixOf false m e % (2 * (2 ^ prec : Int))
    let half : Int := (2 ^ prec : Int) / 2
    let q := (v / half).toNat
    let u := v % half
    if u = 0 then
      (if q % 2 = 0 then .val s (.dy 0 0) else .val ((q == 3) != s) (.dy 1 0))
    else match sinQuad q u with
      | .val t x => .val (t != s) x
      | r => r
/-- cos(π x) (R180). -/
def cosF : FVal → Exact
  | .nan => .nan
  | .inf _ => .nan
  | .fin _ m e =>
    let half : Int := (2 ^ prec : Int) / 2
    let v := (fixOf false m e + half) % (2 * (2 ^ prec : Int))
    let q := (v / half).toNat
    let u := v % half
    if u = 0 then (if q % 2 = 0 then .val false (.dy 0 0) else .val (q == 3) (.dy 1 0))
    else sinQuad q u
/-- z raised to 2^n in fixed point. -/
def squareN (z : Int) : Nat → Int
  | 0 => z
  | n + 1 => squareN z n * squareN z n / (2 ^ prec : Int)
/-- tanh x (R180). -/
def tanhF : FVal → Exact
  | .nan => .nan
  | .inf s => .val s (.dy 1 0)
  | .fin s m e =>
    if m = 0 then .val s (.dy 0 0)
    else
      let v := fixOf false m e
      if 9 * (2 ^ prec : Int) ≤ v then .val s (.dy 1 0)
      else
        let E := squareN (expSeries (2 * v / 32) 150 1) 5
        .val s (.above (((E - (2 ^ prec : Int)) * (2 ^ prec : Int)) / (E + (2 ^ prec : Int))).toNat (-(prec : Int)))
/-- 1 ÷ x (R180). -/
def rcpF : FVal → Exact
  | .nan => .nan
  | .inf s => .val s (.dy 0 0)
  | .fin s m e => if m = 0 then .inf s else .val s (.rat 1 m (-e))
/-- √x (R180). -/
def sqrtF : FVal → Exact
  | .nan => .nan
  | .inf s => if s then .nan else .inf false
  | .fin s m e =>
    if m = 0 then .val s (.dy 0 0)
    else if s then .nan
    else .val false (.root m e)
/-- 1 ÷ √x (R180). -/
def rsqF : FVal → Exact
  | .nan => .nan
  | .inf s => if s then .nan else .val false (.dy 0 0)
  | .fin s m e =>
    if m = 0 then .inf s
    else if s then .nan
    else .val false (.rroot m e)

/-! ### Stochastic rounding (R80) -/

/-- The 32-bit draw of a lane. -/
def srDraw (seed : DWord) (srx : Word) (L : Nat) : Nat :=
  let lo := seed.toNat % 2 ^ 32
  let hi := seed.toNat / 2 ^ 32
  let c := (srx.toNat % 2 ^ 26 * 64 + L) % 2 ^ 32
  let h0 := lo ^^^ c
  let h1 := h0 * 0x9B4F2D63 % 2 ^ 32
  let h2 := h1 ^^^ (h1 / 2 ^ 15)
  let h3 := h2 ^^^ hi
  let h4 := h3 * 0xE1C65A37 % 2 ^ 32
  h4 ^^^ (h4 / 2 ^ 16)

end Sys2Proof.Machine
end

