-- ==== Sys2Proof/Machine/Ops.lean ====
section
/-!
DEFINITION. The named operations over groups and registers: reading under the switch-marker contract (R92-R95), writing, retiring,
parking, taking a trap (R304), the return from it (R306), and killing a context (R312).
-/
namespace Sys2Proof.Machine

/-! ### Objects of the panel -/

/-- The escrow configuration at creation (R353). -/
def EscrowCfg.init : EscrowCfg :=
  { gamma := 0x3F800000, lambda := 0x3F800000, gl := 0x3F800000, minver := 0, ohold := 0x01000000, tout := 0,
    policy := 0, defr := 0, lqhome := 0 }
/-- A context slot that holds no context (R308): STATE 0, generation 0 before the first creation (log entry 3). -/
def Ctx.free : Ctx :=
  { cst := 0, cause := 0, dbg := false, cgen := 0, det := false, vault := false, keys := false, meas := [], rbufg := 0,
    seed := 0, ptroot := 0, fpool := 0, rqtab := 0, pinq := 0, epq := 0, stq := 0, lqcap := 0, evk := none, trbase := 0,
    trlog := 0, trmask := 0, part := [], xgen := 0, xinv := 0, pages := [], binds := [], images := [], touched := [], reqid := 0, events := [],
    drops := 0, evRun := none, evDue := 0, esc := EscrowCfg.init, queue := [], counters := [], ctrClosed := [], rings := [], draining := false,
    lost := false, forward := [], starts := [], triggers := [], latches := [], resuming := false, vkeys := [] }
/-- The context of a slot. -/
def ctxOf (s : State) (c : Nat) : Ctx := mgetD s.ctxs c Ctx.free
/-- The state with the context of a slot changed. -/
def modCtx (s : State) (c : Nat) (f : Ctx → Ctx) : State := { s with ctxs := mset s.ctxs c (f (ctxOf s c)) }
/-- A core nobody has used yet: pointers at slot 0 and rotation at index 0 (log entry 3). -/
def Core.idle : Core :=
  { lanePtr := [0, 0, 0, 0], uniPtr := [0, 0, 0, 0], cycle := [], odd := [], even := [], grantQ := [], phaseQ := [], tlb := [], pins := [],
    rot := 0 }
/-- The state of a core (die × 1024 + site). -/
def coreOf (s : State) (c : Nat) : Core := mgetD s.cores c Core.idle
/-- The state with a core changed. -/
def modCore (s : State) (c : Nat) (f : Core → Core) : State := { s with cores := mset s.cores c (f (coreOf s c)) }
/-- A matrix engine nobody has used: no record, and slot 127 as the slot last served (R274). -/
def Cluster.idle : Cluster := { recs := [], queues := [], last := 127, latches := [] }
/-- The matrix engine of a cluster (die × 240 + cluster index). -/
def clusterOf (s : State) (c : Nat) : Cluster := mgetD s.clusters c Cluster.idle
/-- The state with a matrix engine changed. -/
def modCluster (s : State) (c : Nat) (f : Cluster → Cluster) : State :=
  { s with clusters := mset s.clusters c (f (clusterOf s c)) }
/-- An empty escrow slice. -/
def Slice.empty : Slice := { episodes := [], orphans := [], seq := 0 }
/-- The escrow slice of a memory-die index. -/
def sliceOf (s : State) (m : Nat) : Slice := mgetD s.slices m Slice.empty
/-- The state with a slice changed. -/
def modSlice (s : State) (m : Nat) (f : Slice → Slice) : State := { s with slices := mset s.slices m (f (sliceOf s m)) }
/-- A power region of the panel. -/
def regionOf (s : State) (n : Nat) : Region := mgetD s.regions n Region.reset
/-- The state with a region changed. -/
def modRegion (s : State) (n : Nat) (f : Region → Region) : State :=
  { s with regions := mset s.regions n (f (regionOf s n)) }
/-- The state with a grid changed. -/
def modGrid (s : State) (n : Nat) (f : Grid → Grid) : State := { s with grids := mmod s.grids n f }
/-- The state with a block changed. -/
def modBlock (s : State) (n : Nat) (f : Block → Block) : State := { s with blocks := mmod s.blocks n f }
/-- The state in which a group is `g`. -/
def setGroup (s : State) (u : Nat) (g : Group) : State := { s with groups := mset s.groups u g }
/-- The state with a group changed. -/
def modGroup (s : State) (u : Nat) (f : Group → Group) : State := { s with groups := mmod s.groups u f }
/-- A fresh number for a new object. -/
def fresh (s : State) : Nat × State := (s.nextUid, { s with nextUid := s.nextUid + 1 })

/-! ### Places (R10-R12) -/

/-- The die of a core. -/
def dieOf (core : Nat) : Nat := core / 1024
/-- The site index of a core on its die (R12). -/
def siteOf (core : Nat) : Nat := core % 1024
/-- The cluster index of a core on its die (R12). -/
def clusterIdx (core : Nat) : Nat := siteOf core / 32 / 2 * 16 + siteOf core % 32 / 2
/-- The number of a core within its cluster (R12). -/
def coreNum (core : Nat) : Nat := siteOf core / 32 % 2 * 2 + siteOf core % 32 % 2
/-- The matrix engine's number: die × 240 + cluster index. -/
def clusterNum (core : Nat) : Nat := dieOf core * 240 + clusterIdx core
/-- The core with a core number in the cluster of a core. -/
def clusterCore (core c : Nat) : Nat :=
  dieOf core * 1024 + ((siteOf core / 32 / 2 * 2 + c / 2) * 32 + siteOf core % 32 / 2 * 2 + c % 2)
/-- The column and row of a die (R10). -/
def dieCol (d : Nat) : Nat := d % 24
def dieRow (d : Nat) : Nat := d / 24
/-- A site holds a core die when col + row is even (R10). -/
def isCoreDie (d : Nat) : Bool := decide (d < 384) && (dieCol d + dieRow d) % 2 == 0
/-- A site holds a memory die otherwise (R10). -/
def isMemDie (d : Nat) : Bool := decide (d < 384) && (dieCol d + dieRow d) % 2 == 1
/-- The memory-die index of a memory die: 12 memory dies in each row (R10). -/
def memIndex (d : Nat) : Nat := dieRow d * 12 + dieCol d / 2
/-- The die ordinal of a memory-die index (R10). -/
def memDie (m : Nat) : Nat := m / 12 * 24 + (m % 12 * 2 + (m / 12 + 1) % 2)
/-- The die ordinal of the j-th core die. -/
def coreDie (j : Nat) : Nat := j / 12 * 24 + (j % 12 * 2 + j / 12 % 2)
/-- The memory die to which a core die is assigned (R18). -/
def assigned (d : Nat) : Nat := if dieRow d = 15 then d - 24 else d + 24
/-- The start of a memory die's DRAM window (R17), and of its firmware reserve (R18). -/
def windowBase (m : Nat) : Nat := m * 0x400000000
def reserveBase (m : Nat) : Nat := windowBase m + 0x3C0000000
/-- The neighbour of a die over an edge 0 to 3, where it exists (R11). -/
def neighbour (d e : Nat) : Option Nat :=
  if e = 0 then (if dieRow d = 0 then none else some (d - 24))
  else if e = 1 then (if dieCol d = 23 then none else some (d + 1))
  else if e = 2 then (if dieRow d = 15 then none else some (d + 24))
  else if e = 3 then (if dieCol d = 0 then none else some (d - 1))
  else none

/-! ### Code -/

/-- The kernel of an image of a context. -/
def kernelOf (s : State) (c img kern : Nat) : Option Kernel :=
  match (ctxOf s c).images[img]? with
  | some im => im.kernels[kern]?
  | none => none
/-- The version a group runs (R159 `ver`). -/
def versionOf (s : State) (g : Group) : Option Version :=
  match mget s.grids g.grid with
  | some gr =>
    match kernelOf s g.ctx gr.img gr.kern with
    | some k => mget k.vers g.ver
    | none => none
  | none => none
/-- Whether the group runs N-form code. The firmware code, which a group runs while its handler stack is in use, is N-form. -/
def nativeCode (s : State) (g : Group) : Bool :=
  g.hstack.isSome || (match versionOf s g with | some v => v.nform | none => false)
/-- The bytes of one branch unit: 4 in N-form, 2 in D-form (R105). -/
def codeUnit (s : State) (g : Group) : Nat := if nativeCode s g then 4 else 2
/-- Whether the group runs under deterministic scheduling (R344). -/
def detOf (s : State) (g : Group) : Bool := (ctxOf s g.ctx).det
/-- Whether results may be outstanding: N-form code outside deterministic scheduling (R95, R101). -/
def loose (s : State) (g : Group) : Bool := nativeCode s g && !detOf s g

/-! ### Register reads (R93, R122, R166) -/

/-- All ones over the group's width: k0 (R46). -/
def full (g : Group) : Mask := ones g.gwid
/-- The lanes of a register, newest write in program order; x0 reads zero (R46). -/
def xNow (g : Group) (r : Nat) : List Word :=
  if r = 0 then List.replicate g.gwid 0 else mgetD g.x r (List.replicate g.gwid 0)
/-- One lane of a register, newest write. -/
def laneNow (g : Group) (r L : Nat) : Word := (xNow g r).getD L 0
/-- The outstanding writes of a register; x0 has none (R46, R94). -/
def openWrites (g : Group) (r : Nat) : List RegWrite := if r = 0 then [] else mgetD g.histX r []
/-- One lane of a register as a word reads it: under a breach, one of the values R93 permits. -/
def lane (s : State) (g : Group) (r L : Nat) : Word :=
  match openWrites g r with
  | [] => laneNow g r L
  | w :: ws => (((w :: ws).getD (Config.breachPick s.free r L % (ws.length + 1)) w).vals).getD L 0
/-- Lane 0 of a register: what a uniform word reads (R122). -/
def uni (s : State) (g : Group) (r : Nat) : Word := lane s g r 0
/-- A register pair read by a uniform word (R6). -/
def uniPair (s : State) (g : Group) (r : Nat) : Nat := (uni s g r).toNat + (uni s g (r + 1)).toNat * 2 ^ 32
/-- A pair in one lane (R6). -/
def lanePair (s : State) (g : Group) (r L : Nat) : Nat := (lane s g r L).toNat + (lane s g (r + 1) L).toNat * 2 ^ 32
/-- A mask register, newest write; k0 is all ones (R46). -/
def kNow (g : Group) (n : Nat) : Mask := if n = 0 then full g else mgetD g.k n 0 &&& full g
/-- The outstanding writes of a mask register; k0 has none (R46, R94). -/
def openMasks (g : Group) (n : Nat) : List (Mask × Mask) := if n = 0 then [] else mgetD g.histK n []
/-- A mask register as a word reads it, lane by lane under a breach (R93). -/
def kRead (s : State) (g : Group) (n : Nat) : Mask :=
  match openMasks g n with
  | [] => kNow g n
  | w :: ws => maskOf g.gwid fun L =>
      (((w :: ws).getD (Config.breachPick s.free (128 + n) L % (ws.length + 1)) w).2).getLsbD L
/-- A window as a lane reads it (R93, R213). -/
def winRead (s : State) (g : Group) (a L : Nat) : Option Window :=
  match mgetD g.histW a [] with
  | [] => mget g.win a
  | w :: ws => (w :: ws).getD (Config.breachPick s.free (136 + a) L % (ws.length + 1)) w
/-- The flags as a word reads them: each flag one of its permitted values under a breach (R93). -/
def flagsRead (s : State) (g : Group) : Flags :=
  match g.histF with
  | [] => g.flags
  | w :: ws =>
    let pick (i : Nat) : Flags := (w :: ws).getD (Config.breachPick s.free (144 + i) 0 % (ws.length + 1)) w
    { z := (pick 0).z, n := (pick 1).n, c := (pick 2).c, v := (pick 3).v }
/-- The execution mask (R166): the active mask and the predicate, or the lanes to replay (R218). -/
def xmask (s : State) (g : Group) (kp : Nat) : Mask :=
  match g.replay with
  | some m => m
  | none => g.active &&& kRead s g kp
/-- The lanes of the execution mask, ascending (R166). -/
def xlanes (s : State) (g : Group) (kp : Nat) : List Nat := lanesOf g.gwid (xmask s g kp)

/-! ### Register writes (R92-R94) -/

/-- A register written in the lanes of a mask; x0 discards (R94). -/
def writeX (s : State) (g : Group) (r : Nat) (m : Mask) (f : Nat → Word) : Group :=
  if r = 0 then g
  else
    let old := xNow g r
    let new := (List.range g.gwid).map fun L => if m.getLsbD L then f L else old.getD L 0
    let hist :=
      match mgetD g.histX r [] with
      | [] => [{ mask := m, vals := new }, { mask := 0, vals := old }]
      | w :: ws => { mask := m, vals := new } :: w :: ws
    { g with x := mset g.x r new, histX := if loose s g then mset g.histX r hist else g.histX }
/-- A register written with one value in every lane: a uniform result (R122). -/
def writeU (s : State) (g : Group) (r : Nat) (v : Word) : Group := writeX s g r (full g) fun _ => v
/-- A pair written in every lane with a 64-bit value (R122, R94). -/
def writeUPair (s : State) (g : Group) (r : Nat) (v : Nat) : Group :=
  writeU s (writeU s g r (BitVec.ofNat 32 v)) (r + 1) (BitVec.ofNat 32 (v / 2 ^ 32))
/-- A mask register written; k0 discards, bits at or above the width are cut (R94, R145). -/
def writeK (s : State) (g : Group) (n : Nat) (v : Mask) : Group :=
  if n = 0 then g
  else
    let new := v &&& full g
    let hist :=
      match mgetD g.histK n [] with
      | [] => [(full g, new), (0, kNow g n)]
      | w :: ws => (full g, new) :: w :: ws
    { g with k := mset g.k n new, histK := if loose s g then mset g.histK n hist else g.histK }
/-- A window written (R213). -/
def writeWin (s : State) (g : Group) (a : Nat) (w : Window) : Group :=
  let hist :=
    match mgetD g.histW a [] with
    | [] => [some w, mget g.win a]
    | x :: xs => some w :: x :: xs
  { g with win := mset g.win a w, histW := if loose s g then mset g.histW a hist else g.histW }
/-- The flags written (R130). -/
def writeFlags (s : State) (g : Group) (f : Flags) : Group :=
  { g with flags := f, histF := if loose s g then (match g.histF with | [] => [f, g.flags] | w :: ws => f :: w :: ws) else g.histF }
/-- Whether a register result of the group is outstanding (R92): written but not settled, or owed by an escrow word (R350). -/
def outstanding (g : Group) : Bool :=
  !(g.histX.isEmpty && g.histK.isEmpty && g.histW.isEmpty && g.histF.isEmpty && g.words.isEmpty)
/-- A group in D-form code, which checks every dependence, names a register whose result an escrow word still owes (R101, R350). -/
def awaits (s : State) (g : Group) (named : List Nat) : Bool := !loose s g && g.words.any fun w => w.2.xd != 0 && named.contains w.2.xd
/-- What one lane keeps of the writes of a register with no marker between them: either (R94). -/
def settleLane (n r L : Nat) (ws : List RegWrite) (now : Word) : Word :=
  match ws.filter fun w => w.mask.getLsbD L with
  | a :: b :: l => ((a :: b :: l).getD (Config.settlePick n r L % (l.length + 2)) a).vals.getD L 0
  | _ => now
/-- The token under which the writes of an `lqpop` wait for its result to settle (R360): no command has it. -/
def escToken : Word := 0xC0000000
/-- Which of the outstanding writes of a register, newest first with the value before them last, the register keeps: one of the writes (R94). -/
def settleOf {α : Type} (n code L : Nat) (ws : List α) (now : α) : α :=
  match ws.dropLast with
  | a :: b :: l => (a :: b :: l).getD (Config.settlePick n code L % (l.length + 2)) a
  | _ => now
/-- Every outstanding register result written: the settled values of R93 and R94 (R95). -/
def settle (s : State) (g : Group) : Group :=
  let x := g.histX.foldl (fun x e =>
    mset x e.1 ((List.range g.gwid).map fun L => settleLane s.free e.1 L e.2 (laneNow g e.1 L))) g.x
  let k := g.histK.foldl (fun k e =>
    mset k e.1 (maskOf g.gwid fun L => (settleOf s.free (128 + e.1) L (e.2.map (·.2)) (kNow g e.1)).getLsbD L)) g.k
  let pickF (i : Nat) : Flags := settleOf s.free (144 + i) 0 g.histF g.flags
  let win := g.histW.foldl (fun m e =>
    match settleOf s.free (136 + e.1) 0 e.2 (mget g.win e.1) with
    | some w => mset m e.1 w
    | none => m) g.win
  { g with
    x := x, k := k, win := win, histX := [], histK := [], histW := [], histF := []
    seen := union g.seen ((g.compl.filter fun e => e.1 == escToken).flatMap (·.2)), compl := g.compl.filter fun e => e.1 != escToken
    flags := { z := (pickF 0).z, n := (pickF 1).n, c := (pickF 2).c, v := (pickF 3).v } }

/-! ### Retiring and parking -/

/-- A word retires: it counts in `icnt`, control goes to `pc`, and a marked word parks the group while a register result
is outstanding (R48, R92). -/
def retireAt (g : Group) (sm : Bool) (pc : Nat) : Group :=
  { g with
    pc := pc, icnt := g.icnt + 1, replay := none
    park := if sm && outstanding g then some .marker else none }
/-- A word of `len` bytes retires and control goes to the next word. -/
def retireG (g : Group) (sm : Bool) (len : Nat) : Group := retireAt g sm (g.pc + len)
/-- The state after a word of the group retires. -/
def fin (s : State) (u : Nat) (sm : Bool) (len : Nat) (g : Group) : State := setGroup s u (retireG g sm len)
/-- The group parks without retiring (R48). -/
def parkOn (s : State) (u : Nat) (g : Group) (p : Park) : State := setGroup s u { g with park := some p }
/-- A word executes for the group that acts; without one the model stops. -/
def acting (s : State) (f : Nat → Group → State) : Host.Outcome State Fault Refusal :=
  match s.cur with
  | some u =>
    match mget s.groups u with
    | some g => .next (f u g)
    | none => .fault .noGroup
  | none => .fault .noGroup
/-- A register the group holds (R61). -/
def held (g : Group) (r : Nat) : Bool := decide (r < 32 + 32 * g.ext)

/-! ### Killing a context (R312) -/

/-- A graph whose runs, the queued ones too, a kill ends (R369): each gets its completion record. -/
def killGraph (c cause : Nat) (gr : Graph) : Graph :=
  if gr.ctx = c && (gr.run.isSome || !gr.trigs.isEmpty) then { gr with killed := some cause } else gr
/-- A kill: every group stops, every command is abandoned, latches and page requests are discarded, STATE reads 3 (R312). -/
def kill (s : State) (c cause : Nat) : State :=
  let deadB := (s.blocks.filter fun e => e.2.ctx = c).map (·.1)
  let deadG := (s.groups.filter fun e => e.2.ctx = c).map (·.1)
  let s := modCtx s c fun x => { x with cst := 3, cause := cause, forward := [], draining := false, lost := false, latches := [], resuming := false }
  { s with
    groups := s.groups.filter fun e => e.2.ctx ≠ c
    blocks := s.blocks.filter fun e => e.2.ctx ≠ c
    grids := s.grids.filter fun e => e.2.ctx ≠ c
    cmds := s.cmds.filter fun e => e.2.ctx ≠ c
    graphs := s.graphs.map fun e => (e.1, killGraph c cause e.2)
    cores := s.cores.map fun e => (e.1, { e.2 with
      cycle := e.2.cycle.filter fun u => !deadG.contains u
      grantQ := e.2.grantQ.filter fun u => !deadG.contains u
      phaseQ := e.2.phaseQ.filter fun u => !deadB.contains u })
    clusters := s.clusters.map fun e => (e.1, { e.2 with
      recs := e.2.recs.filter fun r => !deadB.contains r.2.block
      queues := e.2.queues.map fun q => (q.1, q.2.filter fun i => (mget s.cmds i).any fun d => d.ctx ≠ c)
      latches := e.2.latches.filter fun l => l.ctx ≠ c })
    cur := none }

/-! ### Taking a trap (R302-R307) -/


/-- The trap frame of a group: the physical address of its 2,048 bytes in the firmware reserve of the memory die to which
its core's die is assigned (R18, R304; the place within the reserve: log entry 9). -/
def frameAddr (s : State) (g : Group) : Nat :=
  match mget s.blocks g.block with
  | some b =>
    let d := dieOf b.core
    reserveBase (memIndex (assigned d)) + (if dieRow d = 15 then 0x4000000 else 0)
      + (siteOf b.core * 32 + g.slot) * 2048
  | none => 0
/-- Lanes 0 to gwid − 1 of x1 to x7 written to a trap frame: 256 bytes a register, lane by lane (R304). -/
def writeFrame (m : List Host.Cell) (fa : Nat) (g : Group) : List Host.Cell :=
  (List.range 7).foldl (fun m i =>
    Memory.writeN m (fa + i * 256) ((List.range g.gwid).flatMap fun L => leBytes 4 (laneNow g (i + 1) L).toNat)) m
/-- The `scause` value (R305). -/
def scauseOf (t : TrapInfo) : Word :=
  BitVec.ofNat 32 (t.cause + (if t.cause = 0x0F then t.n * 2 ^ 8 else 0) + (if t.engine then 2 ^ 16 else 0))
/-- The park that outlives a trap: an arrival at a barrier, or a coin wait (R124, R314, R343). -/
def keptPark (g : Group) : Option Park :=
  match g.park with
  | some (.bar i l sm) => some (.bar i l sm)
  | some (.barph i x sm) => some (.barph i x sm)
  | some .coinWait => some .coinWait
  | _ => none
/-- The group just after trap entry (R304): results settled, the uniform state on the handler stack, the supervisor
registers filled, the handler's inputs loaded. A handler whose faulting page has been moved by then replays at once (R303). -/
def trapGroup (s : State) (g0 : Group) (t : TrapInfo) : Group :=
  let g := settle s g0
  let fa := frameAddr s g
  let laneVal (f : LaneFault → Nat) (L : Nat) : Word :=
    match t.faults.find? fun q => q.lane = L with
    | some q => BitVec.ofNat 32 (f q)
    | none => 0
  let row (f : Nat → Word) : List Word := (List.range g.gwid).map f
  { g with
    hstack := some { k := g.k, active := g.active, flags := g.flags, level := g.level, mode := g.mode, park := keptPark g, frame := [] }
    trapAt := g.pc
    x := mset (mset (mset (mset (mset (mset (mset g.x 1 (row fun _ => scauseOf t)) 2 (row fun _ => BitVec.ofNat 32 fa))
      3 (row fun _ => BitVec.ofNat 32 (fa / 2 ^ 32))) 4 (row (laneVal (·.va)))) 5 (row (laneVal (·.va / 2 ^ 32))))
      6 (row (laneVal (·.kind % 4)))) 7 (row fun _ => 0)
    scause := scauseOf t, sepc := BitVec.ofNat 32 t.sepc, sfmask := t.fmask, stok := t.token
    sretc := BitVec.ofNat 32 t.kind, faults := t.faults, trapCmd := t.cmd
    active := t.fmask, sup := true, pc := Config.handlerEntry, park := if t.moved && s.fw.isEmpty then some .evacuation else none, replay := none }
/-- A die's bit in the touched-dies mask of a context (R319). -/
def touchDie (s : State) (c d : Nat) : State :=
  if (ctxOf s c).touched.contains d then s else modCtx s c fun x => { x with touched := d :: x.touched }
/-- The die on which a group's trap frame lies is touched (R304, R319). -/
def touchFrame (s : State) (g : Group) : State :=
  match mget s.blocks g.block with
  | some b => touchDie s g.ctx (assigned (dieOf b.core))
  | none => s
/-- Trap entry (R304). A cause raised in supervisor mode kills the context instead (R306). The entry waits for the results that escrow words still
owe (R95). -/
def trapEntry (s : State) (u : Nat) (g : Group) (t : TrapInfo) : State :=
  if g.sup then kill s g.ctx t.cause
  else if !g.words.isEmpty then setGroup s u { g with trapping := some t }
  else setGroup { touchFrame s g with mem := writeFrame s.mem (frameAddr s g) (settle s g) } u (trapGroup s g t)
/-- A word raises a cause at its own address: nothing of it issues (R110, R124). FMASK is lane 0, the return kind deliver. -/
def raise (s : State) (u : Nat) (g : Group) (cause : Nat) : State :=
  trapEntry s u g { cause := cause, n := 0, engine := false, token := 0, faults := [], fmask := 1, sepc := g.pc, kind := 2, cmd := none }
/-- A uniform access faults at an address: FMASK is lane 0, and the handler has the word executed again, whole (R218, R304); `sretc` starts
at 2, since this is no lane access fault (R305; log entry 14). -/
def raiseAccess (s : State) (u : Nat) (g : Group) (cause va kind : Nat) : State :=
  trapEntry s u g { cause := cause, n := 0, engine := false, token := 0, faults := [⟨0, va, kind, cause⟩], fmask := 1, sepc := g.pc, kind := 2, cmd := none }
/-- Lanes of a lane access fault: the lowest cause among them, FMASK the lanes to replay (R218). -/
def raiseLanes (s : State) (u : Nat) (g : Group) (fs : List LaneFault) (m : Mask) : State :=
  trapEntry s u g { cause := fs.foldl (fun m f => min m f.cause) 0xFF, n := 0, engine := false, token := 0, faults := fs, fmask := m, sepc := g.pc, kind := 1, cmd := none }

/-- A word that names registers: an unheld one raises cause 0x03 and nothing issues (R61, R110); in D-form code it waits for the results that it
names (R101). -/
def word (s : State) (named : List Nat) (f : Nat → Group → State) : Host.Outcome State Fault Refusal :=
  acting s fun u g => if named.all (held g) then (if awaits s g named then parkOn s u g .result else f u g) else raise s u g 0x03

/-- Delivery of an unrecoverable cause (R307): to the group's own handler, or the context is killed. A halted group that gets an engine's
cause so runs again, and the barriers wait for it (log entry 51). -/
def deliver (s : State) (u : Nat) (g : Group) : State :=
  let cause := g.scause.toNat % 256
  if g.uhnd = 0xFFFFFFFF || g.inUser then kill s g.ctx cause
  else
    let va := match g.faults with | f :: _ => f.va | [] => 0
    let row (v : Nat) : List Word := List.replicate g.gwid (BitVec.ofNat 32 v)
    setGroup s u { g with
      table := [], active := full g, sup := false, inUser := true, pc := g.uhnd.toNat, park := none, replay := none
      halted := false, faults := [], trapCmd := none, hstack := none
      x := mset (mset (mset (mset g.x 4 (row cause)) 5 (row g.trapAt)) 6 (row va)) 7 (row (va / 2 ^ 32)) }
/-- A word of a group's trap frame: in its core's reserve, or with the group while its block is off its core (R304, R315). -/
def frameWord (s : State) (g : Group) (off : Nat) : Word :=
  let away : List Byte := match g.hstack with | some h => h.frame | none => []
  BitVec.ofNat 32 (leNat (if away.isEmpty then Memory.readN s.mem (frameAddr s g + off) 4 else (away.drop off).take 4))
/-- The group with what `sret` restores: the kept registers from the frame, the uniform state from the handler stack (R306). -/
def restoreGroup (s : State) (g : Group) : Group :=
  let x := (List.range 7).foldl (fun x i =>
    if g.sretc.getLsbD (i + 3) then x
    else mset x (i + 1) ((List.range g.gwid).map fun L => frameWord s g (i * 256 + L * 4))) g.x
  match g.hstack with
  | some h => { g with x := x, k := h.k, active := h.active, flags := h.flags, level := h.level, mode := h.mode, hstack := none, sup := false, histX := [], histK := [], histW := [], histF := [] }
  | none => { g with x := x, sup := false, histX := [], histK := [], histW := [], histF := [] }
/-- The return from the supervisor handler by the return kind in `sretc` (R306). -/
def trapReturn (s : State) (u : Nat) (g : Group) : State :=
  let h := restoreGroup s (settle s g)
  let kind := g.sretc.toNat % 4
  if kind = 2 then deliver (touchFrame s g) u h
  else
    setGroup (touchFrame s g) u { h with
      pc := g.sepc.toNat, faults := [], trapCmd := none
      park := if h.halted then some .halted else (g.hstack.map (·.park)).join
      replay := if kind = 1 then some (g.sfmask &&& full g) else none }

end Sys2Proof.Machine
end

