-- ==== Sys2Proof/Machine/Flags.lean ====
section
/-!
DEFINITION. The flags and every condition (R107, R130, R131, R174, R175).
-/
namespace Sys2Proof.Machine

/-- Z, N, C and V after d = a − b on n bits (R130). -/
def cmpFlags {n : Nat} (a b : BitVec n) : Flags :=
  let d := a - b
  { z := d == 0, n := d.msb, c := decide (b.toNat ≤ a.toNat), v := (a.msb != b.msb) && (d.msb != a.msb) }
/-- Z, N, C and V after an FP32 compare (R131). -/
def fcmpFlags (a b : Word) : Flags :=
  match (fp32.decode a.toNat).cmp (fp32.decode b.toNat) with
  | some .lt => { n := true, z := false, c := false, v := false }
  | some .eq => { n := false, z := true, c := true, v := false }
  | some .gt => { n := false, z := false, c := true, v := false }
  | none => { n := false, z := false, c := true, v := true }
/-- The conditions over flags (R107). -/
def flagCond (f : Flags) : Cond → Bool
  | .al => true
  | .eq => f.z
  | .ne => !f.z
  | .lt => f.n != f.v
  | .ge => f.n == f.v
  | .le => f.z || f.n != f.v
  | .gt => !f.z && f.n == f.v
  | .ltu => !f.c
  | .geu => f.c
  | .leu => !f.c || f.z
  | .gtu => f.c && !f.z
  | .uo => f.c && f.v
  | .kz _ => false
  | .ka _ => false
/-- Whether a condition holds for a group (R107): mask conditions test the mask as it stands (R145). -/
def condHolds (s : State) (g : Group) : Cond → Bool
  | .kz n => kRead s g n &&& full g == 0
  | .ka n => kRead s g n &&& full g == full g
  | c => flagCond (flagsRead s g) c
/-- `vcmp` (R106, R174). -/
def ccHolds (c : Cc) (a b : Word) : Bool :=
  match c with
  | .eq => a == b
  | .ne => a != b
  | .lt => a.slt b
  | .ge => !a.slt b
  | .le => !b.slt a
  | .gt => b.slt a
  | .ltu => a.ult b
  | .geu => !a.ult b
  | .leu => !b.ult a
  | .gtu => b.ult a
/-- `vfcmp` (R106, R175): −0 equals +0; on a NaN only ne and unordered hold. -/
def fccHolds (c : Fcc) (a b : Word) : Bool :=
  match c, (fp32.decode a.toNat).cmp (fp32.decode b.toNat) with
  | .eq, some o => o == .eq
  | .ne, some o => o != .eq
  | .lt, some o => o == .lt
  | .ge, some o => o != .lt
  | .le, some o => o != .gt
  | .gt, some o => o == .gt
  | .uo, some _ => false
  | .ord, some _ => true
  | .ne, none => true
  | .uo, none => true
  | .eq, none | .lt, none | .ge, none | .le, none | .gt, none | .ord, none => false

end Sys2Proof.Machine
end

