-- ==== Sys2Proof/Machine/Operands.lean ====
section
/-!
DEFINITION. The operand forms (R103-R106, R122, R166): each form reads its operands, applies a function and retires. `len` is the length of
the word in bytes (2 for a short parcel), `sm` its switch marker.
-/
namespace Sys2Proof.Machine

/-- An outcome of a word. -/
abbrev Out := Host.Outcome State Fault Refusal
/-- A write of the host to a register: discarded before READY, and while the panel is frozen (R38, R330). -/
def hostReg (s : State) (f : State → State) : Out := .next (if s.ready && !s.frozen then f s else s)

/-- LA: xd[L] := f d a b in each lane of X (R169). -/
def laneOp (len : Nat) (sm : Bool) (f : Word → Word → Word → Word) (xd xa xb kp : Nat) (s : State) : Out :=
  word s [xd, xa, xb] fun u g =>
    fin s u sm len (writeX s g xd (xmask s g kp) fun L => f (lane s g xd L) (lane s g xa L) (lane s g xb L))
/-- LB and LC: xd[L] := f a in each lane of X (R170, R173). -/
def laneOp1 (len : Nat) (sm : Bool) (f : Word → Word) (xd xa kp : Nat) (s : State) : Out :=
  word s [xd, xa] fun u g => fin s u sm len (writeX s g xd (xmask s g kp) fun L => f (lane s g xa L))
/-- LI: a constant in each lane of X (R170). -/
def laneConst (sm : Bool) (f : Nat → Word) (xd kp : Nat) (s : State) : Out :=
  word s [xd] fun u g => fin s u sm 4 (writeX s g xd (xmask s g kp) f)
/-- LK: kd[L] := f a b for L in X, 0 elsewhere (R166, R174). -/
def laneCmp (len : Nat) (sm : Bool) (f : Word → Word → Bool) (kd xa xb kp : Nat) (s : State) : Out :=
  word s [xa, xb] fun u g =>
    fin s u sm len (writeK s g kd (maskOf g.gwid fun L => (xmask s g kp).getLsbD L && f (lane s g xa L) (lane s g xb L)))

/-- The resolved rounding mode of md (R76): DYN reads VRM; a stored VRM is never above 4 (R77). -/
def modeOf (g : Group) (md : Md) : RMode :=
  let of (n : Nat) : RMode := match n with | 1 => .rz | 2 => .ru | 3 => .rd | 4 => .sr | _ => .rne
  match md with
  | .rne => .rne
  | .rz => .rz
  | .ru => .ru
  | .rd => .rd
  | .sr => .sr
  | .dyn => of (g.mode.toNat % 8)
/-- The stochastic field of element e of n in a lane (R80). -/
def srField (s : State) (g : Group) (L n e : Nat) : Nat :=
  srDraw (ctxOf s g.ctx).seed g.srx L / 2 ^ (32 / n * e) % 2 ^ (32 / n)
/-- `srx` after a lane word that rounds under a mode (R81). -/
def bumpSrx (md : RMode) (g : Group) : Group := if md = .sr then { g with srx := g.srx + 1 } else g
/-- A lane word that rounds one element a lane under md: `f mode field d a b` (R168, R176). -/
def laneRound (len : Nat) (sm : Bool) (md : Md) (f : RMode → Nat → Word → Word → Word → Word)
    (xd xa xb kp : Nat) (s : State) : Out :=
  word s [xd, xa, xb] fun u g =>
    let m := modeOf g md
    fin s u sm len (bumpSrx m (writeX s g xd (xmask s g kp) fun L =>
      f m (srField s g L 1 0) (lane s g xd L) (lane s g xa L) (lane s g xb L)))
/-- A one-source lane word that rounds under md: `f mode field a` (R168, R178, R179, R183). -/
def laneRound1 (sm : Bool) (md : Md) (f : RMode → Nat → Word → Word) (xd xa kp : Nat) (s : State) : Out :=
  word s [xd, xa] fun u g =>
    let m := modeOf g md
    fin s u sm 4 (bumpSrx m (writeX s g xd (xmask s g kp) fun L => f m (srField s g L 1 0) (lane s g xa L)))
/-- LP: two packed elements a lane, each rounded on its own under VRM (R182). -/
def lanePacked (sm : Bool) (ty : Pty) (f : Fmt → RMode → Nat → Nat → Nat → Nat → Nat) (xd xa xb : Nat) (s : State) : Out :=
  word s [xd, xa, xb] fun u g =>
    let m := modeOf g .dyn
    let ft := match ty with | .f16x2 => fp16 | .bf16x2 => bf16
    let el (L e : Nat) : Nat :=
      let half (w : Word) : Nat := w.toNat / 2 ^ (16 * e) % 2 ^ 16
      f ft m (srField s g L 2 e) (half (lane s g xd L)) (half (lane s g xa L)) (half (lane s g xb L))
    fin s u sm 4 (bumpSrx m (writeX s g xd (xmask s g 0) fun L => BitVec.ofNat 32 (el L 0 + el L 1 * 2 ^ 16)))

/-- UA without pairs: xd := f d a b in every lane (R122). -/
def uniOp (len : Nat) (sm : Bool) (f : Word → Word → Word → Word) (xd xa xb : Nat) (s : State) : Out :=
  word s [xd, xa, xb] fun u g => fin s u sm len (writeU s g xd (f (uni s g xd) (uni s g xa) (uni s g xb)))
/-- UB and one-source words: xd := f a in every lane (R127). -/
def uniOp1 (len : Nat) (sm : Bool) (f : Word → Word) (xd xa : Nat) (s : State) : Out :=
  word s [xd, xa] fun u g => fin s u sm len (writeU s g xd (f (uni s g xa)))
/-- The 64-bit value of a pair. -/
def pair64 (s : State) (g : Group) (r : Nat) : DWord := BitVec.ofNat 64 (uniPair s g r)
/-- UA with w: the operation on 32 bits, or on the pairs (R122, R125). -/
def uniW (len : Nat) (sm w : Bool) (f : (n : Nat) → BitVec n → BitVec n → BitVec n) (xd xa xb : Nat) (s : State) : Out :=
  if w then
    word s [xd, xd + 1, xa, xa + 1, xb, xb + 1] fun u g =>
      fin s u sm len (writeUPair s g xd (f 64 (pair64 s g xa) (pair64 s g xb)).toNat)
  else uniOp len sm (fun _ a b => f 32 a b) xd xa xb s
/-- One-source words with w (R127, R132). -/
def uniW1 (len : Nat) (sm w : Bool) (f : (n : Nat) → BitVec n → BitVec n) (xd xa : Nat) (s : State) : Out :=
  if w then
    word s [xd, xd + 1, xa, xa + 1] fun u g => fin s u sm len (writeUPair s g xd (f 64 (pair64 s g xa)).toNat)
  else uniOp1 len sm (f 32) xd xa s

end Sys2Proof.Machine
end

