-- ==== Sys2Proof/Machine/Visibility.lean ====
section
/-!
DEFINITION. Who sees which write (R223-R241). Memory holds the newest write of every byte in coherence order; the log holds, newest first,
what each write replaced and who may see it. A read that no rule orders after a write may return what was there before it
(R226): a free value says how far back it goes. An agent is a group and a path: group × 8 + path bit; the host is agent 7.
Log numbers also order the moments at which strong accesses perform (R228; log entry 8).
-/
namespace Sys2Proof.Machine

/-- A path of a group as an agent (R223): 0 LS, 1 CE, 2 MX, 3 CL, 4 ES, 5 IF. -/
def agent (u path : Nat) : Nat := u * 8 + path
/-- The host as an agent. -/
def hostAgent : Nat := 7
/-- Whose successive reads never go back (R226): the group, for what it loads, fetches or pops; an engine command for its own. -/
def reader (a : Nat) : Nat := if a % 8 = 4 || a % 8 = 5 then a / 8 * 8 else a
/-- The first location of a block's allocation: local bytes lie above the 52-bit physical space. -/
def localLoc (blk off : Nat) : Nat := 2 ^ 52 + blk * 2 ^ 20 + off
/-- A location is physical, not local. -/
def isPhys (loc : Nat) : Bool := decide (loc < 2 ^ 52)
/-- The scope of a uniform word at a location: `.dev` in global memory, `.clu` in cluster space (R147, R150). -/
def locScope (loc : Nat) : Scope := if isPhys loc then .dev else .clu

/-! ### Scopes (R224) -/

/-- The moments of a scope: t within its instance, and within the smaller ones that lie in it (R224). -/
def Times.upTo (sc : Scope) (t : Nat) : Times := ⟨t, if 1 ≤ sc.code then t else 0, if 2 ≤ sc.code then t else 0⟩
/-- No moment: a plain load may perform at any time. -/
def Times.never : Times := ⟨0, 0, 0⟩
/-- The later of two, scope by scope. -/
def Times.sup (a b : Times) : Times := ⟨max a.blk b.blk, max a.clu b.clu, max a.dev b.dev⟩
/-- The moment at a scope. -/
def Times.ofScope (t : Times) : Scope → Nat
  | .blk => t.blk
  | .clu => t.clu
  | .dev | .sys => t.dev
/-- The block, the cluster and the context of a group: the instances of the scopes in which it lies (R224). -/
structure Home where
  blk : Nat
  clu : Nat
  ctx : Nat
  deriving DecidableEq, Repr
/-- The cluster of a group's core. -/
def clusterOfGroup (s : State) (g : Group) : Nat :=
  match mget s.blocks g.block with | some b => clusterNum b.core | none => 0
/-- Where a group stands. -/
def Group.home (s : State) (g : Group) : Home := ⟨g.block, clusterOfGroup s g, g.ctx⟩
/-- Where the group of an agent stands, if it is one. -/
def standOf (s : State) (a : Nat) : Option Home := (mget s.groups (a / 8)).map (·.home s)
/-- The writer lies in the instance of a scope that a group lies in: for `.sys` the host does too (R224). -/
def LogEntry.within (e : LogEntry) (h : Home) : Scope → Bool
  | .blk => e.frm.any fun f => f.1 == h.blk
  | .clu => e.frm.any fun f => f.2 == h.clu
  | .dev => e.ctx == h.ctx
  | .sys => e.ctx == h.ctx || e.ctx == 64
/-- The moments from which a write has performed in the instance of a scope: for everyone, or in a block or cluster that holds it. -/
def LogEntry.moments (e : LogEntry) (h : Home) (sc : Scope) : List Nat :=
  e.perf.toList ++ (e.near.filter fun n => (sc.code == 0 && n.1 == 0 && n.2.1 == h.blk) || (sc.code ≤ 1 && n.1 == 1 && n.2.1 == h.clu)).map (·.2.2)
/-- A write has performed for a reader by the moments from which its load may perform (R224, R228): a strong store for everyone, any other for
its context; and within the reader's cluster or block. -/
def LogEntry.doneFor (e : LogEntry) (h : Option Home) (t : Times) : Bool :=
  let by_ (m : Nat) (l : List Nat) : Bool := l.any fun d => decide (d < m)
  (by_ t.dev e.perf.toList && (e.perf == some e.id || h.any fun h => e.ctx == h.ctx))
    || h.any fun h => (e.within h .clu && by_ t.clu (e.moments h .clu)) || (e.within h .blk && by_ t.blk (e.moments h .blk))
/-- A write that performed as it was made (R228): a strong store, or an atomic that is strong at its scope alone. -/
def LogEntry.strong (e : LogEntry) : Bool := e.perf == some e.id || e.near.any fun n => n.2.2 == e.id
/-- A write counts as an LS write of a group (R236). -/
def LogEntry.ofLs (e : LogEntry) (u : Nat) : Bool := e.agent == u * 8 || e.ls.contains u

/-! ### Reads (R225, R226) -/

/-- The entry wrote some byte of [loc, loc + n). -/
def LogEntry.touches (e : LogEntry) (loc n : Nat) : Bool :=
  decide (e.loc < loc + n) && decide (loc < e.loc + e.old.length)
/-- The writer's own path sees its writes in order, but for engine paths whose commands are not ordered (R227, R252, R274). -/
def ownOrder (a : Nat) : Bool := a % 8 != 1 && a % 8 != 3
/-- A rule makes the write visible to an agent, at every byte (R226). -/
def LogEntry.visibleTo (e : LogEntry) (a : Nat) : Bool := e.seenBy.contains a || (e.agent == a && ownOrder a)
/-- A read of one byte by an agent may not go back behind the write: a rule makes it visible, or the reader has read it or a later one. -/
def LogEntry.knownAt (e : LogEntry) (a b : Nat) : Bool :=
  e.visibleTo a || e.seenAt.contains (a, b) ||
    e.readAt.any fun r => reader r.1 == reader a && decide (r.2.1 ≤ b) && decide (b < r.2.1 + r.2.2)
/-- A rule makes a byte of a write visible to an agent (R226). -/
def LogEntry.seenAtByte (e : LogEntry) (a b : Nat) : Bool := e.visibleTo a || e.seenAt.contains (a, b)
/-- The bytes of [loc, loc + n) that the entry wrote. -/
def LogEntry.bytesIn (e : LogEntry) (loc n : Nat) : List Nat := (List.range n).map (loc + ·) |>.filter fun b => e.touches b 1
/-- A read of [loc, loc + n) by an agent that stands at h, at moments t, may go back behind the write: nothing makes it known there, and it has
not performed for the agent by then. -/
def LogEntry.missable (e : LogEntry) (h : Option Home) (a : Nat) (t : Times) (loc n : Nat) : Bool :=
  !e.doneFor h t && (e.bytesIn loc n).any fun b => !e.knownAt a b
/-- The writes of [loc, loc + n), newest first. -/
def touching (s : State) (loc n : Nat) : List LogEntry := s.log.filter fun e => e.touches loc n
/-- The newest writes of [loc, loc + n) that a read may go back behind. -/
def hidden (s : State) (a : Nat) (t : Times) (loc n : Nat) : List LogEntry := (touching s loc n).takeWhile fun e => e.missable (standOf s a) a t loc n
/-- How many of k hidden writes a read goes back over. -/
def goBack (s : State) (salt k : Nat) : Nat := if k = 0 then 0 else Config.racePick s.free salt % (k + 1)
/-- How many of the newest writes of [loc, loc + n) the read goes back over. -/
def skips (s : State) (a : Nat) (t : Times) (loc n : Nat) : Nat := goBack s loc (hidden s a t loc n).length
/-- The byte of a location before an entry's write. -/
def LogEntry.before (e : LogEntry) (loc : Nat) : Byte := e.old.getD (loc - e.loc) 0
/-- The hidden writes all have the unit of the read, and none of them is known in part. -/
def wholeUnit (s : State) (a : Nat) (t : Times) (loc n : Nat) : Bool :=
  (hidden s a t loc n).all fun e => e.loc == loc && e.old.length == n && (e.bytesIn loc n).all fun b => !e.knownAt a b
/-- The parts in which a single-copy unit is read (R225, R226): whole, or byte by byte where units of different sizes overlap. -/
def readParts (s : State) (a : Nat) (t : Times) (loc n : Nat) : List (Nat × Nat) :=
  if wholeUnit s a t loc n then [(loc, n)] else (List.range n).map fun i => (loc + i, 1)
/-- The bytes of one part. -/
def partBytes (s : State) (a : Nat) (t : Times) (p : Nat × Nat) : List Byte :=
  match skips s a t p.1 p.2 with
  | 0 => Memory.readN s.mem p.1 p.2
  | k + 1 => match (touching s p.1 p.2)[k]? with
    | some e => (List.range p.2).map fun i => e.before (p.1 + i)
    | none => Memory.readN s.mem p.1 p.2
/-- A single-copy unit as an agent reads it at some moments (R225, R226, R228). -/
def readUnit (s : State) (a : Nat) (t : Times) (loc n : Nat) : List Byte := (readParts s a t loc n).flatMap (partBytes s a t)
/-- The writes of a part whose effect the read has met: those it does not go back over. -/
def metWrites (s : State) (a : Nat) (t : Times) (p : Nat × Nat) : List LogEntry := (touching s p.1 p.2).drop (skips s a t p.1 p.2)
/-- The newest write of each byte of a run among a list of writes, newest first: those whose values a read of the run returns. -/
def newestOf (l : List LogEntry) (p : Nat × Nat) : List LogEntry :=
  (List.range p.2).filterMap fun i => l.find? fun e => e.touches (p.1 + i) 1
/-- The writes of [loc, loc + n) that a read goes back over: it performs before they do. -/
def unseen (s : State) (a : Nat) (t : Times) (loc n : Nat) : List LogEntry :=
  (readParts s a t loc n).flatMap fun p => (touching s p.1 p.2).take (skips s a t p.1 p.2)
/-- Log entries made visible to an agent by a rule, whole or at single bytes. -/
def markSeen (s : State) (a : Nat) (ids : List Vis) : State :=
  { s with log := s.log.map fun e =>
      if ids.contains (e.id, none) then (if e.seenBy.contains a then e else { e with seenBy := a :: e.seenBy })
      else { e with seenAt := (ids.filterMap fun v => if v.1 == e.id then v.2.map fun b => (a, b) else none) ++ e.seenAt } }
/-- A run of bytes noted as read by an agent, with the entries whose values it returned (R226: reads never go back behind them). -/
def markRead (s : State) (a : Nat) (p : Nat × Nat) (ids : List Nat) : State :=
  if ids.isEmpty then s
  else { s with log := s.log.map fun e =>
      if ids.contains e.id && !e.readAt.contains (a, p.1, p.2) then { e with readAt := (a, p.1, p.2) :: e.readAt } else e }
/-- The state after an agent has read a unit: no later read of its group goes back behind what this one met, in whatever way that was
visible to it (R226). -/
def noteRead (s : State) (a : Nat) (t : Times) (loc n : Nat) : State :=
  if (touching s loc n).isEmpty then s
  else (readParts s a t loc n).foldl (fun z p => markRead z a p ((newestOf (metWrites s a t p) p).map (·.id))) s
/-- The state after a group has read the newest value of [loc, loc + n). -/
def noteNewest (s : State) (u loc n : Nat) : State :=
  markRead s (agent u 0) (loc, n) ((newestOf (touching s loc n) (loc, n)).map (·.id))
/-- The first moment at which an agent can have read a write: a write is read after it is made, and a strong store performs as it is made
(R228). A group's own plain store is forwarded to it at any moment. -/
def LogEntry.readMoment (e : LogEntry) (a : Nat) : Nat := if e.agent = a && !e.strong then 0 else e.id + 1
/-- The first moment at which a later strong load may perform: after the writes that this one met (R228). A strong load passes an earlier
strong store of its own group only at another location, so that it also comes after those that its group has overwritten since. -/
def readTime (s : State) (a : Nat) (t : Times) (loc n : Nat) : Nat :=
  (readParts s a t loc n).foldl (fun m p =>
    (newestOf (metWrites s a t p) p ++ (metWrites s a t p).filter fun e => e.agent == a && e.strong).foldl (fun m e => max m (e.readMoment a)) m) 0
/-- The last moment at which one of a group's loads so far, plain or strong, can have performed (R229): after every write it has read. -/
def loadsTime (s : State) (u : Nat) : Nat :=
  s.log.foldl (fun m e => if e.readAt.any fun r => r.1 == agent u 0 then max m (e.readMoment (agent u 0)) else m) 0
/-- What the writes that a read met published (R230): a strong read may acquire it. -/
def readPubs (s : State) (a : Nat) (t : Times) (loc n : Nat) : List Published :=
  (readParts s a t loc n).flatMap fun p => (metWrites s a t p).flatMap (·.pub)
/-- The bytes of a unit about to change, kept by every deterministic grid as they stood when its open round opened (R337). -/
def keepOld (s : State) (loc n : Nat) : State :=
  if isPhys loc then
    { s with grids := s.grids.map fun e =>
        if (ctxOf s e.2.ctx).det then
          (e.1, { e.2 with roundOld := (List.range n).foldl (fun o i =>
            if o.any fun p => p.1 == loc + i then o else (loc + i, Memory.read s.mem (loc + i)) :: o) e.2.roundOld })
        else e }
  else s
/-- A unit written: memory takes the new bytes, the log what they replaced. `va` is the virtual address of the first byte, where it
has one; `strong` says that it performs for everyone at once (R228); `pub` is what the writer's fences have published (R230). -/
def writeUnit (s : State) (a c loc : Nat) (va : Option Nat) (bs : List Byte) (strong : Bool) (pub : List Published) : State :=
  { keepOld s loc bs.length with
    mem := Memory.writeN s.mem loc bs
    log := { id := s.nextUid, agent := a, ctx := c, frm := (standOf s a).map fun h => (h.blk, h.clu), loc := loc, va := va, old := Memory.readN s.mem loc bs.length, seenBy := [], seenAt := [], readAt := [], perf := if strong then some s.nextUid else none, near := [], ls := [], pub := pub } :: s.log
    nextUid := s.nextUid + 1 }
/-- What of a write a rule makes visible to an agent. -/
def LogEntry.visTo (e : LogEntry) (a : Nat) : List Vis :=
  if e.visibleTo a then [(e.id, none)] else e.seenAt.filterMap fun p => if p.1 == a then some (e.id, some p.2) else none
/-- The writes that a rule makes visible to an agent. -/
def visIds (s : State) (a : Nat) : List Vis := s.log.flatMap fun e => e.visTo a
/-- What the newest writes of a location's bytes published (R230): a read of the newest value may acquire it. -/
def pubsAt (s : State) (loc n : Nat) : List Published := (touching s loc n).flatMap (·.pub)

/-- A release of a group at a scope (R224, R230). -/
def publish (s : State) (g : Group) (sc : Scope) (ids : List Vis) : Published :=
  { scope := sc, blk := g.block, clu := clusterOfGroup s g, ctx := g.ctx, ids := ids, eng := false }
/-- A release and an acquire relate two groups at the narrower of their scopes, when they share its instance (R224). -/
def shares (s : State) (g : Group) (sc : Scope) (p : Published) : Bool :=
  match min sc.code p.scope.code with
  | 0 => p.blk == g.block
  | 1 => p.clu == clusterOfGroup s g
  | _ => p.ctx == g.ctx
/-- The writes of agents in one instance of a scope with a group that had performed there before a moment (R224). -/
def performedBy (s : State) (h : Home) (sc : Scope) (t : Nat) : List Vis :=
  (s.log.filter fun e => e.within h sc && (e.moments h sc).any fun d => decide (d < t)).map fun e => (e.id, none)
/-- Earlier reads of a group ordered before its later ones at a scope (R224, R229): the writes that had performed there by the moment of its last
load are visible to its later loads. -/
def orderReads (s : State) (u : Nat) (sc : Scope) (t : Nat) : State :=
  match standOf s (agent u 0) with
  | some h => markSeen s (agent u 0) (performedBy s h sc t)
  | none => s
/-- The LS writes of a group that have not performed for everyone yet, and pass a test, do. -/
def performWhere (s : State) (u : Nat) (p : LogEntry → Bool) : State :=
  { s with
    log := s.log.map fun e => if e.ofLs u && e.perf.isNone && p e then { e with perf := some s.nextUid } else e
    nextUid := s.nextUid + 1 }
/-- The stores of a group to a run of bytes perform at `.dev` (R155). -/
def performAt (s : State) (u loc n : Nat) : State := performWhere s u fun e => e.touches loc n
/-- Every earlier store of a group performs at `.dev` (R229, R236, R306). -/
def performStores (s : State) (u : Nat) : State := performWhere s u fun _ => true
/-- A write performs at a moment in the instances of a scope smaller than `.dev` in which its group lies (R224). -/
def LogEntry.performNear (e : LogEntry) (h : Home) (sc : Scope) (now : Nat) : LogEntry :=
  let new := [(0, h.blk, now)] ++ if sc.code = 0 then [] else [(1, h.clu, now)]
  { e with near := e.near ++ new.filter fun n => !e.near.any fun m => m.1 == n.1 && m.2.1 == n.2.1 }
/-- Every earlier store of a group has performed at a scope (R229, R236): in its block, in its cluster too, or for everyone. -/
def storesDone (s : State) (u : Nat) (sc : Scope) : State :=
  if 2 ≤ sc.code then performStores s u
  else match standOf s (agent u 0) with
    | some h => { s with log := s.log.map fun e => if e.ofLs u && e.perf.isNone then e.performNear h sc s.nextUid else e, nextUid := s.nextUid + 1 }
    | none => s
/-- The newest write performs at the scope of its word alone (R228). -/
def narrowLast (s : State) (g : Group) (sc : Scope) : State :=
  if 2 ≤ sc.code then s
  else match s.log with
    | e :: l => { s with log := ({ e with perf := none } : LogEntry).performNear (g.home s) sc e.id :: l }
    | [] => s
/-- The last moment at which one of a group's loads so far can have performed, plain or strong at a scope (R229). -/
def lastLoad (s : State) (u : Nat) (g : Group) (sc : Scope) : Nat := max (g.ldTime.ofScope sc) (loadsTime s u)
/-- An acquire at a scope by a group: its earlier reads, plain ones too, come before its later ones (R229), and what was published to it becomes
visible to its LS path (R230); the writes of an engine's arrival are not among these (R237). Agents outside the scope's instance get no guarantee
from it (R224). -/
def acquire (s : State) (u : Nat) (g : Group) (sc : Scope) (ps : List Published) : State :=
  markSeen (orderReads s u sc (lastLoad s u g sc)) (agent u 0) ((ps.filter fun p => !p.eng && shares s g sc p).flatMap (·.ids))
/-- A group that sees engines' arrivals sees those commands complete (R236, R257). -/
def seeEngines (s : State) (g : Group) (sc : Scope) (ps : List Published) : Group :=
  { g with seen := union g.seen ((ps.filter fun p => p.eng && shares s g sc p).flatMap (·.ids)) }
/-- What an implicit release of a group covers: the writes its LS path sees and those of the commands it has seen complete (R238). -/
def relIds (s : State) (u : Nat) (g : Group) : List Vis := union (visIds s (agent u 0)) g.seen
/-- What a release covers that waits for all work of the group: also the writes of completed commands it has not seen complete (R238). -/
def doneIds (s : State) (u : Nat) (g : Group) : List Vis := union (relIds s u g) (g.compl.flatMap (·.2))
/-- The release half of a fence (R229, R230): later strong writes of the group publish what it sees now. -/
def fenceRelease (s : State) (u : Nat) (g : Group) (sc : Scope) : Group :=
  { g with pub := publish s g sc (visIds s (agent u 0)) :: g.pub.filter fun p => p.scope != sc }
/-- A strong load by a group (R228, R230): it may later acquire what the writes it met published, and keeps its place among the
group's strong loads at the word's scope. `t` are the moments from which the word's loads may perform. -/
def noteGot (s : State) (u : Nat) (t : Times) (g : Group) (loc n : Nat) : Group :=
  { g with
    got := g.got ++ readPubs s (agent u 0) t loc n
    ldTime := g.ldTime.sup (t.sup (.upTo (locScope loc) (readTime s (agent u 0) t loc n))) }
/-- A strong access by a group that no strong access of it passes, in either direction (R228): an atomic, an `acq` or a `rel`, or a read that
a write performing now has caused. It meets the newest value, and every later strong load performs after it, at its scope. -/
def noteStrong (s : State) (g : Group) (sc : Scope) (loc n : Nat) : Group :=
  { g with got := g.got ++ pubsAt s loc n, ldTime := g.ldTime.sup (.upTo sc s.nextUid) }
/-- The moment after the last of a group's stores performed at a scope: a word that orders earlier writes before later reads there has the
group's later loads perform after it (R229, R231). -/
def storeTime (s : State) (u : Nat) (g : Group) (sc : Scope) : Nat :=
  (s.log.filter fun e => e.ofLs u).foldl (fun m e =>
    match e.moments (g.home s) sc with
    | d :: l => max m (l.foldl min d + 1)
    | [] => m) 0

end Sys2Proof.Machine
end

