-- ==== Sys2Proof/Machine/Translate.lean ====
section
/-!
DEFINITION. Physical memory and translation (R17, R18, R210-R216): which physical bytes exist, page-table walks, pages and their rights.
-/
namespace Sys2Proof.Machine

/-- The port-bearing dies in ascending ordinal (R20): die k hosts CXL port k and peer link k. -/
def portDies : List Nat := (List.range 384).filter fun d =>
  let c := dieCol d
  let r := dieRow d
  (r == 0 && c % 2 == 1) || (r == 15 && c % 2 == 0) || (c == 0 && [1, 3, 11, 13].contains r)
    || (c == 23 && [2, 4, 12, 14].contains r)
/-- The bytes of DRAM (R17). -/
def dramEnd : Nat := 0x30000000000
/-- The start of the CXL windows (R17). -/
def cxlBase : Nat := 0x8000000000000
/-- The CXL port whose window holds an address. -/
def cxlPort (pa : Nat) : Option Nat :=
  if cxlBase ≤ pa ∧ pa < cxlBase + 32 * 0x8000000000 then some ((pa - cxlBase) / 0x8000000000) else none
/-- A physical address exists: DRAM, or a byte within the capacity of a port's expander (R17). -/
def physMapped (s : State) (pa : Nat) : Bool :=
  decide (pa < dramEnd) ||
    (match cxlPort pa with
     | some k => decide ((pa - cxlBase) % 0x8000000000 < mgetD s.cxlCap k 0)
     | none => false)
/-- A byte of a firmware reserve (R18). -/
def inReserve (pa : Nat) : Bool := decide (pa < dramEnd) && decide (0x3C0000000 ≤ pa % 0x400000000)
/-- The die that homes a byte: its memory die, or the die of its CXL port (R211). -/
def homeDie (pa : Nat) : Nat :=
  if pa < dramEnd then memDie (pa / 0x400000000)
  else match cxlPort pa with | some k => portDies.getD k 0 | none => 0
/-- The bytes homed on a lost die are poisoned (R321). -/
def poisoned (s : State) (pa : Nat) : Bool := s.lostDies.contains (homeDie pa)

/-- The fields of a page-table entry (R210). -/
structure Pte where
  v : Bool
  sz : Nat
  w : Bool
  x : Bool
  il : Bool
  ilw : Nat
  frame : Nat
  ft : Bool
  zeros : Bool
  deriving DecidableEq, Repr
/-- A page-table entry read from its 8 bytes (R210). -/
def Pte.of (v : Nat) : Pte :=
  { v := bit v 63, sz := fld v 62 61, w := bit v 60, x := bit v 59, il := bit v 57, ilw := fld v 56 53, frame := fld v 51 16,
    ft := bit v 7, zeros := !bit v 58 && !bit v 52 && fld v 15 8 == 0 }
/-- The entry at a physical address: walks read strongly, so they see every performed store (R216). Whether a walk sees a store that has not
performed is open; the model's sees the newest bytes (log entry 51). -/
def readPte (s : State) (a : Nat) : Pte := Pte.of (leNat (Memory.readN s.mem a 8))
/-- A page-table frame lies in DRAM outside every reserve (R18, R210). -/
def tableOk (a : Nat) : Bool := decide (a < dramEnd) && !inReserve a

/-- What a walk finds (R210): a page, an absent entry with its level and its first-touch bit, a malformed walk, poison. -/
inductive WalkRes where
  | page (p : Page)
  | absent (level : Nat) (ft : Bool) (entry : Nat)
  | bad
  | poison
  deriving DecidableEq, Repr

/-- The conditions on an interleaved page (R211) and on a page's frame (R18, R210, R212). -/
def pageOk (p : Page) : Bool :=
  let base := p.frame * 65536
  if p.il then
    let b := base % 0x400000000
    let n := 2 ^ p.ilw
    decide (base < dramEnd) && b % p.size == 0 && decide (base / 0x400000000 + n ≤ 192)
      && decide (b + p.size / n ≤ 0x3C0000000)
  else !inReserve base && !inReserve (base + p.size - 1)
/-- The leaf of a walk: an entry that passes the checks names this page. -/
def leaf (e : Pte) (vbase size frame : Nat) : WalkRes :=
  let p : Page := { vbase := vbase, size := size, il := e.il, ilw := if e.il then e.ilw else 0, frame := frame, w := e.w, x := e.x }
  if pageOk p then .page p else .bad
/-- An entry's fields are well formed at its level as a pointer or a leaf (R210). -/
def pteOk (e : Pte) (pointer : Bool) : Bool :=
  e.zeros && decide (e.ilw ≤ 4) && !(e.il && (pointer || !decide (e.frame * 65536 < dramEnd)))
/-- The entries of a large page: n entries from `base`, consecutive frames `step` apart, the first aligned (R210). -/
def groupOk (s : State) (base n sz step : Nat) : Bool :=
  let f0 := (readPte s base).frame
  f0 % (n * step) == 0 &&
    (List.range n).all fun i => let e := readPte s (base + 8 * i); e.v && e.sz == sz && e.frame == f0 + i * step
/-- The walk of a virtual address below 2^52 from a level-1 table (R210); `ok` says which frames may hold a table. Where the entries of a large
page differ in W, X, IL or ILW, the bits of the entry that the address itself reaches count for the page: R210 does not say whose (log entry 51). -/
def walkFrom (ok : Nat → Bool) (s : State) (root va : Nat) : WalkRes :=
  let a1 := root + fld va 51 40 * 8
  if !ok root then .bad
  else if poisoned s a1 then .poison
  else
    let e1 := readPte s a1
    if !e1.v then .absent 1 e1.ft a1
    else if e1.sz != 0 || !pteOk e1 true || !ok (e1.frame * 65536) then .bad
    else
      let t2 := e1.frame * 65536
      let a2 := t2 + fld va 39 28 * 8
      if poisoned s a2 then .poison
      else
        let e2 := readPte s a2
        if !e2.v then .absent 2 e2.ft a2
        else if e2.sz == 2 then
          let b := t2 + fld va 39 30 * 32
          if pteOk e2 false && groupOk s b 4 2 4096 then leaf e2 (va - va % 2 ^ 30) (2 ^ 30) (readPte s b).frame else .bad
        else if e2.sz != 0 || !pteOk e2 true || !ok (e2.frame * 65536) then .bad
        else
          let t3 := e2.frame * 65536
          let a3 := t3 + fld va 27 16 * 8
          if poisoned s a3 then .poison
          else
            let e3 := readPte s a3
            if !e3.v then .absent 3 e3.ft a3
            else if e3.sz == 1 then
              let b := t3 + fld va 27 21 * 256
              if pteOk e3 false && groupOk s b 32 1 1 then leaf e3 (va - va % 2 ^ 21) (2 ^ 21) (readPte s b).frame else .bad
            else if e3.sz == 0 && pteOk e3 false then leaf e3 (va - va % 2 ^ 16) (2 ^ 16) e3.frame
            else .bad
/-- The walk of a context's tables where nothing but the tables themselves counts: what they map. -/
def mapWalk (s : State) (c va : Nat) : WalkRes := walkFrom tableOk s (ctxOf s c).ptroot va
/-- The physical address of a virtual address in a page (R211). -/
def Page.addr (p : Page) (va : Nat) : Nat :=
  let o := va - p.vbase
  let base := p.frame * 65536
  if p.il then
    let n := 2 ^ p.ilw
    let gr := o / 256
    (base / 0x400000000 + gr % n) * 0x400000000 + base % 0x400000000 + gr / n * 256 + o % 256
  else base + o
/-- The offset in a page of a physical byte that it holds: the inverse of `Page.addr`. -/
def Page.offset (p : Page) (pa : Nat) : Nat :=
  let base := p.frame * 65536
  if p.il then
    let o := pa % 0x400000000 - base % 0x400000000
    (o / 256 * 2 ^ p.ilw + (pa / 0x400000000 - base / 0x400000000)) * 256 + o % 256
  else pa - base
/-- The page covers a virtual address. -/
def Page.covers (p : Page) (va : Nat) : Bool := decide (p.vbase ≤ va) && decide (va < p.vbase + p.size)

/-- The present entries of a table: those whose highest byte is listed in memory, with their index. -/
def tableEntries (s : State) (t : Nat) : List (Nat × Pte) :=
  (s.mem.filter fun c => decide (t ≤ c.1) && decide (c.1 < t + 32768) && c.1 % 8 == 7 && c.2.msb).map fun c =>
    ((c.1 - t) / 8, readPte s (c.1 - 7))
/-- The pages that a context's tables map, with the address of each page's first entry. -/
def mappedPages (s : State) (c : Nat) : List (Nat × Page) :=
  let root := (ctxOf s c).ptroot
  (tableEntries s root).flatMap fun e1 =>
    if e1.2.sz != 0 then [] else
    (tableEntries s (e1.2.frame * 65536)).flatMap fun e2 =>
      let va2 := e1.1 * 2 ^ 40 + e2.1 * 2 ^ 28
      if e2.2.sz = 2 then
        (if e2.1 % 4 = 0 then match mapWalk s c va2 with | .page p => [(e1.2.frame * 65536 + e2.1 * 8, p)] | _ => [] else [])
      else if e2.2.sz != 0 then []
      else (tableEntries s (e2.2.frame * 65536)).flatMap fun e3 =>
        let va3 := va2 + e3.1 * 2 ^ 16
        if e3.2.sz = 1 && e3.1 % 32 != 0 then []
        else match mapWalk s c va3 with | .page p => [(e2.2.frame * 65536 + e3.1 * 8, p)] | _ => []
/-- The page holds a physical byte. -/
def Page.holds (p : Page) (pa : Nat) : Bool :=
  let base := p.frame * 65536
  if p.il then
    let n := 2 ^ p.ilw
    let b := base % 0x400000000
    decide (base / 0x400000000 ≤ pa / 0x400000000) && decide (pa / 0x400000000 < base / 0x400000000 + n)
      && decide (b ≤ pa % 0x400000000) && decide (pa % 0x400000000 < b + p.size / n)
  else decide (base ≤ pa) && decide (pa < base + p.size)
/-- A frame of a resident vault (R325): a byte that the vault's tables map. -/
def vaultFrame (s : State) (pa : Nat) (except : Option Nat) : Bool :=
  s.ctxs.any fun e => e.2.vault && e.2.cst != 0 && some e.1 != except && (mappedPages s e.1).any fun p => p.2.holds pa

/-- The walk of a context's tables: an address at or above 2^52 is a protection fault (R214), and so is a table in a vault of another
context (R325). -/
def walk (s : State) (c va : Nat) : WalkRes :=
  if va < 2 ^ 52 then walkFrom (fun a => tableOk a && !vaultFrame s a (some c)) s (ctxOf s c).ptroot va else .bad
/-- The entries that a walk reads, one a level (R210, R319). -/
def walkReads (s : State) (c va : Nat) : List Nat :=
  let root := (ctxOf s c).ptroot
  let next (a : Nat) : Option Nat :=
    let e := readPte s a
    if e.v && e.sz == 0 && !poisoned s a && tableOk (e.frame * 65536) && !vaultFrame s (e.frame * 65536) (some c) then some (e.frame * 65536) else none
  if 2 ^ 52 ≤ va || !tableOk root || vaultFrame s root (some c) then []
  else
    let a1 := root + fld va 51 40 * 8
    match next a1 with
    | none => [a1]
    | some t2 =>
      let a2 := t2 + fld va 39 28 * 8
      match next a2 with
      | none => [a1, a2]
      | some t3 => [a1, a2, t3 + fld va 27 16 * 8]
/-- The cause of an access to the entry that maps an address where the tables on the way to it can be reached no longer (R210, R219): a pointer
of the walk names no frame that may hold a table, or an entry is poisoned. -/
def tableLost (s : State) (c va : Nat) : Option Nat :=
  match walk s c va, walkReads s c va with
  | .poison, _ => some 0x07
  | .bad, [] | .bad, [_] => some 0x06
  | .bad, [_, a2] => if (readPte s a2).sz == 2 then none else some 0x06
  | _, _ => none
/-- What an access to a page's byte meets (R17, R210, R321, R325): the physical address, or the cause. -/
def pageAccess (s : State) (c : Nat) (p : Page) (va kind : Nat) : Except Nat Nat :=
  let pa := p.addr va
  if (kind == 1 && !p.w) || (kind == 2 && !p.x) then .error 0x06
  else if !physMapped s pa || vaultFrame s pa (some c) then .error 0x06
  else if poisoned s pa then .error 0x07
  else .ok pa
/-- What an access through a walk's result meets. -/
def walkAccess (s : State) (c : Nat) (r : WalkRes) (va kind : Nat) : Except Nat Nat :=
  match r with
  | .page p => pageAccess s c p va kind
  | .absent _ _ _ => .error 0x05
  | .bad => .error 0x06
  | .poison => .error 0x07
/-- The pages that earlier walks of an address found, back to the log's entry where the list ends: memory is taken back write by write, and
the walk made again where a write met one of its entries (of a large page, one of its group; R210, R215). `rs` are the entries of the last
walk, `back` the writes after that back to here, oldest first, which memory still holds. -/
def oldPages (c va : Nat) : List LogEntry → State → List LogEntry → List Nat → List Page
  | [], _, _, _ => []
  | e :: es, s, back, rs =>
    if rs.any fun a => e.touches (a / 256 * 256) 256 then
      let t := { s with mem := (e :: back).foldr (fun w m => Memory.writeN m w.loc w.old) s.mem }
      (match walk t c va with | .page p => [p] | .absent _ _ _ | .bad | .poison => []) ++ oldPages c va es t [] (walkReads t c va)
    else oldPages c va es s (e :: back) rs
/-- The translations that an access is free to use (R215): what the tables hold, and each other page that they held for the address, or
that the context has used for it, since the context's last completed invalidation. An absent or malformed entry is never kept (R216). -/
def translations (s : State) (c va : Nat) : List WalkRes :=
  let w := walk s c va
  let old := oldPages c va (s.log.takeWhile fun e => decide ((ctxOf s c).xinv ≤ e.id)) s [] (walkReads s c va)
  w :: ((dedup (old ++ (ctxOf s c).pages)).filter fun p => p.covers va && w != .page p).map .page
/-- The translation that an access uses (R215, R216): its own choice where no invalidation followed a change. -/
def translate (s : State) (c va : Nat) : WalkRes := (choose (Config.tlbPick s.free va) (translations s c va)).getD .bad
/-- An access in a context's space, of a group, an engine, the scheduler or firmware. -/
def resolve (s : State) (c va kind : Nat) : Except Nat Nat := walkAccess s c (translate s c va) va kind
/-- A translation that an access has used stays free to use until the next invalidation (R215). -/
def usePage (s : State) (c : Nat) (p : Page) : State :=
  if (ctxOf s c).pages.contains p then s else modCtx s c fun x => { x with pages := p :: x.pages }
/-- A present translation enters a core's TLB; a full TLB drops an entry of free choice (R216). -/
def tlbFill (s : State) (core c : Nat) (p : Page) : State :=
  let e : TlbEntry := { ctx := c, gen := (ctxOf s c).xgen, page := p }
  let t := (coreOf s core).tlb
  if t.contains e then s
  else modCore s core fun k => { k with tlb := e :: (if t.length < 64 then t else t.eraseIdx (Config.tlbPick s.free 0 % 64)) }
/-- An access of a context reaches a physical byte (R319). -/
def touchPa (s : State) (c loc : Nat) : State := if isPhys loc then touchDie s c (homeDie loc) else s
/-- The dies whose bytes a walk of a context reads are touched (R319). -/
def touchWalk (s : State) (c va : Nat) : State := (walkReads s c va).foldl (fun t a => touchPa t c a) s
/-- The walk of an access, and the byte it reaches if that is poisoned, in the touched-dies mask (R319, R321); the page it used stays
usable (R215). A byte that goes through is touched by its location (`touchPa`). -/
def touchVa (s : State) (c va : Nat) : State :=
  let s1 := touchWalk s c va
  match translate s c va with
  | .page p => usePage (if poisoned s (p.addr va) then touchPa s1 c (p.addr va) else s1) c p
  | .absent _ _ _ | .bad | .poison => s1
/-- A page is readable for `awin` and `pref` (R213). -/
def readable (s : State) (c va : Nat) : Option Page :=
  match translate s c va with
  | .page p => if vaultFrame s (p.addr va) (some c) then none else some p
  | .absent _ _ _ | .bad | .poison => none

end Sys2Proof.Machine
end

