-- ==== Sys2Proof/Machine/Access.lean ====
section
/-!
DEFINITION. The accesses of groups (R123, R146, R190-R198, R201-R203, R214, R218, R225, R239) and what deterministic mode makes of
them (R336, R337, R342): where an access goes, what it meets, and the loads, stores and atomics themselves.
-/
namespace Sys2Proof.Machine

/-! ### Cores in use -/

/-- The fuses of the panel (R14; log entry 3): `sites` enabled cores on each core die, core number 3 of the low clusters
disabled; harvesting and die loss take more away. -/
def coreEnabled (s : State) (core : Nat) : Bool :=
  isCoreDie (dieOf core) && decide (siteOf core < 960)
    && !(coreNum core == 3 && decide (clusterIdx core < 960 - s.sites))
    && !s.retiredCores.contains (dieOf core, siteOf core) && !s.lostDies.contains (dieOf core)
/-- A cluster's matrix engine is enabled: it passes its test and its cluster has an enabled core (R14). -/
def engineEnabled (s : State) (d cl : Nat) : Bool :=
  decide (cl < 240) && !s.retiredEngines.contains (d, cl) &&
    (List.range 4).any fun c => coreEnabled s (d * 1024 + (cl / 16 * 2 + c / 2) * 32 + cl % 16 * 2 + c % 2)
/-- The core of a group's block. -/
def coreOfGroup (s : State) (g : Group) : Nat := match mget s.blocks g.block with | some b => b.core | none => 0
/-- The logical thread index of a lane (R62). -/
def threadIdx (s : State) (g : Group) (L : Nat) : Nat :=
  match mget s.blocks g.block with | some b => b.bidx * 1024 + g.gidx * 64 + L | none => g.gidx * 64 + L
/-- The group's place in the coin's order within its grid (R340). -/
def coinIdx (s : State) (g : Group) : Nat :=
  match mget s.blocks g.block, mget s.grids g.grid with
  | some b, some gr => b.bidx * gr.ngrp + g.gidx
  | _, _ => 0
/-- The group holds the commit coin (R341). -/
def holdsCoin (s : State) (g : Group) : Bool :=
  match mget s.grids g.grid with | some gr => gr.coinHeld && gr.coinPos == coinIdx s g | none => false

/-! ### Where an access goes -/

/-- A uniform address (R123). -/
inductive Place where
  | virt (va : Nat)
  | clus (core off : Nat)
  | bad
  deriving DecidableEq, Repr
/-- The reading of a 64-bit uniform address (R123). -/
def place (a : Nat) : Place :=
  if a < 2 ^ 52 then .virt a
  else if 0xFFFFFFFFFFE00000 ≤ a ∧ a < 2 ^ 64 then .clus (a / 2 ^ 19 % 4) (a % 2 ^ 19)
  else .bad
/-- Why an access does not go through: a cause of the word, a fault of the access, or absent local lines. -/
inductive AccErr where
  | cause (c : Nat)
  | fault (c va kind : Nat)
  | absent (lines : List Nat)
  deriving DecidableEq, Repr
/-- The block whose allocation a cluster-space address of a block names (R202): its own, or the block of the same grid
with the lowest `bidx` on that core. -/
def clusterBlock (s : State) (blk c : Nat) : Option Nat :=
  match mget s.blocks blk with
  | none => none
  | some b =>
    if coreNum b.core = c then some blk
    else
      let t := clusterCore b.core c
      if !coreEnabled s t then none
      else (s.blocks.filter fun e => e.2.grid == b.grid && e.2.core == t && e.2.st != .suspended && e.2.st != .saved).foldl
        (fun (m : Option (Nat × Nat)) e =>
          match m with
          | some (_, i) => if e.2.bidx < i then some (e.1, e.2.bidx) else m
          | none => some (e.1, e.2.bidx)) none |>.map (·.1)
/-- The size of a block's allocation. -/
def allocSize (s : State) (blk : Nat) : Nat := match mget s.blocks blk with | some b => b.lmem | none => 0
/-- A line of a block's allocation is absent: a `cpyl` has not landed it (R203). -/
def lineAbsent (s : State) (blk off : Nat) : Bool :=
  match mget s.blocks blk with | some b => decide (0 < mgetD b.pend (off / 128) 0) | none => false
/-- The absent lines among the bytes [off, off + n) of an allocation, as locations ÷ 128. -/
def absentLines (s : State) (blk off n : Nat) : List Nat :=
  (if lineAbsent s blk off then [localLoc blk off / 128] else [])
    ++ (if lineAbsent s blk (off + n - 1) && off / 128 != (off + n - 1) / 128 then [localLoc blk (off + n - 1) / 128] else [])
/-- Whether a line given as location ÷ 128 is present. -/
def linePresent (s : State) (line : Nat) : Bool :=
  let l := line * 128 - 2 ^ 52
  !lineAbsent s (l / 2 ^ 20) (l % 2 ^ 20)
/-- A uniform access of n bytes (R123, R146): the location, or what it meets. Causes come before a presence park. -/
def uPlace (s : State) (g : Group) (a n kind : Nat) : Except AccErr Nat :=
  if a % n != 0 then .error (.cause 0x04)
  else match place a with
    | .virt va =>
      match resolve s g.ctx va kind with
      | .ok pa => .ok pa
      | .error c => .error (.fault c va kind)
    | .clus c off =>
      if 0x58000 ≤ off then .error (.cause 0x08)
      else match clusterBlock s g.block c with
        | none => .error (.cause 0x08)
        | some t =>
          if allocSize s t < off + n then .error (.cause 0x08)
          else if detOf s g && t != g.block then .error (.cause 0x14)
          else match absentLines s t off n with
            | [] => .ok (localLoc t off)
            | ls => .error (.absent ls)
    | .bad => .error (.fault 0x06 a kind)
/-- The outcome of a place together with a cause that the word's operands give: the lowest cause comes first, and any before a park (R110). -/
def withCause (pre : Option Nat) (r : Except AccErr Nat) : Except AccErr Nat :=
  match pre with
  | none => r
  | some c =>
    match r with
    | .error (.cause d) => .error (.cause (min c d))
    | .error (.fault d va kind) => .error (if d < c then .fault d va kind else .cause c)
    | .error (.absent _) | .ok _ => .error (.cause c)
/-- The state after an access that does not go through: a trap, or a park on presence (R124, R198, R218). -/
def accFail (s : State) (u : Nat) (g : Group) (e : AccErr) : State :=
  match e with
  | .cause c => raise s u g c
  | .fault c va kind => raiseAccess (touchVa s g.ctx va) u g c va kind
  | .absent ls => parkOn s u g (.presence ls)
/-- A lane access faults (R218): the lanes take the trap with a mask to replay; the walks and poisoned bytes they met are noted (R319, R321). -/
def faultLanes (s : State) (u : Nat) (g : Group) (fs : List LaneFault) (m : Mask) : State :=
  raiseLanes (fs.foldl (fun t f => touchVa t g.ctx f.va) s) u g fs m
/-- The mask of the lanes that faulted. -/
def faultMask (g : Group) (fs : List LaneFault) : Mask := maskOf g.gwid fun L => fs.any fun f => f.lane = L
/-- The TLB and touched-die effects of an access that went through (R216, R319). -/
def noteAccess (s : State) (g : Group) (a loc : Nat) : State :=
  if isPhys loc then
    let s1 := touchPa (touchVa s g.ctx a) g.ctx loc
    match translate s g.ctx a with
    | .page p => tlbFill s1 (coreOfGroup s g) g.ctx p
    | .absent _ _ _ | .bad | .poison => s1
  else s
/-- The virtual address of an access, where it has one: local bytes have none. -/
def vaOf (loc a : Nat) : Option Nat := if isPhys loc then some a else none

/-! ### Writes and who they wake -/

/-- A parked group watches its line: its block is on a core (R124). -/
def watches (s : State) (g : Group) : Bool := match mget s.blocks g.block with | some b => b.st == .running | none => false
/-- A write that performs on a line wakes every group parked by `wadr` there (R154), which keeps the number of the first, and every `bwt` there
that it leaves with another PHASE: 65,536, which no PHASE equals, marks it (R153). Under deterministic scheduling `bwt` reads at its turn (R345).
A word of a block that is out of its core watches nothing: it has been withdrawn (R124). -/
def wakeLine (s : State) (w loc n : Nat) : State :=
  { s with groups := s.groups.map fun e =>
      match e.2.park with
      | some (.wadr a xd sm none) =>
        if loc / 128 ≤ a / 128 ∧ a / 128 ≤ (loc + n - 1) / 128 ∧ watches s e.2 = true then (e.1, { e.2 with park := some (.wadr a xd sm (some w)) }) else e
      | some (.bwt a ph sm) =>
        if !detOf s e.2 && decide (loc / 128 ≤ a / 128 ∧ a / 128 ≤ (loc + n - 1) / 128)
            && leNat (Memory.readN s.mem a 8) / 2 ^ 48 != ph then (e.1, { e.2 with park := some (.bwt a 65536 sm) }) else e
      | _ => e }
/-- A unit written by any agent: the write performs, and wakes those who watch its line (R153, R154). -/
def putUnit (s : State) (a c loc : Nat) (va : Option Nat) (bs : List Byte) (strong : Bool) (pub : List Published) : State :=
  wakeLine (writeUnit s a c loc va bs strong pub) s.nextUid loc bs.length
/-- The slot of a context's request table whose VALID a store of n bytes at a virtual address covers with a nonzero value (R220). -/
def validSlot (s : State) (c va : Nat) (bs : List Byte) : Option Nat :=
  let o := va - (ctxOf s c).rqtab.toNat
  if (ctxOf s c).rqtab.toNat ≤ va && decide (o < 8192) && decide (28 < o % 32 + bs.length) && leNat (bs.drop (28 - o % 32)) != 0 then some (o / 32) else none
/-- A strong store of the supervisor handler that leaves VALID of a request slot nonzero: the host interface forwards the slot (R220). -/
def forwardNote (s : State) (g : Group) (va : Option Nat) (bs : List Byte) (strong : Bool) : State :=
  match (if g.sup && strong then va.bind fun a => validSlot s g.ctx a bs else none) with
  | some slot => modCtx s g.ctx fun x => { x with forward := x.forward ++ [slot] }
  | none => s
/-- A unit of a group written to memory itself: plain or strong; `va` is its virtual address, where it has one. -/
def commit (s : State) (u : Nat) (g : Group) (loc : Nat) (va : Option Nat) (bs : List Byte) (strong : Bool) : State :=
  putUnit (forwardNote s g va bs strong) (agent u 0) g.ctx loc va bs strong (if strong then g.pub else [])

/-! ### Round buffers (R336, R337, R376) -/

/-- A byte put into a round buffer: it replaces the block's earlier one. -/
def bufPut (b : List RoundByte) (r : RoundByte) : List RoundByte := r :: b.filter fun x => x.loc != r.loc
/-- The distinct 256-byte granules of a round buffer (R333). -/
def granules (b : List RoundByte) : Nat := (dedup (b.map fun r => r.loc / 256)).length
/-- The granules buffered in the reserve of a core die's memory die (R18): those of the blocks whose core is on a die assigned to it, and
those of retired blocks whose round is still open. -/
def reserveGranules (s : State) (d : Nat) : Nat :=
  let here (x : Nat) (b : List RoundByte) : Nat := if assigned x = assigned d then granules b else 0
  (s.blocks.map fun e => here (dieOf e.2.core) e.2.rbuf).foldl (· + ·) 0
    + ((s.grids.flatMap fun e => e.2.oldBufs).map fun o => here o.2.1 o.2.2).foldl (· + ·) 0
/-- The block's buffer with bytes added, or no room: RBUFG, or the reserve above the count R18 guarantees (R336, R18). -/
def bufAdd (s : State) (blk : Nat) (rs : List RoundByte) : Except Nat State :=
  match mget s.blocks blk with
  | none => .ok s
  | some b =>
    let nb := rs.foldl bufPut b.rbuf
    let more := decide (granules b.rbuf < granules nb)
    if (ctxOf s b.ctx).rbufg < granules nb then .error 0x14
    else if more && decide (294912 < reserveGranules s (dieOf b.core) + granules nb - granules b.rbuf)
        && !Config.reserveRoom s.free then .error 0x14
    else .ok (modBlock s blk fun x => { x with rbuf := nb })
/-- The direct predecessors of a block of a sweep (R375). -/
def predsOf (gr : Grid) (bidx : Nat) : List Nat :=
  let bx : Int := bidx % gr.gdx
  let by_ : Int := bidx / gr.gdx % gr.gdy
  let bz : Int := bidx / gr.gdx / gr.gdy
  gr.deps.filterMap fun d =>
    let x := bx + d.1
    let y := by_ + d.2.1
    let z := bz + d.2.2
    if 0 ≤ x ∧ 0 ≤ y ∧ 0 ≤ z ∧ x < gr.gdx ∧ y < gr.gdy then some (x.toNat + gr.gdx * (y.toNat + gr.gdy * z.toNat)) else none
/-- The transitive predecessors of a block, found in n rounds (R376). -/
def allPreds (gr : Grid) : Nat → List Nat → List Nat
  | 0, l => l
  | n + 1, l => let m := dedup (l ++ l.flatMap (predsOf gr)); if m.length = l.length then l else allPreds gr n m
/-- A global byte as the blocks of a round see it (R337, R376): the round's start, the retired transitive predecessors'
bytes with the highest writer, then an overlay (the block's own bytes, or those an engine command may see). What the group's own coin accesses
wrote is not among them (log entry 50). -/
def roundByte (s : State) (g : Group) (own : List RoundByte) (loc : Nat) : Byte :=
  match own.find? fun r => r.loc == loc with
  | some r => r.val
  | none =>
    match mget s.grids g.grid with
    | none => Memory.read s.mem loc
    | some gr =>
      let bidx := match mget s.blocks g.block with | some b => b.bidx | none => 0
      let ps := if gr.deps.isEmpty then [] else allPreds gr gr.started.length (predsOf gr bidx)
      let cand := (gr.oldBufs.filter fun p => ps.contains p.1).flatMap fun p => p.2.2.filter fun r => r.loc == loc
      match cand.foldl (fun (m : Option RoundByte) r => match m with | some q => if q.writer < r.writer then some r else m | none => some r) none with
      | some r => r.val
      | none => match gr.roundOld.find? fun p => p.1 == loc with | some p => p.2 | none => Memory.read s.mem loc
/-- The round buffer of a group's block. -/
def ownBuf (s : State) (g : Group) : List RoundByte := match mget s.blocks g.block with | some b => b.rbuf | none => []
/-! ### Loads, stores and atomics of one unit -/

/-- The moments from which a load of a group may perform (R228): a plain one has none. -/
def loadTime (g : Group) (strong : Bool) : Times := if strong then g.ldTime else .never
/-- One unit loaded by a group (R226, R228, R337): in deterministic mode a plain load sees the round's start and its block's buffer, a coin access
memory itself. -/
def loadUnit (s : State) (u : Nat) (g : Group) (strong : Bool) (loc n : Nat) : List Byte :=
  if detOf s g then
    (if isPhys loc && !strong then (List.range n).map fun i => roundByte s g (ownBuf s g) (loc + i) else Memory.readN s.mem loc n)
  else readUnit s (agent u 0) (loadTime g strong) loc n
/-- The state after it: what was read is noted. -/
def noteLoad (s : State) (u : Nat) (g : Group) (strong : Bool) (loc n : Nat) : State :=
  if detOf s g then s else noteRead s (agent u 0) (loadTime g strong) loc n
/-- What the writes that a strong load of a group met have published (R230): in deterministic mode it meets the newest. -/
def strongPubs (s : State) (u : Nat) (g : Group) (loc n : Nat) : List Published :=
  if detOf s g then pubsAt s loc n else readPubs s (agent u 0) g.ldTime loc n
/-- A group after a strong load of one unit (R228, R230). -/
def strongGroup (s : State) (u : Nat) (g : Group) (loc n : Nat) : Group :=
  if detOf s g then noteStrong s g (locScope loc) loc n else noteGot s u g.ldTime g loc n
/-- The earliest write that a strong load of a group goes back over, if it goes back over any (R228). -/
def firstUnseen (s : State) (u : Nat) (g : Group) (loc n : Nat) : Option Nat :=
  if detOf s g then none
  else (unseen s (agent u 0) g.ldTime loc n).foldl (fun (m : Option Nat) e => match m with | some i => some (min i e.id) | none => some e.id) none
/-- A plain load of one unit by a group. -/
def loadPlain (s : State) (u : Nat) (g : Group) (loc n : Nat) : List Byte := loadUnit s u g false loc n
/-- The state after it. -/
def notePlain (s : State) (u : Nat) (g : Group) (loc n : Nat) : State := noteLoad s u g false loc n
/-- A plain store of one unit by lane L of a group (R336 in deterministic mode). -/
def storePlain (s : State) (u : Nat) (g : Group) (L loc : Nat) (va : Option Nat) (bs : List Byte) : Except Nat State :=
  if detOf s g && isPhys loc then
    bufAdd s g.block ((List.range bs.length).map fun i => ⟨loc + i, bs.getD i 0, threadIdx s g L⟩)
  else .ok (commit s u g loc va bs false)
/-- The newest value of a location: what an atomic, a barrier word or a parking load meets (R228). -/
def loadNewest (s : State) (loc n : Nat) : Nat := leNat (Memory.readN s.mem loc n)
/-- A coin access is allowed: outside deterministic mode, on local memory, or with the coin in hand (R342). -/
def coinOk (s : State) (g : Group) (loc : Nat) : Bool := !detOf s g || !isPhys loc || holdsCoin s g
/-- The value an atomic of n bytes leaves (R147, R193): m is the old value, v the operand, e the expected value of `cas`. -/
def atomicVal (n : Nat) (op : Aop) (m v e : Nat) : Nat :=
  let mb : BitVec (8 * n) := BitVec.ofNat _ m
  let vb : BitVec (8 * n) := BitVec.ofNat _ v
  match op with
  | .add => (mb + vb).toNat
  | .min => if mb.slt vb then m else v
  | .max => if mb.slt vb then v else m
  | .minu => min m v
  | .maxu => max m v
  | .and => (mb &&& vb).toNat
  | .or => (mb ||| vb).toNat
  | .xor => (mb ^^^ vb).toNat
  | .swp => v
  | .cas => if m = e then v else m
  | .fadd => fAdd fp32 .rne 0 32 m v
/-- An atomic read-modify-write of n bytes at a location (R147, R193), strong at a scope (R228): old value, state, and the group after it. -/
def atomic (s : State) (u : Nat) (g : Group) (sc : Scope) (loc : Nat) (va : Option Nat) (n : Nat) (f : Nat → Nat) : Nat × State × Group :=
  let m := loadNewest s loc n
  let g' := noteStrong s g sc loc n
  (m, narrowLast (commit (noteNewest s u loc n) u g' loc va (leBytes n (f m)) true) g sc, g')

/-! ### Lane accesses through a window (R190, R214, R218, R239) -/

/-- A window opened on a base (R213). -/
def openWindow (s : State) (c b : Nat) : Window :=
  let p := readable s c b
  { base := b, gen := (ctxOf s c).xgen, page := p, lim := match p with | some p => p.vbase + p.size - b | none => 0 }
/-- A window whose generation is not the context's reopens on the same base before it is used (R214). -/
def freshWindow (s : State) (c : Nat) (w : Window) : Window := if w.gen = (ctxOf s c).xgen then w else openWindow s c w.base
/-- One lane's resolved address. -/
structure LaneAddr where
  lane : Nat
  va : Nat
  loc : Nat
  deriving DecidableEq, Repr
/-- A lane's access at offset o of a window (R214): its location, or its fault. -/
def winAccess (s : State) (g : Group) (w : Window) (L o kind : Nat) : Except LaneFault LaneAddr :=
  let va := w.base + o
  let r : Except Nat Nat :=
    if 2 ^ 52 ≤ va then .error 0x06
    else match w.page with
      | some p => if o < w.lim then pageAccess s g.ctx p va kind else resolve s g.ctx va kind
      | none => resolve s g.ctx va kind
  match r with
  | .ok pa => .ok ⟨L, va, pa⟩
  | .error c => .error ⟨L, va, kind, c⟩
/-- The lanes of X through a window: a cause for the whole word (R190), or the good lanes, the faulted ones, and the group
with its window reopened (R214). -/
def winLanes (s : State) (g : Group) (aw xo kp n kind : Nat) : Except Nat (List LaneAddr × List LaneFault × Group) :=
  let ls := xlanes s g kp
  if ls.any fun L => (winRead s g aw L).isNone then .error 0x06
  else
    let w (L : Nat) : Window := match winRead s g aw L with | some w => freshWindow s g.ctx w | none => openWindow s g.ctx 0
    if ls.any fun L => ((w L).base + (lane s g xo L).toNat) % n != 0 then .error 0x04
    else
      let rs := ls.map fun L => winAccess s g (w L) L (lane s g xo L).toNat kind
      let g' := match mget g.win aw with
        | some x => if ls.isEmpty then g else { g with win := mset g.win aw (freshWindow s g.ctx x) }
        | none => g
      .ok (rs.filterMap fun r => match r with | .ok a => some a | .error _ => none, rs.filterMap fun r => match r with | .ok _ => none | .error f => some f, g')
/-- The walks of the windows that a lane word reopens (R214, R319): a window whose generation is the context's is not walked. -/
def touchWindows (s : State) (g : Group) (aw kp : Nat) : State :=
  (xlanes s g kp).foldl (fun t L => match winRead s g aw L with
    | some w => if w.gen = (ctxOf s g.ctx).xgen then t else touchWalk t g.ctx w.base
    | none => t) s
/-- TLB and touched-die effects of a lane word: its windows' walks, then its good lanes. -/
def noteLanes (s : State) (g : Group) (aw kp : Nat) (as : List LaneAddr) : State :=
  as.foldl (fun s a => noteAccess s g a.va a.loc) (touchWindows s g aw kp)
/-- A unit of a lane access: virtual start, location, length. -/
structure LaneUnit where
  va : Nat
  loc : Nat
  len : Nat
  deriving DecidableEq, Repr
/-- The pieces of a lane access of n bytes a lane that is one contiguous run of at most 128 bytes (R239): one, or two where a
256-byte boundary splits it. -/
def runPieces (as : List LaneAddr) (n : Nat) (whole : Bool) : Option (List LaneUnit) :=
  let lo := as.foldl (fun m a => min m a.va) (2 ^ 64)
  let hi := as.foldl (fun m a => max m (a.va + n)) 0
  let full := (List.range ((hi - lo) / n)).all fun i => as.any fun a => a.va == lo + i * n
  let at_ (va len : Nat) : List LaneUnit := match as.find? fun a => a.va == va with | some a => [⟨va, a.loc, len⟩] | none => []
  if whole && !as.isEmpty && decide (hi - lo ≤ 128) && full then
    let cut := (lo / 256 + 1) * 256
    some (if hi ≤ cut then at_ lo (hi - lo) else at_ lo (cut - lo) ++ at_ cut (hi - cut))
  else none
/-- The single-copy units of a lane access (R225, R239): the pieces of its run, else a unit a lane. -/
def laneUnits (as : List LaneAddr) (n : Nat) (whole : Bool) : List LaneUnit :=
  (runPieces as n whole).getD (as.map fun a => ⟨a.va, a.loc, n⟩)
/-- The unit that holds a lane's datum. -/
def unitOf (us : List LaneUnit) (va : Nat) : Option LaneUnit := us.find? fun q => decide (q.va ≤ va) && decide (va < q.va + q.len)
/-- The datum of n bytes that a lane loads, plain or strong. -/
def laneLoad (s : State) (u : Nat) (g : Group) (us : List LaneUnit) (strong : Bool) (a : LaneAddr) (n : Nat) : Nat :=
  match unitOf us a.va with
  | some q =>
    leNat (((loadUnit s u g strong q.loc q.len).drop (a.va - q.va)).take n)
  | none => 0
/-- The bytes of a unit that a lane store writes: where lanes name one byte, the highest lane wins (R192). -/
def unitBytes (as : List LaneAddr) (q : LaneUnit) (n : Nat) (v : Nat → Nat) : List Byte :=
  (List.range q.len).map fun i =>
    match (as.filter fun a => decide (a.va ≤ q.va + i) && decide (q.va + i < a.va + n)).getLast? with
    | some a => BitVec.ofNat 8 (v a.lane / 256 ^ (q.va + i - a.va))
    | none => 0
/-- The order in which the pieces of a run perform: the two are not ordered against each other (R239). -/
def pieceOrder (s : State) (us : List LaneUnit) : List LaneUnit := if Config.racePick s.free 0 % 2 = 0 then us else us.reverse
/-- The state after a lane store (R191, R192, R239, R336): lane by lane in ascending order, or the pieces of a run. -/
def laneStore (s : State) (u : Nat) (g : Group) (as : List LaneAddr) (n : Nat) (whole strong : Bool) (v : Nat → Nat) : Except Nat State :=
  if detOf s g && !strong then
    bufAdd s g.block (as.flatMap fun a =>
      (List.range n).map fun i => ⟨a.loc + i, BitVec.ofNat 8 (v a.lane / 256 ^ i), threadIdx s g a.lane⟩)
  else
    match runPieces as n whole with
    | none => .ok (as.foldl (fun s a => commit s u g a.loc (some a.va) (leBytes n (v a.lane)) strong) s)
    | some us => .ok ((pieceOrder s us).foldl (fun s q => commit s u g q.loc (some q.va) (unitBytes as q n v) strong) s)

/-! ### Local lane accesses (R194-R196, R198) -/

/-- The lanes of X at byte offsets of the own allocation: a cause for the whole word, absent lines, or the locations. -/
def localLanes (s : State) (g : Group) (ls : List Nat) (off : Nat → Nat) (n : Nat) : Except AccErr (List LaneAddr) :=
  if ls.any fun L => off L % n != 0 then .error (.cause 0x04)
  else if ls.any fun L => decide (allocSize s g.block < off L + n) then .error (.cause 0x08)
  else match dedup (ls.flatMap fun L => absentLines s g.block (off L) n) with
    | [] => .ok (ls.map fun L => ⟨L, off L, localLoc g.block (off L)⟩)
    | q => .error (.absent q)
/-- A loaded datum widened to a register: zero- or sign-extended (R191). -/
def widen (n : Nat) (signed : Bool) (v : Nat) : Word :=
  if signed then (BitVec.ofNat (8 * n) v).signExtend 32 else BitVec.ofNat 32 v
/-- The value of a lane's datum of n bytes in register xt, the pair for 8 bytes (R191). -/
def laneDatum (s : State) (g : Group) (xt n L : Nat) : Nat :=
  if n = 8 then lanePair s g xt L else (lane s g xt L).toNat % 256 ^ n
/-- Loaded data written to xt in the given lanes, to the pair for 8 bytes (R191). -/
def writeLoaded (s : State) (g : Group) (xt n : Nat) (signed : Bool) (m : Mask) (v : Nat → Nat) : Group :=
  if n = 8 then writeX s (writeX s g xt m fun L => BitVec.ofNat 32 (v L)) (xt + 1) m fun L => BitVec.ofNat 32 (v L / 2 ^ 32)
  else writeX s g xt m fun L => widen n signed (v L)
/-- The registers a form of n bytes names from xt. -/
def dataRegs (xt n : Nat) : List Nat := if n = 8 then [xt, xt + 1] else [xt]
/-- Bytes of an access size. -/
def sizeBytes : Size4 → Nat
  | .b => 1 | .h => 2 | .w => 4 | .d => 8

end Sys2Proof.Machine
end

