-- ==== Sys2Proof/Machine/Fetch.lean ====
section
/-!
DEFINITION. Fetching an instruction's bytes and decoding them (R90, R91, R98, R99, R102, R240).
-/
namespace Sys2Proof.Machine

/-- The code a group runs: the firmware in its supervisor handler (R304), else its version's. -/
def codeBytes (s : State) (g : Group) : List Byte :=
  if g.hstack.isSome then s.fw else match versionOf s g with | some v => v.code | none => []
/-- Where the code lies in the context's space, when the loader placed it there. -/
def codeVa (s : State) (g : Group) : Option Nat :=
  if g.hstack.isSome then none else match versionOf s g with | some v => v.va | none => none
/-- The newest writes of an aligned 4-byte unit of code that a fetch may go back behind: nothing of them there is known to the group (R226, R240). -/
def hiddenCode (s : State) (u loc : Nat) : List LogEntry :=
  (touching s loc 4).takeWhile fun e => (e.bytesIn loc 4).all fun b => !e.knownAt (agent u 5) b
/-- The writes of a unit of code that a fetch goes back over: as many as a free value says. -/
def fetchBehind (s : State) (u loc : Nat) : List LogEntry := (hiddenCode s u loc).take (goBack s loc (hiddenCode s u loc).length)
/-- An aligned 4-byte unit of code as a fetch sees it: whole, as it stood before the writes that the fetch goes back over (R240). -/
def codeUnitAt (s : State) (u loc : Nat) : List Byte :=
  (List.range 4).map fun i => match (fetchBehind s u loc).reverse.find? fun e => e.touches (loc + i) 1 with
    | some e => e.before (loc + i)
    | none => Memory.read s.mem (loc + i)
/-- The state after it: no later fetch or load of the group goes back behind what it met (R226). -/
def noteCode (s : State) (u loc : Nat) : State :=
  markRead s (agent u 5) (loc, 4) ((newestOf ((touching s loc 4).drop (fetchBehind s u loc).length) (loc, 4)).map (·.id))
/-- A line of n bytes of code fetched to be pinned, at code offset `off` of code at b (R298): none where a byte of it cannot be fetched. -/
def fetchLine (s : State) (u c b off n : Nat) : Option PinLine :=
  let vas := (List.range (min 32 (cdiv (n - off) 4))).map fun i => b + off + 4 * i
  let pas := vas.filterMap fun va => match resolve s c va 2 with | .ok pa => some pa | .error _ => none
  if pas.length = vas.length then
    some { off := off, at_ := s.nextUid, behind := pas.flatMap fun pa => (fetchBehind s u pa).map (·.id), bytes := pas.flatMap (codeUnitAt s u) }
  else none
/-- The key of a group's kernel among a core's pins. -/
def pinKey (s : State) (g : Group) : Nat := match mget s.grids g.grid with | some gr => gr.img * 2 ^ 16 + gr.kern | none => 2 ^ 32
/-- The line pinned on a group's core that holds a code offset of its version. -/
def pinnedLine (s : State) (g : Group) (off : Nat) : Option PinLine :=
  (coreOf s (coreOfGroup s g)).pins.findSome? fun p =>
    if p.1 == g.ctx && p.2.1 == pinKey s g && p.2.2.1 == g.ver then p.2.2.2.find? fun l => l.off == off / 128 * 128 && !l.bytes.isEmpty else none
/-- The writes of a unit of code that a pinned line does not hold. -/
def PinLine.lacks (s : State) (l : PinLine) (loc : Nat) : List LogEntry :=
  (touching s loc 4).filter fun e => decide (l.at_ ≤ e.id) || l.behind.contains e.id
/-- A unit of code as the pinned line of its core holds it: only `ifence`, or a `pfence` to IF, refetches the line (R236, R240, R298), so that later
writes are not in it, known to the group or not. A group whose fetches such a word has made see one of them, on the core it came from, fetches
anew. -/
def pinnedUnit (s : State) (u : Nat) (g : Group) (off loc : Nat) : Option (List Byte) :=
  match pinnedLine s g off with
  | some l =>
    if (l.lacks s loc).any fun e => (e.bytesIn loc 4).any (e.seenAtByte (agent u 5)) then none
    else some ((l.bytes.drop (off / 4 * 4 - l.off)).take 4)
  | none => none
/-- The lines pinned on a group's core for its context that hold bytes which an `ifence` or a `pfence` to IF covers are fetched again (R236, R240). -/
def refetchPins (s : State) (u : Nat) (g : Group) : State :=
  let fresh (p : Nat × Nat × Nat × List PinLine) (l : PinLine) : PinLine :=
    match (kernelOf s g.ctx (p.2.1 / 2 ^ 16) (p.2.1 % 2 ^ 16)).bind fun k => mget k.vers p.2.2.1 with
    | none => l
    | some v =>
      match v.va with
      | none => l
      | some b =>
        let covered := (List.range (cdiv l.bytes.length 4)).any fun i => match resolve s g.ctx (b + l.off + 4 * i) 2 with
          | .ok pa => (touching s pa 4).any fun e => (e.bytesIn pa 4).any (e.seenAtByte (agent u 5))
          | .error _ => false
        if covered then (fetchLine s u g.ctx b l.off v.code.length).getD l else l
  modCore s (coreOfGroup s g) fun k => { k with pins := k.pins.map fun p => if p.1 == g.ctx then (p.1, p.2.1, p.2.2.1, p.2.2.2.map (fresh p)) else p }
/-- What a fetch meets (R102, R210): the bytes of an aligned 4-byte unit, or a cause with its address. -/
def fetchUnit (s : State) (u : Nat) (g : Group) (off : Nat) : Except (Nat × Option Nat) (List Byte) :=
  let code := codeBytes s g
  if code.length ≤ off then .error (0x06, none)
  else match codeVa s g with
    | none => .ok ((List.range 4).map fun i => code.getD (off / 4 * 4 + i) 0)
    | some b =>
      match resolve s g.ctx (b + off) 2 with
      | .ok pa => .ok ((pinnedUnit s u g off (pa / 4 * 4)).getD (codeUnitAt s u (pa / 4 * 4)))
      | .error c => .error (c, some (b + off))
/-- The state after a group's fetch has read a unit: no later fetch goes back behind what it met (R226). -/
def noteUnit (s : State) (u : Nat) (g : Group) (off loc : Nat) : State :=
  match pinnedUnit s u g off loc, pinnedLine s g off with
  | some _, some l =>
    let lacks := l.lacks s loc
    markRead s (agent u 5) (loc, 4) ((newestOf ((touching s loc 4).filter fun e => !lacks.contains e) (loc, 4)).map (·.id))
  | _, _ => noteCode s u loc
/-- The state after a group has fetched an instruction of n bytes at a code offset: what it read is noted (R226), and the bytes and walks it
reached (R319). -/
def noteFetch (s : State) (u : Nat) (g : Group) (off n : Nat) : State :=
  match codeVa s g with
  | none => s
  | some b =>
    (dedup ((List.range n).map fun i => (off + i) / 4 * 4)).foldl (fun t o =>
      match resolve s g.ctx (b + o) 2 with
      | .ok pa => noteUnit (touchPa (touchVa t g.ctx (b + o)) g.ctx pa) u g o (pa / 4 * 4)
      | .error _ => touchVa t g.ctx (b + o)) s
/-- One parcel or half-word of the code at a byte offset; what lies beyond the code reads as zero here. -/
def parcelAt (s : State) (u : Nat) (g : Group) (off : Nat) : Except (Nat × Option Nat) Nat :=
  match fetchUnit s u g off with
  | .ok bs => .ok (leNat ((bs.drop (off % 4)).take 2))
  | .error e => .error e
/-- A parcel, or 0 where none can be fetched. -/
def parcelOr (s : State) (u : Nat) (g : Group) (off : Nat) : Nat :=
  match parcelAt s u g off with | .ok v => v | .error _ => 0
/-- What the fetch at a code offset gives (R102, R110): an instruction with its length in bytes, or a cause and the
faulting address of a fetch that met a page. -/
inductive Fetched where
  | instr (i : Instr) (len : Nat)
  | cause (c : Nat) (va : Option Nat)
  deriving DecidableEq, Repr
/-- The immediate word of an instruction that needs one must be fetched as well: its parcels lie at these offsets. -/
def fetchRest (s : State) (u : Nat) (g : Group) (i : Instr) (offs : List Nat) (len : Nat) : Fetched :=
  match offs.findSome? fun o => match parcelAt s u g o with | .error e => some e | .ok _ => none with
  | some e => .cause e.1 e.2
  | none => .instr i len
/-- The fetch at a code offset (R90, R98, R102). -/
def fetchAt (s : State) (u : Nat) (g : Group) (pc : Nat) : Fetched :=
  if nativeCode s g then
    if pc % 4 != 0 then .cause 0x04 none
    else match fetchUnit s u g pc with
      | .error e => .cause e.1 e.2
      | .ok bs =>
        let imm := match fetchUnit s u g (pc + 4) with | .ok bs => leNat bs | .error _ => 0
        match decodeNative (leNat bs) imm with
        | none => .cause 0x01 none
        | some (i, n) => if n = 1 then .instr i 4 else fetchRest s u g i [pc + 4] 8
  else
    if pc % 2 != 0 then .cause 0x04 none
    else match parcelAt s u g pc with
      | .error e => .cause e.1 e.2
      | .ok p0 =>
        match decodeParcels p0 (parcelOr s u g (pc + 2)) (parcelOr s u g (pc + 4)) (parcelOr s u g (pc + 6)) with
        | none => if bit p0 15 then fetchFail s u g (pc + 2) else .cause 0x01 none
        | some (i, n) => fetchRest s u g i ((List.range n).map fun k => pc + 2 * k) (2 * n)
where
  /-- A long instruction whose second parcel cannot be fetched meets that fetch's cause; otherwise it is no instruction. -/
  fetchFail (s : State) (u : Nat) (g : Group) (off : Nat) : Fetched :=
    match parcelAt s u g off with | .error e => .cause e.1 e.2 | .ok _ => .cause 0x01 none
/-- The instruction at a code offset with its length, if one is there. The partner checks of `dif`, `delse` and `dbrk` use it: a partner word
that cannot be fetched is no partner, so that they raise cause 0x09 and not the fetch's own (R138 is silent; log entry 51). -/
def instrAt (s : State) (u : Nat) (g : Group) (pc : Nat) : Option (Instr × Nat) :=
  match fetchAt s u g pc with | .instr i n => some (i, n) | .cause _ _ => none
/-- A branch target (R105): the word's address plus a signed count of words or parcels, as a 32-bit code offset. -/
def target (s : State) (g : Group) (off : Int) : Nat :=
  (((g.pc : Int) + off * codeUnit s g) % (2 ^ 32 : Int)).toNat
/-- A register target is aligned to a word, or to a parcel (R102). -/
def aligned (s : State) (g : Group) (pc : Nat) : Bool := pc % codeUnit s g == 0

end Sys2Proof.Machine
end

