-- ==== Sys2Proof/Machine/LaneInt.lean ====
section
/-!
DEFINITION. The integer, logic, shift and compare lane words (R169-R175), with their short forms (R100).
-/
namespace Sys2Proof.Machine

/-- A shift amount of a lane word: b mod 32 (R169). -/
def amt32 (b : Word) : Nat := b.toNat % 32
/-- The bits of a field extract or insert: position and length in xb (R171). -/
def fieldPos (b : Word) : Nat := b.toNat % 32
def fieldLen (b : Word) : Nat := min (b.toNat / 256 % 64) 32
/-- `vbfx` (R171). -/
def bfx (a b : Word) : Word := (a >>> fieldPos b) &&& BitVec.ofNat 32 (2 ^ fieldLen b - 1)
/-- `vbfi` (R171). -/
def bfi (d a b : Word) : Word :=
  let m : Word := BitVec.ofNat 32 (2 ^ fieldLen b - 1) <<< fieldPos b
  (d &&& ~~~m) ||| ((a <<< fieldPos b) &&& m)
/-- Set bits of a word. -/
def popc (n v : Nat) : Nat := (List.range n).foldl (fun c i => if v / 2 ^ i % 2 = 1 then c + 1 else c) 0
/-- Leading zero bits of an n-bit word. -/
def clz (n v : Nat) : Nat := if v = 0 then n else n - 1 - v.log2
/-- Bit i moved to bit 31 − i. -/
def brev (v : Word) : Word := BitVec.ofNat 32 ((List.range 32).foldl (fun m i => if v.getLsbD i then m + 2 ^ (31 - i) else m) 0)

/-- `vadd` (R169): the value of xd[L]. -/
def vaddVal (_ a b : Word) : Word := a + b
/-- `vadd` (R169). -/
def execVadd (sm : Bool) (xd xa xb kp : Nat) (s : State) : Out := laneOp 4 sm vaddVal xd xa xb kp s
/-- Short `vadd a, b` (R100): xd = xa = a. -/
def execShortVadd (a b : Nat) (s : State) : Out := laneOp 2 false vaddVal a a b 0 s
/-- `vsub` (R169): the value of xd[L]. -/
def vsubVal (_ a b : Word) : Word := a - b
/-- `vsub` (R169). -/
def execVsub (sm : Bool) (xd xa xb kp : Nat) (s : State) : Out := laneOp 4 sm vsubVal xd xa xb kp s
/-- Short `vsub a, b` (R100): xd = xa = a. -/
def execShortVsub (a b : Nat) (s : State) : Out := laneOp 2 false vsubVal a a b 0 s
/-- `vmul` (R169): the value of xd[L]. -/
def vmulVal (_ a b : Word) : Word := a * b
/-- `vmul` (R169). -/
def execVmul (sm : Bool) (xd xa xb kp : Nat) (s : State) : Out := laneOp 4 sm vmulVal xd xa xb kp s
/-- Short `vmul a, b` (R100): xd = xa = a. -/
def execShortVmul (a b : Nat) (s : State) : Out := laneOp 2 false vmulVal a a b 0 s
/-- `vmulh` (R169): the value of xd[L]. -/
def vmulhVal (_ a b : Word) : Word := BitVec.ofInt 32 (a.toInt * b.toInt / 2 ^ 32)
/-- `vmulh` (R169). -/
def execVmulh (sm : Bool) (xd xa xb kp : Nat) (s : State) : Out := laneOp 4 sm vmulhVal xd xa xb kp s
/-- `vmulhu` (R169): the value of xd[L]. -/
def vmulhuVal (_ a b : Word) : Word := BitVec.ofNat 32 (a.toNat * b.toNat / 2 ^ 32)
/-- `vmulhu` (R169). -/
def execVmulhu (sm : Bool) (xd xa xb kp : Nat) (s : State) : Out := laneOp 4 sm vmulhuVal xd xa xb kp s
/-- `vmad` (R169): the value of xd[L]. -/
def vmadVal (d a b : Word) : Word := d + a * b
/-- `vmad` (R169). -/
def execVmad (sm : Bool) (xd xa xb kp : Nat) (s : State) : Out := laneOp 4 sm vmadVal xd xa xb kp s
/-- `vmin` (R169): the value of xd[L]. -/
def vminVal (_ a b : Word) : Word := if a.slt b then a else b
/-- `vmin` (R169). -/
def execVmin (sm : Bool) (xd xa xb kp : Nat) (s : State) : Out := laneOp 4 sm vminVal xd xa xb kp s
/-- `vminu` (R169): the value of xd[L]. -/
def vminuVal (_ a b : Word) : Word := if a.ult b then a else b
/-- `vminu` (R169). -/
def execVminu (sm : Bool) (xd xa xb kp : Nat) (s : State) : Out := laneOp 4 sm vminuVal xd xa xb kp s
/-- `vmax` (R169): the value of xd[L]. -/
def vmaxVal (_ a b : Word) : Word := if a.slt b then b else a
/-- `vmax` (R169). -/
def execVmax (sm : Bool) (xd xa xb kp : Nat) (s : State) : Out := laneOp 4 sm vmaxVal xd xa xb kp s
/-- `vmaxu` (R169): the value of xd[L]. -/
def vmaxuVal (_ a b : Word) : Word := if a.ult b then b else a
/-- `vmaxu` (R169). -/
def execVmaxu (sm : Bool) (xd xa xb kp : Nat) (s : State) : Out := laneOp 4 sm vmaxuVal xd xa xb kp s
/-- `vand` (R169): the value of xd[L]. -/
def vandVal (_ a b : Word) : Word := a &&& b
/-- `vand` (R169). -/
def execVand (sm : Bool) (xd xa xb kp : Nat) (s : State) : Out := laneOp 4 sm vandVal xd xa xb kp s
/-- Short `vand a, b` (R100): xd = xa = a. -/
def execShortVand (a b : Nat) (s : State) : Out := laneOp 2 false vandVal a a b 0 s
/-- `vor` (R169): the value of xd[L]. -/
def vorVal (_ a b : Word) : Word := a ||| b
/-- `vor` (R169). -/
def execVor (sm : Bool) (xd xa xb kp : Nat) (s : State) : Out := laneOp 4 sm vorVal xd xa xb kp s
/-- Short `vor a, b` (R100): xd = xa = a. -/
def execShortVor (a b : Nat) (s : State) : Out := laneOp 2 false vorVal a a b 0 s
/-- `vxor` (R169): the value of xd[L]. -/
def vxorVal (_ a b : Word) : Word := a ^^^ b
/-- `vxor` (R169). -/
def execVxor (sm : Bool) (xd xa xb kp : Nat) (s : State) : Out := laneOp 4 sm vxorVal xd xa xb kp s
/-- `vshl` (R169): the value of xd[L]. -/
def vshlVal (_ a b : Word) : Word := a <<< amt32 b
/-- `vshl` (R169). -/
def execVshl (sm : Bool) (xd xa xb kp : Nat) (s : State) : Out := laneOp 4 sm vshlVal xd xa xb kp s
/-- `vshr` (R169): the value of xd[L]. -/
def vshrVal (_ a b : Word) : Word := a >>> amt32 b
/-- `vshr` (R169). -/
def execVshr (sm : Bool) (xd xa xb kp : Nat) (s : State) : Out := laneOp 4 sm vshrVal xd xa xb kp s
/-- `vsra` (R169): the value of xd[L]. -/
def vsraVal (_ a b : Word) : Word := a.sshiftRight (amt32 b)
/-- `vsra` (R169). -/
def execVsra (sm : Bool) (xd xa xb kp : Nat) (s : State) : Out := laneOp 4 sm vsraVal xd xa xb kp s
/-- `vbfx` (R171): the value of xd[L]. -/
def vbfxVal (_ a b : Word) : Word := bfx a b
/-- `vbfx` (R171). -/
def execVbfx (sm : Bool) (xd xa xb kp : Nat) (s : State) : Out := laneOp 4 sm vbfxVal xd xa xb kp s
/-- `vbfi` (R171): the value of xd[L]. -/
def vbfiVal (d a b : Word) : Word := bfi d a b
/-- `vbfi` (R171). -/
def execVbfi (sm : Bool) (xd xa xb kp : Nat) (s : State) : Out := laneOp 4 sm vbfiVal xd xa xb kp s
/-- `vaddi` (R170): the value of xd[L]. -/
def vaddiVal (imm : Int) (a : Word) : Word := a + BitVec.ofInt 32 imm
/-- `vaddi` (R170). -/
def execVaddi (sm : Bool) (xd xa : Nat) (imm : Int) (s : State) : Out := laneOp1 4 sm (vaddiVal imm) xd xa 0 s
/-- `vandi` (R170): the value of xd[L]. -/
def vandiVal (imm : Nat) (a : Word) : Word := a &&& BitVec.ofNat 32 imm
/-- `vandi` (R170). -/
def execVandi (sm : Bool) (xd xa : Nat) (imm : Nat) (s : State) : Out := laneOp1 4 sm (vandiVal imm) xd xa 0 s
/-- `vori` (R170): the value of xd[L]. -/
def voriVal (imm : Nat) (a : Word) : Word := a ||| BitVec.ofNat 32 imm
/-- `vori` (R170). -/
def execVori (sm : Bool) (xd xa : Nat) (imm : Nat) (s : State) : Out := laneOp1 4 sm (voriVal imm) xd xa 0 s
/-- `vxori` (R170): the value of xd[L]. -/
def vxoriVal (imm : Nat) (a : Word) : Word := a ^^^ BitVec.ofNat 32 imm
/-- `vxori` (R170). -/
def execVxori (sm : Bool) (xd xa : Nat) (imm : Nat) (s : State) : Out := laneOp1 4 sm (vxoriVal imm) xd xa 0 s
/-- `vshli` (R170): the value of xd[L]. -/
def vshliVal (amt : Nat) (a : Word) : Word := a <<< amt
/-- `vshli` (R170). -/
def execVshli (sm : Bool) (xd xa : Nat) (amt : Nat) (s : State) : Out := laneOp1 4 sm (vshliVal amt) xd xa 0 s
/-- `vshri` (R170): the value of xd[L]. -/
def vshriVal (amt : Nat) (a : Word) : Word := a >>> amt
/-- `vshri` (R170). -/
def execVshri (sm : Bool) (xd xa : Nat) (amt : Nat) (s : State) : Out := laneOp1 4 sm (vshriVal amt) xd xa 0 s
/-- `vsrai` (R170): the value of xd[L]. -/
def vsraiVal (amt : Nat) (a : Word) : Word := a.sshiftRight amt
/-- `vsrai` (R170). -/
def execVsrai (sm : Bool) (xd xa : Nat) (amt : Nat) (s : State) : Out := laneOp1 4 sm (vsraiVal amt) xd xa 0 s
/-- Short `vaddi a, b` (R100): the immediate is b sign-extended. -/
def execShortVaddi (a b : Nat) (s : State) : Out := laneOp1 2 false (vaddiVal (sext 4 b)) a a 0 s
/-- Short `vshli a, b, c` (R100): the amount is b + 16c. -/
def execShortVshli (a b c : Nat) (s : State) : Out := laneOp1 2 false (vshliVal (b + 16 * c)) a a 0 s
/-- `vmovi` (R170). -/
def execVmovi (sm : Bool) (xd : Nat) (imm : Int) (s : State) : Out := laneConst sm (fun _ => BitVec.ofInt 32 imm) xd 0 s
/-- `vlui` (R170). -/
def execVlui (sm : Bool) (xd imm : Nat) (s : State) : Out := laneConst sm (fun _ => BitVec.ofNat 32 (imm * 2 ^ 15)) xd 0 s
/-- `vsel` (R172): kp selects the operand and does not predicate. -/
def execVsel (sm : Bool) (xd xa xb kp : Nat) (s : State) : Out :=
  word s [xd, xa, xb] fun u g =>
    fin s u sm 4 (writeX s g xd (xmask s g 0) fun L => if (kRead s g kp).getLsbD L then lane s g xa L else lane s g xb L)
/-- `vmov` (R173): the value of xd[L]. -/
def vmovVal (a : Word) : Word := a
/-- `vmov` (R173). -/
def execVmov (sm : Bool) (xd xa kp : Nat) (s : State) : Out := laneOp1 4 sm vmovVal xd xa kp s
/-- `vneg` (R173): the value of xd[L]. -/
def vnegVal (a : Word) : Word := -a
/-- `vneg` (R173). -/
def execVneg (sm : Bool) (xd xa kp : Nat) (s : State) : Out := laneOp1 4 sm vnegVal xd xa kp s
/-- `vabs` (R173): the value of xd[L]. -/
def vabsVal (a : Word) : Word := if a.msb then -a else a
/-- `vabs` (R173). -/
def execVabs (sm : Bool) (xd xa kp : Nat) (s : State) : Out := laneOp1 4 sm vabsVal xd xa kp s
/-- `vnot` (R173): the value of xd[L]. -/
def vnotVal (a : Word) : Word := ~~~a
/-- `vnot` (R173). -/
def execVnot (sm : Bool) (xd xa kp : Nat) (s : State) : Out := laneOp1 4 sm vnotVal xd xa kp s
/-- `vpopc` (R173): the value of xd[L]. -/
def vpopcVal (a : Word) : Word := BitVec.ofNat 32 (popc 32 a.toNat)
/-- `vpopc` (R173). -/
def execVpopc (sm : Bool) (xd xa kp : Nat) (s : State) : Out := laneOp1 4 sm vpopcVal xd xa kp s
/-- `vclz` (R173): the value of xd[L]. -/
def vclzVal (a : Word) : Word := BitVec.ofNat 32 (clz 32 a.toNat)
/-- `vclz` (R173). -/
def execVclz (sm : Bool) (xd xa kp : Nat) (s : State) : Out := laneOp1 4 sm vclzVal xd xa kp s
/-- `vbrev` (R173): the value of xd[L]. -/
def vbrevVal (a : Word) : Word := brev a
/-- `vbrev` (R173). -/
def execVbrev (sm : Bool) (xd xa kp : Nat) (s : State) : Out := laneOp1 4 sm vbrevVal xd xa kp s
/-- Short `vmov a, b` (R100). -/
def execShortVmov (a b : Nat) (s : State) : Out := laneOp1 2 false vmovVal a b 0 s
/-- `vlid` (R173). -/
def execVlid (sm : Bool) (xd kp : Nat) (s : State) : Out := laneConst sm (fun L => BitVec.ofNat 32 L) xd kp s
/-- `vcmp` (R174). -/
def execVcmp (sm : Bool) (cc : Cc) (kd xa xb kp : Nat) (s : State) : Out := laneCmp 4 sm (ccHolds cc) kd xa xb kp s
/-- Short `vcmp a, b, c` (R100): into k1, with cc = c. -/
def execShortVcmp (a b c : Nat) (s : State) : Out := laneCmp 2 false (ccHolds ((Cc.ofCode c).getD .eq)) 1 a b 0 s
/-- `vfcmp` (R175). -/
def execVfcmp (sm : Bool) (cc : Fcc) (kd xa xb kp : Nat) (s : State) : Out := laneCmp 4 sm (fccHolds cc) kd xa xb kp s

end Sys2Proof.Machine
end

