-- ==== Sys2Proof/Machine/LaneFloat.lean ====
section
/-!
DEFINITION. The floating, packed, converting and quantising lane words and the dot products (R176-R186).
-/
namespace Sys2Proof.Machine

/-- `vfadd` (R176): one rounding of the exact value. -/
def vfaddVal (m : RMode) (h : Nat) (_ a b : Word) : Word := BitVec.ofNat 32 (fAdd fp32 m h 32 a.toNat b.toNat)
/-- `vfadd` (R176): rounds under VRM. -/
def execVfadd (sm : Bool) (xd xa xb kp : Nat) (s : State) : Out := laneRound 4 sm .dyn vfaddVal xd xa xb kp s
/-- `vfsub` (R176): one rounding of the exact value. -/
def vfsubVal (m : RMode) (h : Nat) (_ a b : Word) : Word := BitVec.ofNat 32 (fSub fp32 m h 32 a.toNat b.toNat)
/-- `vfsub` (R176): rounds under VRM. -/
def execVfsub (sm : Bool) (xd xa xb kp : Nat) (s : State) : Out := laneRound 4 sm .dyn vfsubVal xd xa xb kp s
/-- `vfmul` (R176): one rounding of the exact value. -/
def vfmulVal (m : RMode) (h : Nat) (_ a b : Word) : Word := BitVec.ofNat 32 (fMul fp32 m h 32 a.toNat b.toNat)
/-- `vfmul` (R176): rounds under VRM. -/
def execVfmul (sm : Bool) (xd xa xb kp : Nat) (s : State) : Out := laneRound 4 sm .dyn vfmulVal xd xa xb kp s
/-- `vfma` (R176): one rounding of the exact value. -/
def vfmaVal (m : RMode) (h : Nat) (d a b : Word) : Word := BitVec.ofNat 32 (fMa fp32 m h 32 a.toNat b.toNat d.toNat)
/-- `vfma` (R176): rounds under VRM. -/
def execVfma (sm : Bool) (xd xa xb kp : Nat) (s : State) : Out := laneRound 4 sm .dyn vfmaVal xd xa xb kp s
/-- `vfms` (R176): one rounding of the exact value. -/
def vfmsVal (m : RMode) (h : Nat) (d a b : Word) : Word := BitVec.ofNat 32 (fMs fp32 m h 32 a.toNat b.toNat d.toNat)
/-- `vfms` (R176): rounds under VRM. -/
def execVfms (sm : Bool) (xd xa xb kp : Nat) (s : State) : Out := laneRound 4 sm .dyn vfmsVal xd xa xb kp s
/-- Short `vfadd a, b` (R100). -/
def execShortVfadd (a b : Nat) (s : State) : Out := laneRound 2 false .dyn vfaddVal a a b 0 s
/-- Short `vfmul a, b` (R100). -/
def execShortVfmul (a b : Nat) (s : State) : Out := laneRound 2 false .dyn vfmulVal a a b 0 s
/-- Short `vfma a, b, c` (R100): xb = x(8 + c). -/
def execShortVfma (a b c : Nat) (s : State) : Out := laneRound 2 false .dyn vfmaVal a b (8 + c) 0 s
/-- `vfmin` (R177). -/
def execVfmin (sm : Bool) (xd xa xb kp : Nat) (s : State) : Out :=
  laneOp 4 sm (fun _ a b => BitVec.ofNat 32 (fMinMax fp32 false a.toNat b.toNat)) xd xa xb kp s
/-- `vfmax` (R177). -/
def execVfmax (sm : Bool) (xd xa xb kp : Nat) (s : State) : Out :=
  laneOp 4 sm (fun _ a b => BitVec.ofNat 32 (fMinMax fp32 true a.toNat b.toNat)) xd xa xb kp s
/-- A NaN gives the canonical NaN, anything else `f` (R178). -/
def notNan (f : Word → Word) (a : Word) : Word := if fp32.decode a.toNat = .nan then 0x7FC00000 else f a
/-- `vfabs` (R178). -/
def execVfabs (sm : Bool) (xd xa kp : Nat) (s : State) : Out := laneOp1 4 sm (notNan fun a => a &&& 0x7FFFFFFF) xd xa kp s
/-- `vfneg` (R178). -/
def execVfneg (sm : Bool) (xd xa kp : Nat) (s : State) : Out := laneOp1 4 sm (notNan fun a => a ^^^ 0x80000000) xd xa kp s
/-- `vfrnd` (R178): the nearest integer under a mode, as FP32; a zero keeps the sign of xa. -/
def frnd (m : RMode) (h : Nat) (a : Word) : Word :=
  match fp32.decode a.toNat with
  | .nan => 0x7FC00000
  | .inf _ => a
  | .fin sg mm e => BitVec.ofNat 32 (roundMag fp32 .rz sg (.dy (roundIntMag m sg (.dy mm e) h 32) 0) 0 32)
/-- `vfrnd` (R178). -/
def execVfrnd (sm : Bool) (md : Md) (xd xa kp : Nat) (s : State) : Out := laneRound1 sm md frnd xd xa kp s
/-- The class bit of an FP32 datum (R178). -/
def fclass (a : Word) : Word :=
  let neg := a.msb
  match fp32.decode a.toNat with
  | .nan => 0x100
  | .inf _ => if neg then 0x1 else 0x80
  | .fin _ m _ =>
    if m = 0 then (if neg then 0x8 else 0x10)
    else if m < 2 ^ 23 then (if neg then 0x4 else 0x20)
    else (if neg then 0x2 else 0x40)
/-- `vfclass` (R178). -/
def execVfclass (sm : Bool) (xd xa kp : Nat) (s : State) : Out := laneOp1 4 sm fclass xd xa kp s
/-- A special function's result rounded (R179). -/
def special (f : FVal → Exact) (m : RMode) (h : Nat) (a : Word) : Word := BitVec.ofNat 32 ((f (fp32.decode a.toNat)).round fp32 m h 32)
/-- `vrcp` (R179, R180). -/
def execVrcp (sm : Bool) (md : Md) (xd xa kp : Nat) (s : State) : Out := laneRound1 sm md (special rcpF) xd xa kp s
/-- `vsqrt` (R179, R180). -/
def execVsqrt (sm : Bool) (md : Md) (xd xa kp : Nat) (s : State) : Out := laneRound1 sm md (special sqrtF) xd xa kp s
/-- `vrsq` (R179, R180): the correctly rounded value, RNE. -/
def execVrsq (sm : Bool) (xd xa kp : Nat) (s : State) : Out := laneOp1 4 sm (special rsqF .rne 0) xd xa kp s
/-- `vexp2` (R179, R180): the correctly rounded value, RNE. -/
def execVexp2 (sm : Bool) (xd xa kp : Nat) (s : State) : Out := laneOp1 4 sm (special exp2F .rne 0) xd xa kp s
/-- `vlog2` (R179, R180): the correctly rounded value, RNE. -/
def execVlog2 (sm : Bool) (xd xa kp : Nat) (s : State) : Out := laneOp1 4 sm (special log2F .rne 0) xd xa kp s
/-- `vsin` (R179, R180): the correctly rounded value, RNE. -/
def execVsin (sm : Bool) (xd xa kp : Nat) (s : State) : Out := laneOp1 4 sm (special sinF .rne 0) xd xa kp s
/-- `vcos` (R179, R180): the correctly rounded value, RNE. -/
def execVcos (sm : Bool) (xd xa kp : Nat) (s : State) : Out := laneOp1 4 sm (special cosF .rne 0) xd xa kp s
/-- `vtanh` (R179, R180): the correctly rounded value, RNE. -/
def execVtanh (sm : Bool) (xd xa kp : Nat) (s : State) : Out := laneOp1 4 sm (special tanhF .rne 0) xd xa kp s
/-- `vpadd` (R182). -/
def execVpadd (sm : Bool) (ty : Pty) (xd xa xb : Nat) (s : State) : Out := lanePacked sm ty (fun f m h _ a b => fAdd f m h 16 a b) xd xa xb s
/-- `vpmul` (R182). -/
def execVpmul (sm : Bool) (ty : Pty) (xd xa xb : Nat) (s : State) : Out := lanePacked sm ty (fun f m h _ a b => fMul f m h 16 a b) xd xa xb s
/-- `vpfma` (R182). -/
def execVpfma (sm : Bool) (ty : Pty) (xd xa xb : Nat) (s : State) : Out := lanePacked sm ty (fun f m h d a b => fMa f m h 16 a b d) xd xa xb s
/-- An integer as a value. -/
def ofInt (i : Int) : FVal := .fin (decide (i < 0)) i.natAbs 0
/-- `vcvt` of one element (R183). -/
def cvt (k : CvtKind) (m : RMode) (h : Nat) (a : Word) : Word :=
  let v := fp32.decode a.toNat
  let narrow (f : Fmt) : Word := BitVec.ofNat 32 (v.exact.round f m h 32)
  let widenF (f : Fmt) : Word := BitVec.ofNat 32 ((f.decode (a.toNat % 2 ^ f.width)).exact.round fp32 .rz 0 32)
  match k with
  | .f32Int => BitVec.ofNat 32 ((ofInt a.toInt).exact.round fp32 m h 32)
  | .f32Uint => BitVec.ofNat 32 ((ofInt a.toNat).exact.round fp32 m h 32)
  | .intF32 => BitVec.ofInt 32 (v.exact.toInt m h 32 (-2147483648) 2147483647)
  | .uintF32 => BitVec.ofInt 32 (v.exact.toInt m h 32 0 4294967295)
  | .f16F32 => narrow fp16
  | .f32F16 => widenF fp16
  | .bf16F32 => narrow bf16
  | .f32Bf16 => widenF bf16
  | .e4m3F32 => narrow e4m3
  | .f32E4m3 => widenF e4m3
  | .e5m2F32 => narrow e5m2
  | .f32E5m2 => widenF e5m2
  | .ts8F32 => BitVec.ofNat 32 (v.toTs8 m h 32)
  | .f32Ts8 => BitVec.ofNat 32 ((ofInt (ts8Val (a.toNat % 256))).exact.round fp32 .rz 0 32)
  | .int8F32 => BitVec.ofNat 32 (twos 8 (v.exact.toInt m h 32 (-128) 127))
  | .uint8F32 => BitVec.ofNat 32 (twos 8 (v.exact.toInt m h 32 0 255))
/-- `vcvt` (R183): the exact kinds take md = 0 and never draw. -/
def execVcvt (sm : Bool) (kind : CvtKind) (md : Md) (xd xa kp : Nat) (s : State) : Out := laneRound1 sm md (cvt kind) xd xa kp s
/-- An FP32 value whose magnitude exceeds the threshold: a NaN on either side never does (R184). -/
def isOutlier (x t : Word) : Bool :=
  match fp32.decode x.toNat, fp32.decode t.toNat with
  | .nan, _ | _, .nan => false
  | .inf _, v => v.cmp (.inf false) == some .lt
  | .fin _ m e, v => v.cmp (.fin false m e) == some .lt
/-- `vquant` (R184, R185): checks before anything is written, then xd, kd, the side list and `qside`. -/
def execVquant (sm : Bool) (fmt : QFmt) (xd xa kd kp : Nat) (s : State) : Out :=
  word s [xd, xa] fun u g =>
    let m := modeOf g .dyn
    let X := xmask s g kp
    let ls := xlanes s g kp
    let x (L : Nat) : Word := lane s g xa L
    let outs := ls.filter fun L => isOutlier (x L) g.qthr
    let p := g.qside.toNat
    let bytes (L : Nat) : Nat := (fp32.decode (x L).toNat).exact.round bf16 .rne 0 32
    let res (L : Nat) : Word :=
      BitVec.ofNat 32 (if outs.contains L then qzero fmt
        else (fp32.decode (x L).toNat).quant fmt m (srField s g L 1 0) 32 (g.qscale.toNat % 256))
    let done (s : State) : State :=
      let g' := writeK s (writeX s g xd X res) kd (maskOf g.gwid outs.contains)
      fin s u sm 4 (bumpSrx m { g' with qside := BitVec.ofNat 32 (p + 2 * outs.length) })
    if outs.isEmpty then done s
    else if p % 2 = 1 then raise s u g 0x04
    else if allocSize s g.block < p + 2 * outs.length then raise s u g 0x08
    else match dedup ((List.range outs.length).flatMap fun i => absentLines s g.block (p + 2 * i) 2) with
      | [] => done ((List.range outs.length).foldl (fun s i =>
          commit s u g (localLoc g.block (p + 2 * i)) none (leBytes 2 (bytes (outs.getD i 0))) false) s)
      | q => parkOn s u g (.presence q)
/-- One element of a dot-product operand: w bits, signed or unsigned (R67, R186). -/
def dotElem (w : Nat) (signed : Bool) (a : Word) (i : Nat) : Int :=
  let v := a.toNat / 2 ^ (w * i) % 2 ^ w
  if signed then sext w v else v
/-- A dot product of n elements of w bits accumulated into d (R186). -/
def dot (n w : Nat) (sa sb st : Bool) (d a b : Word) : Word :=
  let t := (List.range n).foldl (fun t i => t + dotElem w sa a i * dotElem w sb b i) d.toInt
  BitVec.ofInt 32 (if st then clampI t (-2147483648) 2147483647 else t)
/-- `vdot4` (R186). -/
def execVdot4 (sm sa sb st : Bool) (xd xa xb : Nat) (s : State) : Out := laneOp 4 sm (dot 4 8 sa sb st) xd xa xb 0 s
/-- `vdot8` (R186). -/
def execVdot8 (sm sa sb st : Bool) (xd xa xb : Nat) (s : State) : Out := laneOp 4 sm (dot 8 4 sa sb st) xd xa xb 0 s

end Sys2Proof.Machine
end

