-- ==== Sys2Proof/Machine/LaneMove.lean ====
section
/-!
DEFINITION. The lane-moving words, reductions and scans (R187-R189).
-/
namespace Sys2Proof.Machine

/-- A lane-moving word: the source of every lane is read before any is written (R187). -/
def laneMove (sm : Bool) (src : State → Group → Nat → Nat) (xd xa kp : Nat) (named : List Nat) (s : State) : Out :=
  word s named fun u g =>
    fin s u sm 4 (writeX s g xd (xmask s g kp) fun L =>
      let j := src s g L
      if j < g.gwid then lane s g xa j else 0)
/-- `vshfl` (R187). -/
def execVshfl (sm : Bool) (xd xa xb kp : Nat) (s : State) : Out :=
  laneMove sm (fun s g L => (lane s g xb L).toNat) xd xa kp [xd, xa, xb] s
/-- `vbcast` (R187). -/
def execVbcast (sm : Bool) (xd xa ln : Nat) (s : State) : Out := laneMove sm (fun _ _ _ => ln) xd xa 0 [xd, xa] s
/-- `vrot` (R187). -/
def execVrot (sm : Bool) (xd xa rot : Nat) (s : State) : Out :=
  laneMove sm (fun _ g L => (L + rot) % g.gwid) xd xa 0 [xd, xa] s
/-- One combination of a reduction (R188): a comes from the lower lanes. -/
def redOp (fn : RedFn) (m : RMode) (a b : Word) : Word :=
  match fn with
  | .add => a + b
  | .min => if a.slt b then a else b
  | .max => if a.slt b then b else a
  | .minu => if a.ult b then a else b
  | .fadd => BitVec.ofNat 32 (fAdd fp32 m 0 32 a.toNat b.toNat)
  | .fmin => BitVec.ofNat 32 (fMinMax fp32 false a.toNat b.toNat)
  | .fmax => BitVec.ofNat 32 (fMinMax fp32 true a.toNat b.toNat)
  | .maxu => if a.ult b then b else a
  | .and => a &&& b
  | .or => a ||| b
  | .xor => a ^^^ b
/-- Two halves of a tree, either of which may be empty (R188). -/
def combine {α : Type} (op : α → α → α) : Option α → Option α → Option α
  | none, b => b
  | a, none => a
  | some a, some b => some (op a b)
/-- The fixed tree over 2^n leaves from `lo` (R188). -/
def tree {α : Type} (op : α → α → α) (leaf : Nat → Option α) : Nat → Nat → Option α
  | 0, lo => leaf lo
  | n + 1, lo => combine op (tree op leaf n lo) (tree op leaf n (lo + 2 ^ n))
/-- The mode of a reduction: DYN while VRM holds SR rounds RNE (R76). -/
def redMode (g : Group) (md : Md) : RMode := if modeOf g md = .sr then .rne else modeOf g md
/-- `vred` (R188). -/
def execVred (sm : Bool) (fn : RedFn) (md : Md) (xd xa kp : Nat) (s : State) : Out :=
  word s [xd, xa] fun u g =>
    let X := xmask s g kp
    let r := tree (redOp fn (redMode g md)) (fun L => if X.getLsbD L && decide (L < g.gwid) then some (lane s g xa L) else none) (ilog2 g.gwid) 0
    fin s u sm 4 (writeX s g xd X fun _ => r.getD 0)
/-- The inclusive prefix up to a lane, one operation at a time (R189). -/
def prefixAt (op : Word → Word → Word) (v : Nat → Word) : List Nat → Option Word
  | [] => none
  | L :: rest => some (rest.foldl (fun a j => op a (v j)) (v L))
/-- `vscan` (R189). -/
def execVscan (sm : Bool) (fn : RedFn) (md : Md) (xd xa kp : Nat) (s : State) : Out :=
  word s [xd, xa] fun u g =>
    let ls := xlanes s g kp
    fin s u sm 4 (writeX s g xd (xmask s g kp) fun L =>
      (prefixAt (redOp fn (redMode g md)) (lane s g xa) (ls.filter (· ≤ L))).getD 0)

end Sys2Proof.Machine
end

