-- ==== Sys2Proof/Machine/LaneMem.lean ====
section
/-!
DEFINITION. The lane memory words: `vld`, `vst`, `vatom`, `lld`, `lst`, `latom` (R190-R198) and `vltag` (R209).
-/
namespace Sys2Proof.Machine

/-- Bytes of a load size, and whether the load sign-extends (R191). -/
def ldBytes : LdSize → Nat
  | .b | .sb => 1 | .h | .sh => 2 | .w => 4 | .d => 8
def ldSigned : LdSize → Bool
  | .sb | .sh => true
  | .b | .h | .w | .d => false
/-- A lane access ends: it retires when no lane faulted, else the group takes the trap and only the faulted lanes replay (R218). -/
def laneEnd (s : State) (u : Nat) (g : Group) (sm : Bool) (len : Nat) (fs : List LaneFault) : State :=
  if fs.isEmpty then fin s u sm len g else faultLanes s u g fs (faultMask g fs)
/-- A lane word over X would make a coin access without the coin (R342): with an empty X it makes none, and retires (R166). -/
def coinMissing (s : State) (g : Group) (kp : Nat) : Bool := detOf s g && !holdsCoin s g && !(xlanes s g kp).isEmpty
/-- A word of which nothing is made for cause 0x14: a coin access without the coin (R342), or a store that its round buffer has no room
for (R336). A lane fault, being lower-numbered, comes first (R110); no lane has then completed, so that all of X is replayed (log entry
52). -/
def noCoin (s : State) (u : Nat) (g : Group) (m : Mask) (fs : List LaneFault) : State :=
  if fs.isEmpty then raise s u g 0x14 else faultLanes s u g fs m
/-- The mask of the lanes of a list of lane addresses. -/
def addrMask (g : Group) (as : List LaneAddr) : Mask := maskOf g.gwid fun L => as.any fun a => a.lane = L
/-- The datum that a lane of the list has. -/
def addrVal (as : List LaneAddr) (v : LaneAddr → Nat) (L : Nat) : Nat :=
  match as.find? fun a => a.lane = L with | some a => v a | none => 0
/-- `vld` (R190, R191, R218, R239). -/
def vldOp (len : Nat) (sm : Bool) (sz : LdSize) (strong : Bool) (xt xo aw kp : Nat) (s : State) : Out :=
  let n := ldBytes sz
  word s (dataRegs xt n ++ [xo]) fun u g =>
    match winLanes s g aw xo kp n 0 with
    | .error c => raise s u g c
    | .ok (as, fs, g1) =>
      if strong && coinMissing s g kp then noCoin s u g (xmask s g kp) fs
      else
        let us := laneUnits as n fs.isEmpty
        let g2 := writeLoaded s g1 xt n (ldSigned sz) (addrMask g as) (addrVal as fun a => laneLoad s u g us strong a n)
        let g3 := if strong then us.foldl (fun h q => noteGot s u g.ldTime h q.loc q.len) g2 else g2
        let s1 := us.foldl (fun t q => noteLoad t u g strong q.loc q.len) s
        laneEnd (noteLanes s1 g aw kp as) u g3 sm len fs
/-- `vld` (R191). -/
def execVld (sm : Bool) (sz : LdSize) (strong : Bool) (xt xo aw kp : Nat) (s : State) : Out := vldOp 4 sm sz strong xt xo aw kp s
/-- Short `vld a, b` (R100): `.w` through a0. -/
def execShortVld (a b : Nat) (s : State) : Out := vldOp 2 false .w false a b 0 0 s
/-- `vst` (R190-R192, R218, R239). -/
def vstOp (len : Nat) (sm : Bool) (sz : Size4) (strong : Bool) (xt xo aw kp : Nat) (s : State) : Out :=
  let n := sizeBytes sz
  word s (dataRegs xt n ++ [xo]) fun u g =>
    match winLanes s g aw xo kp n 1 with
    | .error c => raise s u g c
    | .ok (as, fs, g1) =>
      if strong && coinMissing s g kp then noCoin s u g (xmask s g kp) fs
      else match laneStore s u g as n fs.isEmpty strong (laneDatum s g xt n) with
        | .error _ => noCoin s u g (xmask s g kp) fs
        | .ok s1 => laneEnd (noteLanes s1 g aw kp as) u g1 sm len fs
/-- `vst` (R191). -/
def execVst (sm : Bool) (sz : Size4) (strong : Bool) (xt xo aw kp : Nat) (s : State) : Out := vstOp 4 sm sz strong xt xo aw kp s
/-- Short `vst a, b` (R100). -/
def execShortVst (a b : Nat) (s : State) : Out := vstOp 2 false .w false a b 0 0 s
/-- Lane atomics in ascending lane order, strong at a scope (R193, R228): the old values, the state and the group. -/
def laneAtomics (u : Nat) (g0 : Group) (sc : Scope) (aop : Aop) (v e : Nat → Nat) : List LaneAddr → State → Group → List (Nat × Nat) × State × Group
  | [], s, g => ([], s, g)
  | a :: as, s, g =>
    let r := atomic s u g sc a.loc (vaOf a.loc a.va) 4 fun m => atomicVal 4 aop m (v a.lane) (e a.lane)
    let rest := laneAtomics u g0 sc aop v e as r.2.1 r.2.2
    ((a.lane, r.1) :: rest.1, rest.2.1, rest.2.2)
/-- The operand and expected value of a lane atomic: for `cas` xt is expected and xt+1 the new value (R193). -/
def atomArgs (s : State) (g : Group) (aop : Aop) (xt : Nat) : (Nat → Nat) × (Nat → Nat) :=
  if aop = .cas then (fun L => (lane s g (xt + 1) L).toNat, fun L => (lane s g xt L).toNat)
  else (fun L => (lane s g xt L).toNat, fun _ => 0)
/-- `vatom` (R193). -/
def execVatom (sm : Bool) (aop : Aop) (xt xo aw kp : Nat) (s : State) : Out :=
  word s ([xt, xo] ++ if aop = .cas then [xt + 1] else []) fun u g =>
    match winLanes s g aw xo kp 4 1 with
    | .error c => raise s u g c
    | .ok (as, fs, g1) =>
      if coinMissing s g kp then noCoin s u g (xmask s g kp) fs
      else
        let ve := atomArgs s g aop xt
        let r := laneAtomics u g .dev aop ve.1 ve.2 as s g1
        let g2 := writeX s r.2.2 xt (addrMask g as) fun L => BitVec.ofNat 32 (((r.1.find? fun p => p.1 == L).map (·.2)).getD 0)
        laneEnd (noteLanes r.2.1 g aw kp as) u g2 sm 4 fs
/-- `lld` (R194, R195, R198). -/
def lldOp (len : Nat) (sm : Bool) (sz : Size4) (xt xo disp kp : Nat) (s : State) : Out :=
  let n := sizeBytes sz
  word s (dataRegs xt n ++ [xo]) fun u g =>
    match localLanes s g (xlanes s g kp) (fun L => (lane s g xo L).toNat + disp * n) n with
    | .error e => accFail s u g e
    | .ok as =>
      let g2 := writeLoaded s g xt n false (addrMask g as) (addrVal as fun a => leNat (loadPlain s u g a.loc n))
      fin (as.foldl (fun s a => notePlain s u g a.loc n) s) u sm len g2
/-- `lld` (R195). -/
def execLld (sm : Bool) (sz : Size4) (xt xo disp kp : Nat) (s : State) : Out := lldOp 4 sm sz xt xo disp kp s
/-- Short `lld a, b, c` (R100). -/
def execShortLld (a b c : Nat) (s : State) : Out := lldOp 2 false .w a b c 0 s
/-- `lst` (R194, R195, R198): lanes in ascending order, so the highest lane wins a byte. -/
def lstOp (len : Nat) (sm : Bool) (sz : Size4) (xt xo disp kp : Nat) (s : State) : Out :=
  let n := sizeBytes sz
  word s (dataRegs xt n ++ [xo]) fun u g =>
    match localLanes s g (xlanes s g kp) (fun L => (lane s g xo L).toNat + disp * n) n with
    | .error e => accFail s u g e
    | .ok as => fin (as.foldl (fun s' a => commit s' u g a.loc none (leBytes n (laneDatum s g xt n a.lane)) false) s) u sm len g
/-- `lst` (R195). -/
def execLst (sm : Bool) (sz : Size4) (xt xo disp kp : Nat) (s : State) : Out := lstOp 4 sm sz xt xo disp kp s
/-- Short `lst a, b, c` (R100). -/
def execShortLst (a b c : Nat) (s : State) : Out := lstOp 2 false .w a b c 0 s
/-- `latom` (R196): strong at `.blk` (R228). -/
def execLatom (sm : Bool) (aop : Aop) (xt xo kp : Nat) (s : State) : Out :=
  word s ([xt, xo] ++ if aop = .cas then [xt + 1] else []) fun u g =>
    match localLanes s g (xlanes s g kp) (fun L => (lane s g xo L).toNat) 4 with
    | .error e => accFail s u g e
    | .ok as =>
      let ve := atomArgs s g aop xt
      let r := laneAtomics u g .blk aop ve.1 ve.2 as s g
      fin r.2.1 u sm 4 (writeX s r.2.2 xt (addrMask g as) fun L =>
        BitVec.ofNat 32 (((r.1.find? fun p => p.1 == L).map (·.2)).getD 0))

/-! ### The tag table (R204-R209) -/

/-- The tag table of a group's block: sets, ways, granule and the first byte (R204); none when S = 0. -/
structure Tags where
  sets : Nat
  ways : Nat
  gran : Nat
  base : Nat
  deriving DecidableEq, Repr
/-- The tag table of a group's block. -/
def tagsOf (s : State) (g : Group) : Option Tags :=
  match mget s.grids g.grid with
  | some gr => if gr.sets = 0 then none else some { sets := gr.sets, ways := gr.ways, gran := gr.gran, base := allocSize s g.block - 8 * gr.sets * gr.ways }
  | none => none
/-- The location of slot i. -/
def Tags.loc (t : Tags) (g : Group) (i : Nat) : Nat := localLoc g.block (t.base + 8 * i)
/-- The set and the tag of a key (R205). -/
def Tags.set (t : Tags) (k : Nat) : Nat := k % 2 ^ 52 / 2 ^ t.gran % t.sets
def Tags.tag (t : Tags) (k : Nat) : Nat := k % 2 ^ 52 / 2 ^ t.gran
/-- A table entry: V, U and TAG (R204). -/
def entV (e : Nat) : Bool := bit e 63
def entU (e : Nat) : Bool := bit e 62
def entTag (e : Nat) : Nat := e % 2 ^ 45
/-- Slot i as the group's local load finds it (R205). -/
def Tags.entry (t : Tags) (s : State) (u : Nat) (g : Group) (i : Nat) : Nat := leNat (loadPlain s u g (t.loc g i) 8)
/-- A local store to slot i. -/
def Tags.store (t : Tags) (s : State) (u : Nat) (g : Group) (i e : Nat) : State := commit s u g (t.loc g i) none (leBytes 8 e) false
/-- The slots of a set, in way order. -/
def Tags.slots (t : Tags) (set : Nat) : List Nat := (List.range t.ways).map (set * t.ways + ·)
/-- The lowest way of the key's set that matches it (R206). -/
def Tags.hit (t : Tags) (s : State) (u : Nat) (g : Group) (k : Nat) : Option Nat :=
  (t.slots (t.set k)).find? fun i => let e := t.entry s u g i; entV e && entTag e == t.tag k
/-- An entry with its U bit set, or cleared. -/
def withU (e : Nat) (b : Bool) : Nat := if entU e = b then e else if b then e + 2 ^ 62 else e - 2 ^ 62
/-- The victim of a set, and whether a sweep happens (R205). -/
def Tags.victim (t : Tags) (s : State) (u : Nat) (g : Group) (set : Nat) : Nat × Bool :=
  let sl := t.slots set
  match sl.find? fun i => !entV (t.entry s u g i) with
  | some i => (i, false)
  | none => match sl.find? fun i => !entU (t.entry s u g i) with
    | some i => (i, false)
    | none => (set * t.ways, true)
/-- The state after the slots have been read (R226). -/
def Tags.note (t : Tags) (s : State) (u : Nat) (g : Group) (is : List Nat) : State :=
  is.foldl (fun s i => notePlain s u g (t.loc g i) 8) s
/-- The absent lines under a list of slots. -/
def Tags.absent (t : Tags) (s : State) (g : Group) (is : List Nat) : List Nat :=
  dedup (is.flatMap fun i => absentLines s g.block (t.base + 8 * i) 8)
/-- A tag word: cause 0x08 without a table, a park on absent lines, else its effect (R205). A `vltag` with an empty X raises 0x08 too where there is
no table, though R166 has it retire: the model's choice (log entry 52). -/
def withTags (s : State) (named : List Nat) (slots : State → Group → Tags → List Nat) (f : Nat → Group → Tags → State) : Out :=
  word s named fun u g =>
    match tagsOf s g with
    | none => raise s u g 0x08
    | some t => match t.absent s g (slots s g t) with
      | [] => f u g t
      | q => parkOn s u g (.presence q)
/-- The slots that a word over lanes reads. -/
def Tags.laneSlots (t : Tags) (key : Nat → Nat) (ls : List Nat) : List Nat := ls.flatMap fun L => t.slots (t.set (key L))
/-- `vltag` (R199, R209): probes in ascending lane order, setting U of each entry hit. -/
def execVltag (sm : Bool) (xd xa kp : Nat) (s : State) : Out :=
  withTags s [xd, xa] (fun s g t => t.laneSlots (fun L => (lane s g xa L).toNat) (xlanes s g kp)) fun u g t =>
    let hit (L : Nat) : Option Nat := t.hit s u g (lane s g xa L).toNat
    let s1 := t.note s u g (t.laneSlots (fun L => (lane s g xa L).toNat) (xlanes s g kp))
    let s2 := (xlanes s g kp).foldl (fun s' L =>
      match hit L with | some i => t.store s' u g i (withU (t.entry s u g i) true) | none => s') s1
    fin s2 u sm 4 (writeX s g xd (xmask s g kp) fun L =>
      match hit L with | some i => BitVec.ofNat 32 i | none => 0xFFFFFFFF)

end Sys2Proof.Machine
end

