-- ==== Sys2Proof/Machine/UniInt.lean ====
section
/-!
DEFINITION. The uniform words that compute: integer (R125-R129), compares (R130-R132), FP32 and conversion (R133, R134), lane access (R135).
-/
namespace Sys2Proof.Machine

/-- Signed division truncating toward zero, and its remainder (R126). -/
def sdivW (n : Nat) (x y : BitVec n) : BitVec n := if y = 0 then BitVec.allOnes n else BitVec.ofInt n (x.toInt.tdiv y.toInt)
def sremW (n : Nat) (x y : BitVec n) : BitVec n := if y = 0 then x else BitVec.ofInt n (x.toInt.tmod y.toInt)
/-- Unsigned division and remainder (R126). -/
def udivW (n : Nat) (x y : BitVec n) : BitVec n := if y = 0 then BitVec.allOnes n else BitVec.ofNat n (x.toNat / y.toNat)
def uremW (n : Nat) (x y : BitVec n) : BitVec n := if y = 0 then x else BitVec.ofNat n (x.toNat % y.toNat)
/-- The shift amount of an n-bit uniform shift: for 64 bits the low half of the pair xb, modulo n (R125). -/
def amtN (n : Nat) (b : BitVec n) : Nat := b.toNat % 2 ^ 32 % n

/-- `sadd` (R125) on n bits. -/
def saddVal (n : Nat) (a b : BitVec n) : BitVec n := a + b
/-- `sadd` (R125). -/
def execSadd (sm w : Bool) (xd xa xb : Nat) (s : State) : Out := uniW 4 sm w saddVal xd xa xb s
/-- `ssub` (R125) on n bits. -/
def ssubVal (n : Nat) (a b : BitVec n) : BitVec n := a - b
/-- `ssub` (R125). -/
def execSsub (sm w : Bool) (xd xa xb : Nat) (s : State) : Out := uniW 4 sm w ssubVal xd xa xb s
/-- `smul` (R125) on n bits. -/
def smulVal (n : Nat) (a b : BitVec n) : BitVec n := a * b
/-- `smul` (R125). -/
def execSmul (sm w : Bool) (xd xa xb : Nat) (s : State) : Out := uniW 4 sm w smulVal xd xa xb s
/-- `smulh` (R125) on n bits. -/
def smulhVal (n : Nat) (a b : BitVec n) : BitVec n := BitVec.ofInt n (a.toInt * b.toInt / 2 ^ n)
/-- `smulh` (R125). -/
def execSmulh (sm w : Bool) (xd xa xb : Nat) (s : State) : Out := uniW 4 sm w smulhVal xd xa xb s
/-- `sand` (R125) on n bits. -/
def sandVal (n : Nat) (a b : BitVec n) : BitVec n := a &&& b
/-- `sand` (R125). -/
def execSand (sm w : Bool) (xd xa xb : Nat) (s : State) : Out := uniW 4 sm w sandVal xd xa xb s
/-- `sor` (R125) on n bits. -/
def sorVal (n : Nat) (a b : BitVec n) : BitVec n := a ||| b
/-- `sor` (R125). -/
def execSor (sm w : Bool) (xd xa xb : Nat) (s : State) : Out := uniW 4 sm w sorVal xd xa xb s
/-- `sxor` (R125) on n bits. -/
def sxorVal (n : Nat) (a b : BitVec n) : BitVec n := a ^^^ b
/-- `sxor` (R125). -/
def execSxor (sm w : Bool) (xd xa xb : Nat) (s : State) : Out := uniW 4 sm w sxorVal xd xa xb s
/-- `smulhu` (R125) on n bits. -/
def smulhuVal (n : Nat) (a b : BitVec n) : BitVec n := BitVec.ofNat n (a.toNat * b.toNat / 2 ^ n)
/-- `smulhu` (R125). -/
def execSmulhu (sm w : Bool) (xd xa xb : Nat) (s : State) : Out := uniW 4 sm w smulhuVal xd xa xb s
/-- `sshl` (R125) on n bits. -/
def sshlVal (n : Nat) (a b : BitVec n) : BitVec n := a <<< amtN n b
/-- `sshl` (R125). -/
def execSshl (sm w : Bool) (xd xa xb : Nat) (s : State) : Out := uniW 4 sm w sshlVal xd xa xb s
/-- `sshr` (R125) on n bits. -/
def sshrVal (n : Nat) (a b : BitVec n) : BitVec n := a >>> amtN n b
/-- `sshr` (R125). -/
def execSshr (sm w : Bool) (xd xa xb : Nat) (s : State) : Out := uniW 4 sm w sshrVal xd xa xb s
/-- `ssra` (R125) on n bits. -/
def ssraVal (n : Nat) (a b : BitVec n) : BitVec n := a.sshiftRight (amtN n b)
/-- `ssra` (R125). -/
def execSsra (sm w : Bool) (xd xa xb : Nat) (s : State) : Out := uniW 4 sm w ssraVal xd xa xb s
/-- `sandn` (R125) on n bits. -/
def sandnVal (n : Nat) (a b : BitVec n) : BitVec n := a &&& ~~~b
/-- `sandn` (R125). -/
def execSandn (sm w : Bool) (xd xa xb : Nat) (s : State) : Out := uniW 4 sm w sandnVal xd xa xb s
/-- `smin` (R125) on n bits. -/
def sminVal (n : Nat) (a b : BitVec n) : BitVec n := if a.slt b then a else b
/-- `smin` (R125). -/
def execSmin (sm w : Bool) (xd xa xb : Nat) (s : State) : Out := uniW 4 sm w sminVal xd xa xb s
/-- `smax` (R125) on n bits. -/
def smaxVal (n : Nat) (a b : BitVec n) : BitVec n := if a.slt b then b else a
/-- `smax` (R125). -/
def execSmax (sm w : Bool) (xd xa xb : Nat) (s : State) : Out := uniW 4 sm w smaxVal xd xa xb s
/-- `sminu` (R125) on n bits. -/
def sminuVal (n : Nat) (a b : BitVec n) : BitVec n := if a.ult b then a else b
/-- `sminu` (R125). -/
def execSminu (sm w : Bool) (xd xa xb : Nat) (s : State) : Out := uniW 4 sm w sminuVal xd xa xb s
/-- `smaxu` (R125) on n bits. -/
def smaxuVal (n : Nat) (a b : BitVec n) : BitVec n := if a.ult b then b else a
/-- `smaxu` (R125). -/
def execSmaxu (sm w : Bool) (xd xa xb : Nat) (s : State) : Out := uniW 4 sm w smaxuVal xd xa xb s
/-- `sdiv` (R126) on n bits. -/
def sdivVal (n : Nat) (a b : BitVec n) : BitVec n := sdivW n a b
/-- `sdiv` (R126). -/
def execSdiv (sm w : Bool) (xd xa xb : Nat) (s : State) : Out := uniW 4 sm w sdivVal xd xa xb s
/-- `sdivu` (R126) on n bits. -/
def sdivuVal (n : Nat) (a b : BitVec n) : BitVec n := udivW n a b
/-- `sdivu` (R126). -/
def execSdivu (sm w : Bool) (xd xa xb : Nat) (s : State) : Out := uniW 4 sm w sdivuVal xd xa xb s
/-- `srem` (R126) on n bits. -/
def sremVal (n : Nat) (a b : BitVec n) : BitVec n := sremW n a b
/-- `srem` (R126). -/
def execSrem (sm w : Bool) (xd xa xb : Nat) (s : State) : Out := uniW 4 sm w sremVal xd xa xb s
/-- `sremu` (R126) on n bits. -/
def sremuVal (n : Nat) (a b : BitVec n) : BitVec n := uremW n a b
/-- `sremu` (R126). -/
def execSremu (sm w : Bool) (xd xa xb : Nat) (s : State) : Out := uniW 4 sm w sremuVal xd xa xb s
/-- Short `sadd a, b` (R100). -/
def execShortSadd (a b : Nat) (s : State) : Out := uniW 2 false false saddVal a a b s
/-- Short `ssub a, b` (R100). -/
def execShortSsub (a b : Nat) (s : State) : Out := uniW 2 false false ssubVal a a b s
/-- Short `smov a, b` (R100): `sadd` of xb and x0. -/
def execShortSmov (a b : Nat) (s : State) : Out := uniW 2 false false saddVal a b 0 s
/-- `saddi` (R127). -/
def saddiVal (imm : Int) (a : Word) : Word := a + BitVec.ofInt 32 imm
/-- `saddi` (R127). -/
def execSaddi (sm : Bool) (xd xa : Nat) (imm : Int) (s : State) : Out := uniOp1 4 sm (saddiVal imm) xd xa s
/-- `sandi` (R127). -/
def sandiVal (imm : Nat) (a : Word) : Word := a &&& BitVec.ofNat 32 imm
/-- `sandi` (R127). -/
def execSandi (sm : Bool) (xd xa : Nat) (imm : Nat) (s : State) : Out := uniOp1 4 sm (sandiVal imm) xd xa s
/-- `sori` (R127). -/
def soriVal (imm : Nat) (a : Word) : Word := a ||| BitVec.ofNat 32 imm
/-- `sori` (R127). -/
def execSori (sm : Bool) (xd xa : Nat) (imm : Nat) (s : State) : Out := uniOp1 4 sm (soriVal imm) xd xa s
/-- `sxori` (R127). -/
def sxoriVal (imm : Nat) (a : Word) : Word := a ^^^ BitVec.ofNat 32 imm
/-- `sxori` (R127). -/
def execSxori (sm : Bool) (xd xa : Nat) (imm : Nat) (s : State) : Out := uniOp1 4 sm (sxoriVal imm) xd xa s
/-- Short `saddi a, b` (R100): the immediate is b sign-extended. -/
def execShortSaddi (a b : Nat) (s : State) : Out := uniOp1 2 false (saddiVal (sext 4 b)) a a s
/-- `sshli` (R127) on n bits. -/
def sshliVal (amt n : Nat) (a : BitVec n) : BitVec n := a <<< amt
/-- `sshli` (R127). -/
def execSshli (sm w : Bool) (xd xa amt : Nat) (s : State) : Out := uniW1 4 sm w (sshliVal amt) xd xa s
/-- `sshri` (R127) on n bits. -/
def sshriVal (amt n : Nat) (a : BitVec n) : BitVec n := a >>> amt
/-- `sshri` (R127). -/
def execSshri (sm w : Bool) (xd xa amt : Nat) (s : State) : Out := uniW1 4 sm w (sshriVal amt) xd xa s
/-- `ssrai` (R127) on n bits. -/
def ssraiVal (amt n : Nat) (a : BitVec n) : BitVec n := a.sshiftRight amt
/-- `ssrai` (R127). -/
def execSsrai (sm w : Bool) (xd xa amt : Nat) (s : State) : Out := uniW1 4 sm w (ssraiVal amt) xd xa s
/-- Short `sshli a, b, c` (R100): the amount is b + 16c. -/
def execShortSshli (a b c : Nat) (s : State) : Out := uniW1 2 false false (sshliVal (b + 16 * c)) a a s
/-- A uniform constant (R128). -/
def uniConst (len : Nat) (sm : Bool) (v : Word) (xd : Nat) (s : State) : Out :=
  word s [xd] fun u g => fin s u sm len (writeU s g xd v)
/-- `smovi` (R128). -/
def execSmovi (sm : Bool) (xd : Nat) (imm : Int) (s : State) : Out := uniConst 4 sm (BitVec.ofInt 32 imm) xd s
/-- `slui` (R128). -/
def execSlui (sm : Bool) (xd imm : Nat) (s : State) : Out := uniConst 4 sm (BitVec.ofNat 32 (imm * 2 ^ 15)) xd s
/-- `smovl` (R91, R128): two words, one instruction. -/
def execSmovl (sm : Bool) (xd imm : Nat) (s : State) : Out := uniConst 8 sm (BitVec.ofNat 32 imm) xd s
/-- `ssel` (R129). -/
def execSsel (sm : Bool) (cnd : Cond) (xd xa xb : Nat) (s : State) : Out :=
  word s [xd, xa, xb] fun u g => fin s u sm 4 (writeU s g xd (if condHolds s g cnd then uni s g xa else uni s g xb))
/-- A word that sets the flags (R122, R130). -/
def flagWord (len : Nat) (sm : Bool) (named : List Nat) (f : State → Group → Flags) (s : State) : Out :=
  word s named fun u g => fin s u sm len (writeFlags s g (f s g))
/-- `scmp` (R130). -/
def scmpOp (len : Nat) (sm w : Bool) (xa xb : Nat) (s : State) : Out :=
  if w then flagWord len sm [xa, xa + 1, xb, xb + 1] (fun s g => cmpFlags (pair64 s g xa) (pair64 s g xb)) s
  else flagWord len sm [xa, xb] (fun s g => cmpFlags (uni s g xa) (uni s g xb)) s
/-- `scmp` (R130). -/
def execScmp (sm w : Bool) (xa xb : Nat) (s : State) : Out := scmpOp 4 sm w xa xb s
/-- Short `scmp a, b` (R100). -/
def execShortScmp (a b : Nat) (s : State) : Out := scmpOp 2 false false a b s
/-- `scmpi` (R130). -/
def execScmpi (sm : Bool) (xa : Nat) (imm : Int) (s : State) : Out :=
  flagWord 4 sm [xa] (fun s g => cmpFlags (uni s g xa) (BitVec.ofInt 32 imm)) s
/-- `sfcmp` (R131). -/
def execSfcmp (sm : Bool) (xa xb : Nat) (s : State) : Out :=
  flagWord 4 sm [xa, xb] (fun s g => fcmpFlags (uni s g xa) (uni s g xb)) s
/-- `spopc` (R132): with w the pair, its high half zero. -/
def execSpopc (sm w : Bool) (xd xa : Nat) (s : State) : Out := uniW1 4 sm w (fun n a => BitVec.ofNat n (popc n a.toNat)) xd xa s
/-- `sclz` (R132). -/
def execSclz (sm w : Bool) (xd xa : Nat) (s : State) : Out := uniW1 4 sm w (fun n a => BitVec.ofNat n (clz n a.toNat)) xd xa s
/-- `sfadd` (R133). -/
def execSfadd (sm : Bool) (xd xa xb : Nat) (s : State) : Out := uniOp 4 sm (vfaddVal .rne 0) xd xa xb s
/-- `sfsub` (R133). -/
def execSfsub (sm : Bool) (xd xa xb : Nat) (s : State) : Out := uniOp 4 sm (vfsubVal .rne 0) xd xa xb s
/-- `sfmul` (R133). -/
def execSfmul (sm : Bool) (xd xa xb : Nat) (s : State) : Out := uniOp 4 sm (vfmulVal .rne 0) xd xa xb s
/-- `sfma` (R133). -/
def execSfma (sm : Bool) (xd xa xb : Nat) (s : State) : Out := uniOp 4 sm (vfmaVal .rne 0) xd xa xb s
/-- `scvt` of one value, always RNE (R134). -/
def scvt (k : ScvtKind) (a : Word) : Word :=
  match k with
  | .f32Int => cvt .f32Int .rne 0 a
  | .f32Uint => cvt .f32Uint .rne 0 a
  | .intF32 => cvt .intF32 .rne 0 a
  | .uintF32 => cvt .uintF32 .rne 0 a
/-- `scvt` (R134). -/
def execScvt (sm : Bool) (kind : ScvtKind) (xd xa : Nat) (s : State) : Out := uniOp1 4 sm (scvt kind) xd xa s
/-- `sget` (R135). -/
def execSget (sm : Bool) (xd xa xb : Nat) (s : State) : Out :=
  word s [xd, xa, xb] fun u g =>
    let L := (uni s g xb).toNat
    fin s u sm 4 (writeU s g xd (if L < g.gwid then lane s g xa L else 0))
/-- `sset` (R135): it reads xd, so under a breach the other lanes keep a value that R93 permits. -/
def execSset (sm : Bool) (xd xa xb : Nat) (s : State) : Out :=
  word s [xd, xa, xb] fun u g =>
    let L := (uni s g xb).toNat
    fin s u sm 4 (if L < g.gwid then writeX s g xd (full g) fun l => if l = L then uni s g xa else lane s g xd l else g)

end Sys2Proof.Machine
end

