-- ==== Sys2Proof/Machine/Control.lean ====
section
/-!
DEFINITION. Control: branches (R136, R137), structured divergence (R50-R54, R138-R144) and mask words (R145).
-/
namespace Sys2Proof.Machine

/-- Control passes to a code offset as a word retires. -/
def goto (s : State) (u : Nat) (g : Group) (sm : Bool) (pc : Nat) : State := setGroup s u (retireAt g sm pc)
/-- `br` (R136). -/
def brOp (len : Nat) (sm : Bool) (cnd : Cond) (off : Int) (s : State) : Out :=
  acting s fun u g => goto s u g sm (if condHolds s g cnd then target s g off else g.pc + len)
/-- `br` (R136). -/
def execBr (sm : Bool) (cnd : Cond) (off : Int) (s : State) : Out := brOp 4 sm cnd off s
/-- Short `br` (R100): cnd = c, the offset a:b sign-extended, in parcels. -/
def execShortBr (a b c : Nat) (s : State) : Out := brOp 2 false ((Cond.ofCode c).getD .al) (sext 8 (a * 16 + b)) s
/-- The group after a call: the return offset in x31, the call level one up (R136, R137). -/
def callGroup (s : State) (g : Group) : Group :=
  { writeU s g 31 (BitVec.ofNat 32 (g.pc + 4)) with level := (g.level + 1) % 2 ^ 16 }
/-- `call` (R136), which writes x31. -/
def execCall (sm : Bool) (cnd : Cond) (off : Int) (s : State) : Out :=
  word s [31] fun u g =>
    if condHolds s g cnd then goto s u (callGroup s g) sm (target s g off) else fin s u sm 4 g
/-- `jmpr` (R137). -/
def execJmpr (sm : Bool) (xa : Nat) (s : State) : Out :=
  word s [xa] fun u g =>
    let t := (uni s g xa).toNat
    if aligned s g t then goto s u g sm t else raise s u g 0x04
/-- `ret` (R137), which reads x31. -/
def execRet (sm : Bool) (s : State) : Out :=
  word s [31] fun u g =>
    let t := (uni s g 31).toNat
    if aligned s g t then goto s u { g with level := (g.level + 2 ^ 16 - 1) % 2 ^ 16 } sm t else raise s u g 0x04
/-- `callr` (R137): xa is read before x31 is written. -/
def execCallr (sm : Bool) (xa : Nat) (s : State) : Out :=
  word s [xa, 31] fun u g =>
    let t := (uni s g xa).toNat
    if aligned s g t then goto s u (callGroup s g) sm t else raise s u g 0x04

/-! ### Paths (R50-R54) -/

/-- A join entry's entered mask; a pending entry is no construct. -/
def entered : PathEntry → Option Mask
  | .split _ e _ => some e
  | .loop _ _ e _ => some e
  | .pending _ _ _ => none
/-- The construct of the active path: the most recent join entry that holds every active lane, by its place (R138). -/
def construct (g : Group) : Option Nat :=
  ((List.range g.table.length).filter fun i =>
    match (g.table[i]?).bind entered with
    | some e => e &&& g.active == g.active
    | none => false).getLast?
/-- The oldest pending path: the greatest age, and among equal ages the first created (R51). -/
def oldest (t : List PathEntry) : Option (Nat × Mask × Nat × Nat) :=
  (List.range t.length).foldl (fun (m : Option (Nat × Mask × Nat × Nat)) (i : Nat) =>
    match t[i]? with
    | some (.pending k r a) =>
      (match m with
       | some q => if q.2.2.2 < a then some (i, k, r, a) else m
       | none => some (i, k, r, a))
    | _ => m) none
/-- Every pending path one issue slot older (R51). -/
def ageTable (t : List PathEntry) : List PathEntry := t.map fun e =>
  match e with
  | .pending k r a => .pending k r (min (a + 1) 65535)
  | .split _ _ _ | .loop _ _ _ _ => e
/-- The active path ends: the oldest pending path becomes active, or cause 0x09 without one (R54, R138). -/
def endPath (s : State) (u : Nat) (g0 g : Group) (sm : Bool) : State :=
  match oldest g.table with
  | some (i, k, r, _) => goto s u { g with table := g.table.eraseIdx i, active := k } sm r
  | none => raise s u g0 0x09
/-- The switch of a yield point (R53): the active path becomes pending with age 0, to resume at its pc. -/
def yieldAt (g : Group) : Group :=
  match oldest g.table with
  | some (i, k, r, a) =>
    if g.agelim.toNat ≤ a then { g with table := g.table.eraseIdx i ++ [.pending g.active g.pc 0], active := k, pc := r } else g
  | none => g
/-- `dif` (R139): the room of the table (0x08, R144) is tested before the partner (0x09, R138), being the lower cause (R110). -/
def execDif (sm : Bool) (kc : Nat) (off : Int) (s : State) : Out :=
  acting s fun u g =>
    let p := target s g off
    let A := g.active
    let T := A &&& kRead s g kc
    let E := A &&& ~~~(kRead s g kc)
    if 32 < g.table.length + (if T = 0 || E = 0 then 1 else 2) then raise s u g 0x08
    else match instrAt s u g p with
      | some (.delse _ _, n) => difTo s u g sm T E (p + n)
      | some (.dend _, _) => difTo s u g sm T E p
      | some (.shortDend, _) => difTo s u g sm T E p
      | _ => raise s u g 0x09
where
  /-- The split with E's resume word q (R139). -/
  difTo (s : State) (u : Nat) (g : Group) (sm : Bool) (T E : Mask) (q : Nat) : State :=
    let t := g.table ++ [.split g.pc g.active 0] ++ (if T = 0 || E = 0 then [] else [.pending E q 0])
    if T = 0 then goto s u { g with table := t } sm q
    else fin s u sm 4 { g with table := t, active := T }
/-- `delse` and `dend` close an arm (R140, R141): `after` is where the joined path goes on. -/
def closeSplit (s : State) (u : Nat) (g : Group) (sm : Bool) (after : Nat) : State :=
  match construct g with
  | some i =>
    match g.table[i]? with
    | some (.split key ent arr) =>
      let arr' := arr ||| g.active
      if arr' = ent then goto s u { g with table := g.table.eraseIdx i, active := ent } sm after
      else endPath s u g { g with table := g.table.set i (.split key ent arr') } sm
    | _ => raise s u g 0x09
  | none => raise s u g 0x09
/-- `delse` (R140). -/
def execDelse (sm : Bool) (off : Int) (s : State) : Out :=
  acting s fun u g =>
    let p := target s g off
    match instrAt s u g p with
    | some (.dend _, n) => closeSplit s u g sm (p + n)
    | some (.shortDend, n) => closeSplit s u g sm (p + n)
    | _ => raise s u g 0x09
/-- `dend` (R141). -/
def execDend (sm : Bool) (s : State) : Out := acting s fun u g => closeSplit s u g sm (g.pc + 4)
/-- Short `dend` (R100). -/
def execShortDend (s : State) : Out := acting s fun u g => closeSplit s u g false (g.pc + 2)
/-- The loop entry for a `dloop` at an address, and the table that holds it: the construct when it is that loop at this
call level, else a new entry (R138). -/
def loopEntry (g : Group) (key : Nat) : Nat × List PathEntry :=
  match construct g with
  | some i =>
    match g.table[i]? with
    | some (.loop k l _ _) => if k = key ∧ l = g.level then (i, g.table) else (g.table.length, g.table ++ [.loop key g.level g.active 0])
    | _ => (g.table.length, g.table ++ [.loop key g.level g.active 0])
  | none => (g.table.length, g.table ++ [.loop key g.level g.active 0])
/-- Lanes arrive at a loop's end (R142, R143). -/
def arrive (t : List PathEntry) (i : Nat) (m : Mask) : List PathEntry :=
  match t[i]? with
  | some (.loop k l e a) => t.set i (.loop k l e (a ||| m))
  | _ => t
/-- A loop closes when every lane that entered has arrived, else the path ends (R142, R143). -/
def closeLoop (s : State) (u : Nat) (g : Group) (t : List PathEntry) (i : Nat) (sm : Bool) (after : Nat) : State :=
  match t[i]? with
  | some (.loop _ _ e a) =>
    if a = e then goto s u { g with table := t.eraseIdx i, active := e } sm after
    else endPath s u g { g with table := t } sm
  | _ => raise s u g 0x09
/-- `dloop` (R142): a taken back-edge is a yield point (R53). -/
def execDloop (sm : Bool) (kc : Nat) (off : Int) (s : State) : Out :=
  acting s fun u g =>
    let le := loopEntry g g.pc
    let k := kRead s g kc
    let C := g.active &&& k
    if 32 < le.2.length then raise s u g 0x08
    else
      let t := arrive le.2 le.1 (g.active &&& ~~~k)
      if C != 0 then setGroup s u (yieldAt (retireAt { g with table := t, active := C } sm (target s g off)))
      else closeLoop s u g t le.1 sm (g.pc + 4)
/-- `dbrk` (R143). -/
def execDbrk (sm : Bool) (kc : Nat) (off : Int) (s : State) : Out :=
  acting s fun u g =>
    let p := target s g off
    let le := loopEntry g p
    let k := kRead s g kc
    let rest := g.active &&& ~~~k
    if 32 < le.2.length then raise s u g 0x08
    else match instrAt s u g p with
      | some (.dloop _ _ _, n) =>
        let t := arrive le.2 le.1 (g.active &&& k)
        if rest != 0 then fin s u sm 4 { g with table := t, active := rest }
        else closeLoop s u g t le.1 sm (p + n)
      | _ => raise s u g 0x09

/-! ### Mask words (R145) -/

/-- A mask word that writes a mask. -/
def maskWord (sm : Bool) (f : State → Group → Mask) (kd : Nat) (named : List Nat) (s : State) : Out :=
  word s named fun u g => fin s u sm 4 (writeK s g kd (f s g))
/-- `kand` (R145). -/
def execKand (sm : Bool) (kd ka kb : Nat) (s : State) : Out := maskWord sm (fun s g => kRead s g ka &&& kRead s g kb) kd [] s
/-- `kor` (R145). -/
def execKor (sm : Bool) (kd ka kb : Nat) (s : State) : Out := maskWord sm (fun s g => kRead s g ka ||| kRead s g kb) kd [] s
/-- `kxor` (R145). -/
def execKxor (sm : Bool) (kd ka kb : Nat) (s : State) : Out := maskWord sm (fun s g => kRead s g ka ^^^ kRead s g kb) kd [] s
/-- `kandn` (R145). -/
def execKandn (sm : Bool) (kd ka kb : Nat) (s : State) : Out := maskWord sm (fun s g => kRead s g ka &&& ~~~(kRead s g kb)) kd [] s
/-- `knot` (R145). -/
def execKnot (sm : Bool) (kd ka : Nat) (s : State) : Out := maskWord sm (fun s g => ~~~(kRead s g ka)) kd [] s
/-- `kmov` (R145). -/
def execKmov (sm : Bool) (kd ka : Nat) (s : State) : Out := maskWord sm (fun s g => kRead s g ka) kd [] s
/-- `kset` (R145): the active path mask. -/
def execKset (sm : Bool) (kd : Nat) (s : State) : Out := maskWord sm (fun _ g => g.active) kd [] s
/-- `kfrom` (R145). -/
def execKfrom (sm : Bool) (kd xa : Nat) (s : State) : Out :=
  maskWord sm (fun s g => BitVec.ofNat 64 (uniPair s g xa)) kd [xa, xa + 1] s
/-- `kpopc` (R145). -/
def execKpopc (sm : Bool) (xa ka : Nat) (s : State) : Out :=
  word s [xa] fun u g => fin s u sm 4 (writeU s g xa (BitVec.ofNat 32 (lanesOf g.gwid (kRead s g ka)).length))
/-- `kfirst` (R145). -/
def execKfirst (sm : Bool) (xa ka : Nat) (s : State) : Out :=
  word s [xa] fun u g => fin s u sm 4 (writeU s g xa
    (match lanesOf g.gwid (kRead s g ka) with | L :: _ => BitVec.ofNat 32 L | [] => 0xFFFFFFFF))
/-- `kget` (R145). -/
def execKget (sm : Bool) (xa ka : Nat) (s : State) : Out :=
  word s [xa, xa + 1] fun u g => fin s u sm 4 (writeUPair s g xa (kRead s g ka &&& full g).toNat)

end Sys2Proof.Machine
end

