-- ==== Sys2Proof/Machine/Sched.lean ====
section
/-!
DEFINITION. The life of grids, blocks and groups (R40-R65, R148, R152, R201, R282, R298, R324, R335-R340, R370, R375): launching, placing,
barriers, phases, exits, retirement and completion.
-/
namespace Sys2Proof.Machine

/-! ### Barrier words (R150, R152) -/

/-- One arrival on a barrier word: the phase arrived in and the new word, or nothing when EXPECT or PENDING is zero. -/
def barrierArrive (w : Nat) : Option (Nat × Nat) :=
  let ph := w / 2 ^ 48 % 2 ^ 16
  let pend := w / 2 ^ 24 % 2 ^ 24
  let ex := w % 2 ^ 24
  if ex = 0 || pend = 0 then none
  else if pend = 1 then some (ph, (ph + 1) % 2 ^ 16 * 2 ^ 48 + ex * 2 ^ 24 + ex)
  else some (ph, ph * 2 ^ 48 + (pend - 1) * 2 ^ 24 + ex)
/-- PHASE of a barrier word. -/
def barrierPhase (w : Nat) : Nat := w / 2 ^ 48 % 2 ^ 16

/-! ### Events (R324) -/

/-- An event record of 32 bytes, DROPS left zero until it is queued. -/
def eventRecord (kind die arg0 arg1 seq drops : Nat) : List Nat :=
  ((leBytes 2 kind ++ leBytes 2 die ++ leBytes 4 arg0 ++ leBytes 8 arg1 ++ leBytes 4 seq ++ leBytes 4 drops ++ leBytes 8 0).map (·.toNat))
/-- A record is posted to a context: queued, or dropped and counted when the queue is full or no event kernel exists (R324). -/
def postEvent (s : State) (c kind die arg0 arg1 : Nat) : State :=
  let seq := mgetD s.evSeq die 0
  let s := { s with evSeq := mset s.evSeq die (seq + 1) }
  modCtx s c fun x =>
    let known := match x.evk with
      | some (img, k) => (match x.images[img]? with | some im => decide (k < im.kernels.length) | none => false)
      | none => false
    if known && decide (x.events.length < 256) then
      { x with events := x.events ++ [eventRecord kind die arg0 arg1 seq x.drops], drops := 0 }
    else { x with drops := x.drops + 1 }
/-- The resident contexts (R308). -/
def residents (s : State) : List Nat := (s.ctxs.filter fun e => e.2.cst != 0).map (·.1)
/-- A record posted to every resident context (R324). -/
def postAll (s : State) (kind die arg0 arg1 : Nat) : State :=
  (residents s).foldl (fun s c => postEvent s c kind die arg0 arg1) s

/-! ### Resources of a core (R43-R45, R60, R64) -/

/-- Blocks that have their groups on a core. -/
def runningOn (s : State) (core : Nat) : List (Nat × Block) := s.blocks.filter fun e => e.2.core == core && e.2.st == .running
/-- Blocks whose allocation lies on a core: running or between phases (R58). -/
def allocatedOn (s : State) (core : Nat) : List (Nat × Block) :=
  s.blocks.filter fun e => e.2.core == core && (e.2.st == .running || e.2.st == .queued)
/-- The groups that hold a slot on a core (R44). -/
def groupsOn (s : State) (core : Nat) : List (Nat × Group) :=
  let there := (runningOn s core).map (·.1)
  s.groups.filter fun e => !e.2.exited && there.contains e.2.block
/-- The slots in use. -/
def slotsUsed (s : State) (core : Nat) : List Nat := (groupsOn s core).map (·.2.slot)
/-- The register slabs in use (R44, R60). -/
def slabsUsed (s : State) (core : Nat) : Nat := ((groupsOn s core).map fun e => e.2.gwid / 8 * (1 + e.2.ext)).foldl (· + ·) 0
/-- The kernel of a grid. -/
def gridKernel (s : State) (gr : Grid) : Option Kernel := kernelOf s gr.ctx gr.img gr.kern
/-- The bytes of a block's phase record (R56). -/
def recordSize (carry : List Word) (ngrp gwid : Nat) : Nat :=
  ngrp * (256 + 4 * gwid * ((carry.map fun c => popc 32 c.toNat).foldl max 0))
/-- The phase-record size of a grid's blocks. -/
def gridRecord (s : State) (gr : Grid) : Nat :=
  match gridKernel s gr with | some k => recordSize k.carry gr.ngrp gr.gwid | none => 0
/-- The record of a block's grid. -/
def blockRecord (s : State) (b : Block) : Nat := match mget s.grids b.grid with | some gr => gridRecord s gr | none => 0
/-- The grids with an outstanding-counter entry on a core (R64). -/
def entriesOn (s : State) (core : Nat) : List Nat :=
  dedup ((allocatedOn s core).map (·.2.grid) ++ (s.grids.filter fun e => decide (0 < mgetD e.2.out core 0)).map (·.1))
/-- A core runs a deterministic context alone (R344). -/
def detFits (s : State) (core c : Nat) : Bool :=
  (allocatedOn s core).all fun e => e.2.ctx == c || (!(ctxOf s e.2.ctx).det && !(ctxOf s c).det)
/-- The allocations on a core: first core offset and size. -/
def spansOn (s : State) (core : Nat) : List (Nat × Nat) := (allocatedOn s core).map fun e => (e.2.base, e.2.lmem)
/-- Where an allocation of n bytes starts in the block space of a core (R201): the lowest gap of whole lines that holds it (log entry 18). -/
def freeBase (s : State) (core n : Nat) : Option Nat :=
  let a := spansOn s core
  (sortAsc (0 :: a.map fun p => p.1 + p.2)).find? fun o =>
    decide (o + n ≤ 0x58000) && (n == 0 || a.all fun p => !(decide (o < p.1 + p.2) && decide (p.1 < o + n)))
/-- The register slabs that the extended blocks of a block's groups take (R44, R60). -/
def extUsed (s : State) (blk : Nat) : Nat :=
  ((s.groups.filter fun e => e.2.block == blk && !e.2.exited).map fun e => e.2.gwid / 8 * e.2.ext).foldl (· + ·) 0
/-- What a block needs free at once on a core (R45); `back` is the block that returns, with its extended blocks, its allocation and record
there already where it waits on that core for its next phase. -/
def fits (s : State) (core grid : Nat) (gr : Grid) (back : Option Nat) : Bool :=
  let al := allocatedOn s core
  let own := match back with | some blk => al.any fun e => e.1 == blk | none => false
  let ext := match back with | some blk => extUsed s blk | none => 0
  coreEnabled s core && detFits s core gr.ctx
    && decide ((slotsUsed s core).length + gr.ngrp ≤ 32)
    && decide (slabsUsed s core + gr.ngrp * gr.gwid / 8 + ext ≤ 128)
    && (own || ((freeBase s core gr.lmem).isSome
        && decide ((al.map fun e => blockRecord s e.2).foldl (· + ·) 0 + gridRecord s gr ≤ 12288)))
    && ((entriesOn s core).contains grid || decide ((entriesOn s core).length < 16))
/-- The power region of a core's die (R27). -/
def regionOfDie (d : Nat) : Nat := dieRow d / 4 * 4 + dieCol d / 6
/-- The gate of a region admits one more start in this step (R29). -/
def gateOpen (s : State) (d : Nat) : Bool :=
  let r := regionOf s (regionOfDie d)
  let bchg := r.cstep.toNat / 2 ^ 16 % 256
  bchg == 0 || r.admitted == 0 || decide (bchg * r.admitted ≤ r.cstep.toNat % 4096)
/-- A start is admitted. -/
def gateAdmit (s : State) (d : Nat) : State := modRegion s (regionOfDie d) fun r => { r with admitted := r.admitted + 1 }
/-- A launch's offset has run in the region of a die (R29). -/
def offsetRun (s : State) (gr : Grid) (d : Nat) : Bool :=
  match gr.startAt.find? fun p => p.1 == regionOfDie d with
  | some p => decide (p.2 ≤ (regionOf s (regionOfDie d)).steps)
  | none => true

/-! ### Launching (R40, R41, R63, R370, R375) -/

/-- The launch parameter block (R370), 16 words and the completion word's pair. -/
structure LaunchArgs where
  img : Nat
  kern : Nat
  gdx : Nat
  gdy : Nat
  gdz : Nat
  ngrp : Nat
  gwid : Nat
  cls : Nat
  lmem : Nat
  sets : Nat
  ways : Nat
  gran : Nat
  param : DWord
  uhnd : Word
  deps : List (Int × Int × Int)
  deriving DecidableEq, Repr
/-- A dependence vector's components (R370). -/
def depOf (w : Nat) : Int × Int × Int := (sext 4 (fld w 3 0), sext 4 (fld w 7 4), sext 4 (fld w 11 8))
/-- The version that blocks enter is runnable here (R282). -/
def runnable (k : Kernel) : Bool :=
  match k.entry with
  | some e => (match mget k.vers e with | some v => !v.nform || v.profile == 0x0101 | none => false)
  | none => false
/-- A launch's 16 words checked: every limit of R40, R41, R56, R204, R282, R370 and R375, or nothing (cause 0x0D). -/
def launchArgs (s : State) (c : Nat) (p : List Word) : Option LaunchArgs :=
  let w (i : Nat) : Nat := (p.getD i 0).toNat
  match kernelOf s c (w 0 / 2 ^ 16) (w 0 % 2 ^ 16) with
  | none => none
  | some k =>
    let ngrp := fld (w 5) 4 0
    let gwid := 8 * 2 ^ fld (w 5) 9 8
    let lmem := if w 6 = 0 then k.lmem else w 6
    let sets := fld (w 7) 10 0
    let ways := 2 ^ fld (w 7) 12 11
    let gran := fld (w 7) 20 16
    let nd := w 11 % 8
    let deps := (List.range nd).map fun i => depOf (w (12 + i))
    let prod := w 2 * w 3 * w 4
    if w 1 = 0 && runnable k
      && decide (1 ≤ w 2) && decide (1 ≤ w 3 ∧ w 3 ≤ 65535) && decide (1 ≤ w 4 ∧ w 4 ≤ 65535) && decide (prod ≤ 0xFFFFFFFF)
      && fld (w 5) 31 12 == 0 && fld (w 5) 7 5 == 0 && decide (1 ≤ ngrp ∧ ngrp ≤ 16)
      && decide (lmem ≤ 360448) && lmem % 128 == 0
      && fld (w 7) 31 21 == 0 && fld (w 7) 15 13 == 0
      && (sets == 0 || (decide (sets = 2 ^ sets.log2) && decide (sets * ways ≤ 1024) && decide (8 * sets * ways ≤ lmem)
          && decide (7 ≤ gran ∧ gran ≤ 16)))
      && decide (recordSize k.carry ngrp gwid ≤ 8192) && decide (k.carry.length ≤ 256)
      && decide (w 11 < 5)
      && ((List.range nd).all fun i => fld (w (12 + i)) 31 12 == 0)
      && (deps.all fun d => decide (d.1 ≤ 0 ∧ d.2.1 ≤ 0 ∧ d.2.2 ≤ 0) && !(d == (0, 0, 0)))
      && (nd == 0 || decide (prod ≤ 16777216)) then
      some { img := w 0 / 2 ^ 16, kern := w 0 % 2 ^ 16, gdx := w 2, gdy := w 3, gdz := w 4, ngrp := ngrp, gwid := gwid, cls := fld (w 5) 11 10, lmem := lmem, sets := sets, ways := ways, gran := gran, param := BitVec.ofNat 64 (w 8 + w 9 * 2 ^ 32), uhnd := p.getD 10 0, deps := deps }
    else none
/-- The enabled cores of a partition in logical order (R34). -/
def logicalCores (s : State) (part : List Nat) : List Nat :=
  part.flatMap fun d => ((List.range 960).map fun st => d * 1024 + st).filter (coreEnabled s)
/-- The enabled engines of a partition, die × 240 + cluster. -/
def partEngines (s : State) (part : List Nat) : List Nat :=
  part.flatMap fun d => ((List.range 240).filter (engineEnabled s d)).map fun cl => d * 240 + cl
/-- A grid id: nonzero and unique among the context's live grids (R372); which one is free. In a deterministic context it hangs on `key` alone, which
says what launches the grid, so that every run has the same (R334). -/
def freshGridId (s : State) (c key : Nat) : Word :=
  let used := (s.grids.filter fun e => e.2.ctx == c).map (·.2.gid)
  let pick (i : Nat) : Word := if (ctxOf s c).det then Config.detGridId key i else Config.gridId s.free
  let w := ((List.range (used.length + 1)).map pick).find? fun v => v != 0 && !used.contains v
  if let some w := w then w
  else match ((List.range (used.length + 1)).map fun i => BitVec.ofNat 32 (i + 1)).find? fun v => !used.contains v with
    | some v => v
    | none => 1
/-- The total number of blocks. -/
def Grid.size (gr : Grid) : Nat := gr.gdx * gr.gdy * gr.gdz
/-- Blocks that have no predecessor at all are ready at the launch (R375). -/
def rootsReady (gr : Grid) : List Nat :=
  if gr.deps.isEmpty then [] else (List.range gr.size).filter fun b => (predsOf gr b).isEmpty
/-- The starts of a launch, or a queued phase, join the queue of a region (R29). -/
def joinRegion (s : State) (n x : Nat) : State := modRegion s n fun r => if r.queue.contains x then r else { r with queue := r.queue ++ [x] }
/-- A launch that waits for no offset joins the queue of each region at once. -/
def joinLaunch (s : State) (x : Nat) : State :=
  (List.range 16).foldl (fun s n => if (regionOf s n).cstep.toNat / 2 ^ 24 = 0 then joinRegion s n x else s) s
/-- A new grid (R40, R41): its number, the grid, and the state; `key` says what launches it. -/
def newGrid (s : State) (c : Nat) (a : LaunchArgs) (depth key : Nat) (acq : List Vis) : Nat × Grid × State :=
  let part := (ctxOf s c).part
  let u := fresh s
  let gr : Grid :=
    { ctx := c, gid := freshGridId s c key, img := a.img, kern := a.kern, gdx := a.gdx, gdy := a.gdy, gdz := a.gdz, ngrp := a.ngrp, gwid := a.gwid, cls := a.cls, lmem := a.lmem, sets := a.sets, ways := a.ways, gran := a.gran, param := a.param, uhnd := a.uhnd, deps := a.deps, depth := depth, parent := none, arv := none, node := none, firing := none, committed := false, event := none, cores := logicalCores s part, engines := partEngines s part, startAt := (List.range 16).map fun r => (r, (regionOf s r).steps + (regionOf s r).cstep.toNat / 2 ^ 24), started := [], retired := [], ready := [], readyAt := [], out := [], round := 0, coinPos := 0, coinHeld := false, roundOld := [], oldBufs := [], acq := acq, rels := [], more := [], closed := false }
  let gr1 := { gr with ready := rootsReady gr }
  (u.1, gr1, joinLaunch { u.2 with grids := mset u.2.grids u.1 gr1 } u.1)

/-! ### Placing a block (R45, R46, R201, R282) -/

/-- The predecessors of a block have all retired (R375). -/
def depsMet (gr : Grid) (b : Nat) : Bool := (predsOf gr b).all fun p => gr.retired.contains p
/-- The next block of a grid to place: blocks are taken in the order they became ready, in ascending `bidx` where that
order does not tell and in a deterministic context (R45, R339, R375). -/
def nextBlock (det : Bool) (gr : Grid) : Option Nat :=
  if gr.deps.isEmpty then (if gr.started.length < gr.size then some gr.started.length else none)
  else
    let w := gr.ready.filter fun b => !gr.started.contains b
    (if det then sortAsc w else w).head?
/-- A group at its start (R46, R159): its strong loads perform from `now` on. -/
def startGroup (gr : Grid) (c grid blk gidx slot entry : Nat) (now : Times) : Group :=
  { ctx := c, grid := grid, block := blk, gidx := gidx, gwid := gr.gwid, slot := slot
    x := [(2, List.replicate gr.gwid (gr.param.setWidth 32)), (3, List.replicate gr.gwid ((gr.param >>> 32).setWidth 32))]
    k := [], win := [], flags := ⟨false, false, false, false⟩, histX := [], histK := [], histW := [], histF := []
    active := ones gr.gwid, table := [], level := 0, pc := 0, agelim := 4096, mode := 0, qthr := 0x7F800000, qscale := 127
    qside := 0, srx := 0, gang := 0, icnt := 0, spn := 0xFFFFFFFF, ver := entry, xstat := 0, xreq := none
    sup := false, scause := 0, sepc := 0, sfmask := 0, stok := 0, sretc := 0, faults := [], trapCmd := none, trapAt := 0, hstack := none
    uhnd := gr.uhnd, inUser := false, ext := 0, cnt := [], seen := [], waited := [], compl := [], pfSnap := [], park := none, halted := false
    exited := false, causes := [], replay := none, pub := [], got := [], ldTime := now, parkSeq := 0, words := [], trapping := none }
/-- The slots that the groups of a block take, in order of group index: the lowest free ones of the core. The spec leaves the choice open, and
with it the scan order of R49 (log entry 51). -/
def freeSlots (s : State) (core n : Nat) : List Nat := ((List.range 32).filter fun i => !(slotsUsed s core).contains i).take n
/-- Groups placed one after another; each acquires `acq`, and what has performed by then is visible to it (R228, R238). -/
def placeGroups (s : State) (gr : Grid) (c grid blk entry : Nat) (acq : List Vis) : List Nat → Nat → List Nat → State × List Nat
  | [], _, us => (s, us)
  | slot :: rest, i, us =>
    let f := fresh s
    let s1 := setGroup f.2 f.1 (startGroup gr c grid blk i slot entry (.upTo .sys f.1))
    placeGroups (markSeen (orderReads s1 f.1 .sys f.1) (agent f.1 0) acq) gr c grid blk entry acq rest (i + 1) (us ++ [f.1])
/-- The lines pinned on a core, of all contexts or of one. -/
def pinnedLines (s : State) (core : Nat) (c : Option Nat) : Nat :=
  (((coreOf s core).pins.filter fun p => c.isNone || c == some p.1).map fun p => p.2.2.2.length).foldl (· + ·) 0
/-- The lines a version pins on a core at its first fetch there (R298), as their offsets: list order, up to what is left of the context's
quota on the core (log entry 53) and of 16 KiB on the core; whether all were pinned. -/
def pinLines (s : State) (core c ver : Nat) (k : Kernel) : List Nat × Bool :=
  let want := (k.pins.filter fun w => w.toNat / 2 ^ 28 = ver).map fun w => w.toNat % 2 ^ 28
  let clen := match mget k.vers ver with | some v => v.code.length | none => 0
  let good := want.filter fun o => decide (o < clen)
  let room := min ((ctxOf s c).pinq / 128 - pinnedLines s core (some c)) (128 - pinnedLines s core none)
  (good.take room, decide (want.length ≤ (good.take room).length))
/-- A version's lines of code as they are pinned, from its offsets: fetched where the code lies in memory (R298). -/
def takeLines (s : State) (u c : Nat) (v : Option Version) (offs : List Nat) : List PinLine :=
  match v with
  | none => []
  | some v => offs.filterMap fun o => match v.va with
    | none => some { off := o, at_ := 0, behind := [], bytes := [] }
    | some b => fetchLine s u c b o v.code.length
/-- The walks and bytes that the fetch of lines reaches (R319). -/
def touchLines (s : State) (c : Nat) (v : Option Version) (offs : List Nat) : State :=
  match v.bind (·.va) with
  | none => s
  | some b => offs.foldl (fun s o => (List.range 32).foldl (fun s i => match resolve s c (b + o + 4 * i) 2 with
      | .ok pa => touchPa (touchVa s c (b + o + 4 * i)) c pa
      | .error _ => s) s) s
/-- Pinning of a version on a core by a group that fetches from it, with the shortfall event (R298, R324): once while groups of the context run it
there. A line that cannot be fetched is left unpinned. -/
def pinVersion (s : State) (u core c img kern ver : Nat) : State :=
  match kernelOf s c img kern with
  | none => s
  | some k =>
    if !k.pin || (coreOf s core).pins.any fun p => p.1 == c && p.2.1 == img * 2 ^ 16 + kern && p.2.2.1 == ver then s
    else
      let r := pinLines s core c ver k
      let ls := takeLines s u c (mget k.vers ver) r.1
      let s := modCore (touchLines s c (mget k.vers ver) r.1) core fun q => { q with pins := (c, img * 2 ^ 16 + kern, ver, ls) :: q.pins }
      if r.2 && ls.length == r.1.length then s else postEvent s c 5 (dieOf core) (ver * 2 ^ 16 + kern) (siteOf core)
/-- A version's lines are pinned as a group first fetches from it on a core (R298). -/
def pinFetch (s : State) (u : Nat) (g : Group) : State :=
  match mget s.grids g.grid, mget s.blocks g.block with
  | some gr, some b => if g.hstack.isSome then s else pinVersion s u b.core g.ctx gr.img gr.kern g.ver
  | _, _ => s
/-- A version with pinned lines runs on a core for a context. -/
def pinInUse (s : State) (core : Nat) (p : Nat × Nat × Nat × List PinLine) : Bool :=
  (groupsOn s core).any fun e => e.2.ctx == p.1 && e.2.ver == p.2.2.1 &&
    match mget s.grids e.2.grid with | some gr => gr.img * 2 ^ 16 + gr.kern == p.2.1 | none => false
/-- Lines stay pinned until no group of the context runs their version on the core (R298). -/
def unpin (s : State) : State :=
  if s.cores.all fun k => k.2.pins.isEmpty then s
  else { s with cores := s.cores.map fun k => (k.1, { k.2 with pins := k.2.pins.filter (pinInUse s k.1) }) }
/-- What a block acquires at its start (R238, R376): what its grid's launch released, and what its predecessors did. -/
def blockAcq (gr : Grid) (bidx : Nat) : List Vis := (predsOf gr bidx).foldl (fun l p => union l (mgetD gr.rels p [])) gr.acq
/-- What a grid's completion releases (R65, R238): what it acquired, and what all its blocks, its child grids and its merges released. -/
def Grid.allRels (gr : Grid) : List Vis := gr.rels.foldl (fun l e => union l e.2) (union gr.acq gr.more)
/-- Where a group stands in the rotation (R344): its logical thread index, and by launch among groups of several grids that share one (log entry 61). -/
def turnKey (s : State) (g : Group) : Nat := threadIdx s g 0 * 2 ^ 64 + g.grid % 2 ^ 64
/-- The place of a block's first group in the rotation. -/
def firstTurn (bidx grid : Nat) : Nat := bidx * 1024 * 2 ^ 64 + grid % 2 ^ 64
/-- Where a block joins the rotation of a core (R344): on a core without groups it sets the pointer; on another it comes in as the rotation
reaches the place after its own last turn, so that the order of its own turns goes on (R346) and that of the others is not disturbed. -/
def joinRot (s : State) (blk core rot : Nat) : State :=
  if (groupsOn s core).isEmpty then modBlock (modCore s core fun k => { k with rot := rot }) blk fun b => { b with enter := none }
  else modBlock s blk fun b => { b with enter := some rot }
/-- A start in a portable version counted by its die; at THRESH the count restarts and, while ENABLE is 1, sets off one
trigger (R294; log entry 51 for ENABLE 0). -/
def countStart (s : State) (c core img kern : Nat) : State :=
  let key := dieOf core * 2 ^ 40 + img * 2 ^ 16 + kern
  let n := mgetD (ctxOf s c).starts key 0 + 1
  modCtx s c fun x =>
    if max 1 (s.mintCtl.toNat % 2 ^ 20) ≤ n then
      let x0 := { x with starts := mset x.starts key 0 }
      if s.mintCtl.getLsbD 31 then { x0 with triggers := mset x.triggers key (mgetD x.triggers key 0 + 1) } else x0
    else { x with starts := mset x.starts key n }
/-- A new block of a grid placed on a core: its allocation reads zero and is present, its groups start together at the
entry version as it stands (R45, R46, R201, R282). -/
def placeNew (s : State) (grid core bidx : Nat) (gr : Grid) : State :=
  let entry := match gridKernel s gr with | some k => k.entry.getD 0 | none => 0
  let f := fresh s
  let blk := f.1
  let portable := match gridKernel s gr with
    | some k => (match mget k.vers entry with | some v => !v.nform | none => false)
    | none => false
  let acq := blockAcq gr bidx
  let b : Block := { ctx := gr.ctx, grid := grid, bidx := bidx, core := core, st := .running, base := (freeBase s core gr.lmem).getD 0, lmem := gr.lmem, groups := [], pend := [], bars := [], phase := none, record := [], rbuf := [], acq := acq, recs := [], rot := firstTurn bidx grid, enter := none, susp := 0 }
  let slots := freeSlots s core gr.ngrp
  let s1 := joinRot { f.2 with blocks := mset f.2.blocks blk b } blk core b.rot
  let r := placeGroups s1 gr gr.ctx grid blk entry acq slots 0 []
  let s2 := modBlock r.1 blk fun b => { b with groups := r.2 }
  let s3 := modGrid s2 grid fun g => { g with started := g.started ++ [bidx] }
  let s4 := touchDie (gateAdmit s3 (dieOf core)) gr.ctx (dieOf core)
  if portable then countStart s4 gr.ctx core gr.img gr.kern else s4
/-- The engine commands in flight of a block (R57, R65). -/
def blockCmds (s : State) (blk : Nat) : List (Nat × Cmd) := s.cmds.filter fun e => e.2.block == blk
/-- The commands a group has outstanding (R246). -/
def groupCmds (s : State) (u : Nat) : List (Nat × Cmd) := s.cmds.filter fun e => e.2.grp == u
/-- Some command in flight has chosen a block's allocation (R202): the block is not migrated, and its next phase waits. -/
def chosenByCmd (s : State) (blk : Nat) : Bool := s.cmds.any fun e => e.2.chosen.any fun p => p.2 == blk
/-- A block that holds a reservation record stays in its cluster (R266). -/
def holdsRecord (s : State) (blk : Nat) : Bool := s.clusters.any fun e => e.2.recs.any fun r => r.2.block == blk
/-- The next phase of a queued block may resume on a core (R59, R202, R266): no command in flight has chosen its allocation, and with a record it
stays in its cluster. -/
def mayMove (s : State) (blk : Nat) (b : Block) (core : Nat) : Bool :=
  !chosenByCmd s blk && (core == b.core || !holdsRecord s blk || clusterNum core == clusterNum b.core)
/-- The core lies in the partition and its die is in use. -/
def inPartition (s : State) (c core : Nat) : Bool := (ctxOf s c).part.contains (dieOf core)
/-- What the groups of a block release together (R238). -/
def blockIds (s : State) (b : Block) : List Vis := dedup (b.groups.flatMap fun u => match mget s.groups u with | some g => relIds s u g | none => [])
/-- What the groups of a block release at an event that waits for all their work (R238). -/
def blockDone (s : State) (b : Block) : List Vis := dedup (b.groups.flatMap fun u => match mget s.groups u with | some g => doneIds s u g | none => [])
/-- The last moment at which a load of one of a block's groups performed at a scope. -/
def blockTime (s : State) (b : Block) (sc : Scope) : Nat :=
  b.groups.foldl (fun t u => match mget s.groups u with | some g => max t (lastLoad s u g sc) | none => t) 0
/-- The groups listed acquire what their block released, at a moment and a scope (R238). -/
def blockAcquire (s : State) (us : List Nat) (sc : Scope) (t : Nat) (ids : List Vis) : State :=
  us.foldl (fun s u => markSeen (orderReads (modGroup s u fun g => { g with ldTime := g.ldTime.sup (.upTo sc t) }) u sc t) (agent u 0) ids) s
/-- The scope of a migration from one core to another (R238). -/
def moveScope (old core : Nat) : Scope := if clusterNum old = clusterNum core then .clu else .dev
/-- A migration moves a block and makes its writes visible in the new place (R59, R238); its trap frames lie in the groups' records (R315). -/
def migrate (s : State) (blk core : Nat) : State :=
  match mget s.blocks blk with
  | some b =>
    let sc := moveScope b.core core
    let s0 := b.groups.foldl (fun t u => storesDone t u sc) s
    let s1 := modBlock s0 blk fun b => { b with core := core }
    blockAcquire (touchDie s1 b.ctx (dieOf core)) b.groups sc (blockTime s1 b sc) (blockIds s1 b)
  | none => s
/-- The groups of a list that have not exited. -/
def unexited (s : State) (us : List Nat) : List Nat := us.filter fun u => match mget s.groups u with | some g => !g.exited | none => false
/-- The slots that the groups of a block had are free on a core. -/
def slotsKept (s : State) (core : Nat) (us : List Nat) : Bool :=
  (unexited s us).all fun u => match mget s.groups u with | some g => !(slotsUsed s core).contains g.slot | none => true
/-- Slots given anew to the groups of a block that comes to a core. -/
def reslot (s : State) (core : Nat) (us : List Nat) : State :=
  let live := unexited s us
  ((live.zip (freeSlots s core live.length)).foldl fun s p => modGroup s p.1 fun g => { g with slot := p.2 }) s

/-! ### Block barriers (R148, R314) -/

/-- A barrier nobody has arrived at; the parity at block start is a choice of this model (log entry 3). -/
def Bar.init : Bar := { count := 0, mask := 0, parity := false }
/-- The groups of a block that have not executed `halt`: the ones a barrier waits for (R148, R164). -/
def liveGroups (s : State) (b : Block) : List Nat := b.groups.filter fun u => match mget s.groups u with | some g => !g.halted && !g.exited | none => false
/-- Barrier id opens when every live group has arrived: the groups parked at it retire, the counts clear, the parity flips, and
every retiring group acquires what the others released (R148, R238). -/
def barTry (s : State) (blk id : Nat) : State :=
  match mget s.blocks blk with
  | none => s
  | some b =>
    let bar := mgetD b.bars id Bar.init
    let live := liveGroups s b
    let here (u : Nat) : Bool := match mget s.groups u with | some g => bit bar.mask g.gidx | none => false
    if bar.count = 0 || !live.all here then s
    else
      let s1 := modBlock s blk fun b => { b with bars := mset b.bars id { count := 0, mask := 0, parity := !bar.parity } }
      let s2 := live.foldl (fun s u => modGroup s u fun g =>
        match g.park with
        | some (.bar i len sm) => if i = id then retireG g sm len else g
        | _ =>
          match g.hstack with
          | some h =>
            (match h.park with
             | some (.bar i len _) =>
               if i = id then { g with sepc := g.sepc + BitVec.ofNat 32 len, icnt := g.icnt + 1, hstack := some { h with park := none } } else g
             | _ => g)
          | none => g) s1
      blockAcquire s2 live .blk (blockTime s b .blk) (blockIds s b)
/-- Every barrier of a block tried again: a group has left (R148, R164). -/
def barTryAll (s : State) (blk : Nat) : State := (List.range 16).foldl (fun s id => barTry s blk id) s

/-! ### Exit, retirement, completion (R44, R65) -/

/-- The group can exit: it has halted and is parked so, nothing of it is outstanding, no register result either, and no engine cause is due (R44, R95,
R164, R250). -/
def canExit (s : State) (u : Nat) (g : Group) : Bool :=
  g.halted && !g.exited && g.park == some .halted && g.causes.isEmpty && (groupCmds s u).isEmpty && g.words.isEmpty && g.trapping.isNone
/-- The group exits (R44). -/
def groupExit (s : State) (u : Nat) : Option State :=
  match mget s.groups u with
  | some g => if canExit s u g then some (setGroup s u { settle s g with exited := true, park := none, xreq := none, ext := 0 }) else none
  | none => none
/-- The grid's outstanding count on a core changes (R64). -/
def bumpOut (s : State) (grid core : Nat) (up : Bool) : State :=
  modGrid s grid fun gr => { gr with out := mset gr.out core (if up then mgetD gr.out core 0 + 1 else mgetD gr.out core 0 - 1) }
/-- The successors of a block that a retirement makes ready, in ascending `bidx` (R375). -/
def madeReady (gr : Grid) (bidx : Nat) : List Nat :=
  let bx : Int := bidx % gr.gdx
  let by_ : Int := bidx / gr.gdx % gr.gdy
  let bz : Int := bidx / gr.gdx / gr.gdy
  let c := gr.deps.filterMap fun d =>
    let x := bx - d.1
    let y := by_ - d.2.1
    let z := bz - d.2.2
    if x < gr.gdx ∧ y < gr.gdy ∧ z < gr.gdz then some (x.toNat + gr.gdx * (y.toNat + gr.gdy * z.toNat)) else none
  (sortAsc (dedup c)).filter fun b => depsMet gr b && !gr.ready.contains b && !gr.started.contains b
/-- A block can retire: every group has exited and every command has completed (R65); not on a lost die (R320); a suspended one too, when
its groups had exited before (R339). -/
def canRetire (s : State) (b : Block) (blk : Nat) : Bool :=
  (b.st == .suspended || (b.st == .running && !s.lostDies.contains (dieOf b.core))) && (b.groups.all fun u => match mget s.groups u with | some g => g.exited | none => true)
    && (blockCmds s blk).isEmpty
/-- A grid after one of its blocks has retired, at a moment `now`: the blocks that this makes ready, and the round bytes it leaves
(R65, R336, R375). -/
def retireGrid (now : Nat) (gr : Grid) (b : Block) : Grid :=
  let gr1 := { gr with retired := b.bidx :: gr.retired }
  let new := madeReady gr1 b.bidx
  { gr1 with ready := gr1.ready ++ new, readyAt := new.foldl (fun m x => mset m x now) gr1.readyAt, oldBufs := if b.rbuf.isEmpty then gr1.oldBufs else (b.bidx, dieOf b.core, b.rbuf) :: gr1.oldBufs }
/-- A block retires: its allocation, record and reservations are freed; its release covers all its work, its commands' too, and reaches its
successors and the grid's completion (R65, R238, R265, R376). Nothing else becomes ready at the moment of its successors (R45). -/
def blockRetire (s : State) (blk : Nat) : Option State :=
  match mget s.blocks blk with
  | none => none
  | some b =>
    if !canRetire s b blk then none
    else
      let s1 := modGrid s b.grid fun gr => let x := retireGrid s.nextUid gr b; { x with rels := mset x.rels b.bidx (blockDone s b) }
      some { s1 with
        blocks := mdel s1.blocks blk
        groups := s1.groups.filter fun e => e.2.block != blk
        mem := Memory.clear s1.mem (localLoc blk 0) (localLoc blk (2 ^ 20))
        log := s1.log.filter fun e => !(decide (localLoc blk 0 ≤ e.loc) && decide (e.loc < localLoc blk (2 ^ 20)))
        clusters := s1.clusters.map fun e => (e.1, { e.2 with recs := e.2.recs.filter fun r => r.2.block != blk })
        nextUid := s1.nextUid + 1 }
/-- A grid's blocks have all retired, and so have its children and its outstanding entries; a deterministic grid's last round has closed (R65). -/
def gridDone (s : State) (grid : Nat) (gr : Grid) : Bool :=
  gr.retired.length == gr.size && gr.out.all (fun p => p.2 == 0)
    && (s.grids.all fun e => match e.2.parent with | some (p, _) => p != grid | none => true)
    && (!(ctxOf s gr.ctx).det || gr.closed)
/-- An engine cause falls due to a group (R250); a parked group is unparked for it. -/
def addCause (s : State) (u : Nat) (e : EngineCause) : State := modGroup s u fun g => { g with causes := g.causes ++ [e] }
/-- A barrier-word update at a location, or its failure (R152): the words it wakes are woken. -/
def arriveAt (s : State) (a c loc : Nat) (pub : List Published) : Option State :=
  match barrierArrive (loadNewest s loc 8) with
  | some (_, w) => some (putUnit s a c loc none (leBytes 8 w) true pub)
  | none => none
/-- The place of a completion word when its grid completes (R372): a virtual address, or the allocation chosen at the launch. -/
def arvLoc (s : State) (c a blk : Nat) : Except Nat Nat :=
  match place a with
  | .virt va => resolve s c va 1
  | .clus _ off => if (mget s.blocks blk).isSome && decide (off + 8 ≤ allocSize s blk) then .ok (localLoc blk off) else .error 0x08
  | .bad => .error 0x06

end Sys2Proof.Machine
end

