-- ==== Sys2Proof/Machine/Coin.lean ====
section
/-!
DEFINITION. The commit coin of a deterministic grid (R340, R341, R343): where it stands, when it moves on.
-/
namespace Sys2Proof.Machine

/-- Whether the coin goes on at once past a place of the coin's order: the group there is parked at `rnd` or has exited. It waits
at a group that has not started (R335, R340). -/
def coinPasses (s : State) (grid : Nat) (gr : Grid) (pos : Nat) : Bool :=
  gr.retired.contains (pos / gr.ngrp) ||
    (match s.blocks.find? fun e => e.2.grid == grid && e.2.bidx == pos / gr.ngrp with
     | some b =>
       (match (b.2.groups[pos % gr.ngrp]?).bind fun u => mget s.groups u with
        | some g => g.exited || (match g.park with | some (.rnd _) => true | _ => false)
        | none => false)
     | none => false)
/-- The coin moved on past every group it does not wait at, in at most n moves. -/
def coinMoves : Nat → State → Nat → State
  | 0, s, _ => s
  | n + 1, s, grid =>
    match mget s.grids grid with
    | none => s
    | some gr =>
      if gr.coinHeld || decide (gr.size * gr.ngrp ≤ gr.coinPos) || !coinPasses s grid gr gr.coinPos then s
      else coinMoves n (modGrid s grid fun gr => { gr with coinPos := gr.coinPos + 1 }) grid
/-- The coin of a deterministic grid moved on as far as it goes. -/
def coinSettle (s : State) (grid : Nat) : State :=
  match mget s.grids grid with
  | some gr => if (ctxOf s gr.ctx).det then coinMoves (gr.size * gr.ngrp - gr.coinPos) s grid else s
  | none => s
/-- The coin leaves the group that holds it or at which it waits (R340). -/
def coinLeave (s : State) (g : Group) : State :=
  match mget s.grids g.grid with
  | some gr =>
    if gr.coinPos == coinIdx s g then
      coinSettle (modGrid s g.grid fun gr => { gr with coinPos := gr.coinPos + 1, coinHeld := false }) g.grid
    else s
  | none => s
/-- The group takes the coin. -/
def coinTake (s : State) (g : Group) : State := modGrid s g.grid fun gr => { gr with coinHeld := true }
/-- A coin access in global memory that waits for a value: the group passes the coin and parks in a coin wait (R343). -/
def coinPark (s : State) (u : Nat) (g : Group) : State := coinLeave (parkOn s u g .coinWait) g
/-- `coinw` (R333, R341). -/
def execCoinw (sm : Bool) (s : State) : Out :=
  acting s fun u g =>
    if !detOf s g then fin s u sm 4 g
    else match mget s.grids g.grid with
      | none => fin s u sm 4 g
      | some gr =>
        if gr.coinPos < coinIdx s g then parkOn s u g .coinw
        else if gr.coinPos = coinIdx s g then fin (coinTake s g) u sm 4 g
        else raise s u g 0x14
/-- `coinp` (R333, R341). -/
def execCoinp (sm : Bool) (s : State) : Out :=
  acting s fun u g =>
    if !detOf s g then fin s u sm 4 g else coinLeave (fin s u sm 4 g) g
/-- `rnd` (R333, R335): the coin leaves the group, which parks until the round closes. -/
def execRnd (sm : Bool) (s : State) : Out :=
  acting s fun u g =>
    if !detOf s g then fin s u sm 4 g
    else
      let s1 := parkOn s u g (.rnd sm)
      if holdsCoin s g then coinLeave s1 g else coinSettle s1 g.grid
/-- COIN_WAIT_RESUME (R343): the coin comes to a group in a coin wait, which takes it and executes its word again. -/
def coinResume (s : State) (u : Nat) : Option State :=
  match mget s.groups u with
  | none => none
  | some g =>
    match mget s.grids g.grid, mget s.blocks g.block with
    | some gr, some b =>
      if g.park == some .coinWait && b.st == .running && !gr.coinHeld && gr.coinPos == coinIdx s g then
        some (coinTake (setGroup s u { g with park := none }) g)
      else none
    | _, _ => none
/-- COIN_WAIT_RESUME (R343). -/
def execCoinWaitResume (g : Nat) (s : State) : Out := .next ((coinResume s g).getD s)

end Sys2Proof.Machine
end

