-- ==== Sys2Proof/Machine/UniMem.lean ====
section
/-!
DEFINITION. The uniform words that reach memory: `sld`, `sst`, `satom` (R146, R147), barrier words (R150-R153), `wadr` and `wake`
(R154-R156), the tag words (R204-R208), `awin` and `pref` (R213, R217).
-/
namespace Sys2Proof.Machine

/-- A uniform address: the pair and a displacement, modulo 2^64 (R123). -/
def uAddr (s : State) (g : Group) (xa : Nat) (disp : Int) : Nat := (((uniPair s g xa : Int) + disp) % (2 ^ 64 : Int)).toNat
/-- A datum of n bytes written to a register, zero-extended, or to the pair for 8 bytes (R146). -/
def writeDatum (s : State) (g : Group) (xd n v : Nat) : Group := if n = 8 then writeUPair s g xd v else writeU s g xd (BitVec.ofNat 32 v)
/-- The datum of n bytes in a register, or in the pair for 8 bytes. -/
def readDatum (s : State) (g : Group) (x n : Nat) : Nat := if n = 8 then uniPair s g x else (uni s g x).toNat % 256 ^ n
/-- `sld` (R146): a plain load. -/
def sldOp (len : Nat) (sm : Bool) (sz : Size4) (xd xa : Nat) (disp : Int) (s : State) : Out :=
  let n := sizeBytes sz
  word s (dataRegs xd n ++ [xa, xa + 1]) fun u g =>
    let a := uAddr s g xa disp
    match uPlace s g a n 0 with
    | .error e => accFail s u g e
    | .ok loc => fin (noteAccess (notePlain s u g loc n) g a loc) u sm len (writeDatum s g xd n (leNat (loadPlain s u g loc n)))
/-- `sld` (R146). -/
def execSld (sm : Bool) (sz : Size4) (xd xa : Nat) (disp : Int) (s : State) : Out := sldOp 4 sm sz xd xa disp s
/-- Short `sld a, b, c` (R100). -/
def execShortSld (a b c : Nat) (s : State) : Out := sldOp 2 false .w a b (4 * c) s
/-- `sst` (R146): a plain store. -/
def sstOp (len : Nat) (sm : Bool) (sz : Size4) (xd xa : Nat) (disp : Int) (s : State) : Out :=
  let n := sizeBytes sz
  word s (dataRegs xd n ++ [xa, xa + 1]) fun u g =>
    let a := uAddr s g xa disp
    match uPlace s g a n 1 with
    | .error e => accFail s u g e
    | .ok loc =>
      match storePlain s u g 0 loc (vaOf loc a) (leBytes n (readDatum s g xd n)) with
      | .error c => raise s u g c
      | .ok s1 => fin (noteAccess s1 g a loc) u sm len g
/-- `sst` (R146). -/
def execSst (sm : Bool) (sz : Size4) (xd xa : Nat) (disp : Int) (s : State) : Out := sstOp 4 sm sz xd xa disp s
/-- Short `sst a, b, c` (R100). -/
def execShortSst (a b c : Nat) (s : State) : Out := sstOp 2 false .w a b (4 * c) s
/-- `satom` (R147): the old value in xd; for `cas` xd holds the expected value. -/
def satomOp (sm w : Bool) (op : Aop) (xd xa xb : Nat) (s : State) : Out :=
  let n := if w then 8 else 4
  word s (dataRegs xd n ++ [xa, xa + 1] ++ dataRegs xb n) fun u g =>
    let a := uAddr s g xa 0
    match uPlace s g a n 1 with
    | .error e => accFail s u g e
    | .ok loc =>
      if !coinOk s g loc then raise s u g 0x14
      else
        let r := atomic s u g (locScope loc) loc (vaOf loc a) n fun m => atomicVal n op m (readDatum s g xb n) (readDatum s g xd n)
        fin (noteAccess r.2.1 g a loc) u sm 4 (writeDatum s r.2.2 xd n r.1)
/-- `satom.add` (R147). -/
def execSatomAdd (sm w : Bool) (xd xa xb : Nat) (s : State) : Out := satomOp sm w .add xd xa xb s
/-- `satom.min` (R147). -/
def execSatomMin (sm w : Bool) (xd xa xb : Nat) (s : State) : Out := satomOp sm w .min xd xa xb s
/-- `satom.max` (R147). -/
def execSatomMax (sm w : Bool) (xd xa xb : Nat) (s : State) : Out := satomOp sm w .max xd xa xb s
/-- `satom.swp` (R147). -/
def execSatomSwp (sm w : Bool) (xd xa xb : Nat) (s : State) : Out := satomOp sm w .swp xd xa xb s
/-- `satom.and` (R147). -/
def execSatomAnd (sm w : Bool) (xd xa xb : Nat) (s : State) : Out := satomOp sm w .and xd xa xb s
/-- `satom.or` (R147). -/
def execSatomOr (sm w : Bool) (xd xa xb : Nat) (s : State) : Out := satomOp sm w .or xd xa xb s
/-- `satom.xor` (R147). -/
def execSatomXor (sm w : Bool) (xd xa xb : Nat) (s : State) : Out := satomOp sm w .xor xd xa xb s
/-- `satom.cas` (R147). -/
def execSatomCas (sm w : Bool) (xd xa xb : Nat) (s : State) : Out := satomOp sm w .cas xd xa xb s

/-! ### Barrier words (R150-R153) -/

/-- A barrier word's access: a coin access in global memory (R150, R342). `pre` is a cause that the other operands give. -/
def bwWord (s : State) (named : List Nat) (xa kind : Nat) (pre : Group → Option Nat) (f : Nat → Group → Nat → Nat → State) : Out :=
  word s (named ++ [xa, xa + 1]) fun u g =>
    let a := uAddr s g xa 0
    match withCause (pre g) (uPlace s g a 8 kind) with
    | .error e => accFail s u g e
    | .ok loc => if coinOk s g loc then f u g a loc else raise s u g 0x14
/-- A count that `bwinit` refuses (R151). -/
def badCount (c : Nat) : Bool := decide (c = 0) || decide (0xFFFFFF < c)
/-- `bwinit` (R151). -/
def execBwinit (sm : Bool) (xa xb : Nat) (s : State) : Out :=
  bwWord s [xb] xa 1 (fun g => if badCount (uni s g xb).toNat then some 0x09 else none) fun u g a loc =>
    let c := (uni s g xb).toNat
    let r := atomic s u g (locScope loc) loc (vaOf loc a) 8 fun m => barrierPhase m * 2 ^ 48 + c * 2 ^ 24 + c
    fin (noteAccess r.2.1 g a loc) u sm 4 r.2.2
/-- `barv` (R152): a full release at the word's scope, then one arrival. -/
def execBarv (sm : Bool) (xd xa : Nat) (s : State) : Out :=
  bwWord s [xd] xa 1 (fun _ => none) fun u g a loc =>
    match barrierArrive (loadNewest s loc 8) with
    | none => raise s u g 0x09
    | some (p, w) =>
      let rel := publish s g (locScope loc) (relIds s u g)
      let r := atomic (storesDone s u (locScope loc)) u { g with pub := rel :: g.pub } (locScope loc) loc (vaOf loc a) 8 fun _ => w
      fin (noteAccess r.2.1 g a loc) u sm 4 (writeU s { r.2.2 with pub := g.pub } xd (BitVec.ofNat 32 p))
/-- The acquire of a parked `bwt` as it retires: a write that performs has it read the word (R153). -/
def bwtAcquire (s : State) (u : Nat) (g : Group) (loc : Nat) : State :=
  acquire (noteNewest s u loc 8) u (noteStrong s g (locScope loc) loc 8) (locScope loc) (pubsAt s loc 8)
/-- The group after it: it has read the word, and seen complete the commands whose arrivals the word holds (R257). -/
def bwtGroup (s : State) (g : Group) (loc : Nat) : Group := seeEngines s (noteStrong s g (locScope loc) loc 8) (locScope loc) (pubsAt s loc 8)
/-- `bwt` (R153; in deterministic mode R343): a strong load of PHASE, which may pass an earlier strong store of the group (R228). -/
def execBwt (sm : Bool) (xa xb : Nat) (s : State) : Out :=
  bwWord s [xb] xa 0 (fun _ => none) fun u g a loc =>
    let p := (uni s g xb).toNat % 65536
    let s0 := noteAccess (noteLoad s u g true loc 8) g a loc
    let ps := strongPubs s u g loc 8
    if barrierPhase (leNat (loadUnit s u g true loc 8)) != p then
      let h := strongGroup s u g loc 8
      fin (acquire s0 u h (locScope loc) ps) u sm 4 (seeEngines s h (locScope loc) ps)
    else if detOf s g && isPhys loc then coinPark s0 u g
    else parkOn s0 u g (.bwt loc p sm)
/-- BWT_WAKE (R153): a parked `bwt` reads a PHASE that differs, and retires. -/
def bwtWake (s : State) (u : Nat) : Option State :=
  match mget s.groups u with
  | some g =>
    match g.park with
    | some (.bwt loc p sm) =>
      if barrierPhase (loadNewest s loc 8) != p then some (fin (bwtAcquire s u g loc) u sm 4 (bwtGroup s g loc)) else none
    | _ => none
  | none => none
/-- BWT_WAKE (R153). -/
def execBwtWake (g : Nat) (s : State) : Out := .next ((bwtWake s g).getD s)

/-! ### Waiting on an address (R154-R156) -/

/-- A uniform address for `wake`, which needs no alignment and makes no access to the line (R155): presence does not hold it. -/
def wakePlace (s : State) (g : Group) (a : Nat) : Except AccErr Nat :=
  match uPlace s g a 1 0 with
  | .error (.absent _) =>
    (match place a with
     | .clus c off => (match clusterBlock s g.block c with | some t => .ok (localLoc t off) | none => .error (.cause 0x08))
     | .virt _ | .bad => .error (.cause 0x08))
  | r => r
/-- The groups parked by `wadr` on their cores and not woken yet, with their order of parking. -/
def watchers (s : State) (p : Nat → Bool) : List (Nat × Nat) :=
  s.groups.filterMap fun e => match e.2.park with | some (.wadr a _ _ none) => if p a && watches s e.2 then some (e.2.parkSeq, e.1) else none | _ => none
/-- The watch table that a location uses is full (R156): 4,096 groups a home memory die, 64 a cluster. -/
def watchFull (s : State) (g : Group) (loc : Nat) : Bool :=
  if isPhys loc then decide (4096 ≤ (watchers s fun a => isPhys a && homeDie a == homeDie loc).length)
  else decide (64 ≤ (s.groups.filter fun e =>
    match e.2.park with | some (.wadr a _ _ none) => watches s e.2 && !isPhys a && clusterOfGroup s e.2 == clusterOfGroup s g | _ => false).length)
/-- `wadr` (R154, R156; in deterministic mode R343): its strong load may pass an earlier strong store of the group (R228), and a write of the
word that it goes back over performs after it, and so wakes it. -/
def execWadr (sm : Bool) (xd xa xb : Nat) (s : State) : Out :=
  word s [xd, xa, xa + 1, xb] fun u g =>
    let a := uAddr s g xa 0
    match uPlace s g a 4 0 with
    | .error e => accFail s u g e
    | .ok loc =>
      if !coinOk s g loc then raise s u g 0x14
      else
        let v := BitVec.ofNat 32 (leNat (loadUnit s u g true loc 4))
        let s0 := noteAccess (noteLoad s u g true loc 4) g a loc
        if v != uni s g xb || watchFull s g loc && !detOf s g then fin s0 u sm 4 (writeU s (strongGroup s u g loc 4) xd v)
        else if detOf s g && isPhys loc then coinPark s0 u g
        else parkOn { s0 with nextUid := s0.nextUid + 1 } u { strongGroup s u g loc 4 with parkSeq := s0.nextUid } (.wadr loc xd sm (firstUnseen s u g loc 4))
/-- A woken group as it reloads its word, and the state: the load performs after the write or `wake` numbered w that woke it (R154, R155). -/
def wokenAt (s : State) (u : Nat) (g : Group) (loc w : Nat) : State × Group :=
  (markRead s (agent u 0) (loc, 4) [w], { g with ldTime := g.ldTime.sup (.upTo (locScope loc) (w + 1)) })
/-- WADR_WAKE (R154): a woken group reloads the word and retires, whether or not it changed. -/
def wadrWake (s : State) (u : Nat) : Option State :=
  match mget s.groups u with
  | some g =>
    match g.park with
    | some (.wadr loc xd sm (some w)) =>
      let r := wokenAt s u g loc w
      some (fin (noteLoad r.1 u r.2 true loc 4) u sm 4
        (writeU s (strongGroup r.1 u r.2 loc 4) xd (BitVec.ofNat 32 (leNat (loadUnit r.1 u r.2 true loc 4)))))
    | _ => none
  | none => none
/-- WADR_WAKE (R154). -/
def execWadrWake (g : Nat) (s : State) : Out := .next ((wadrWake s g).getD s)
/-- The groups in a list woken by the event numbered w. -/
def wakeGroups (s : State) (w : Nat) (us : List Nat) : State :=
  us.foldl (fun s u => modGroup s u fun g =>
    match g.park with | some (.wadr a xd sm _) => { g with park := some (.wadr a xd sm (some w)) } | _ => g) s
/-- The first k of numbered groups, by ascending number. -/
def earliest (k : Nat) (l : List (Nat × Nat)) : List Nat :=
  let o := (sortAsc (l.map (·.1))).take k
  (l.filter fun p => o.contains p.1).map (·.2)
/-- `wake` (R155): the group's earlier stores to the line perform, and then the wake acts. In deterministic mode it ends every `wadr` on the line
at its turn, as a write does, whatever its count (R345); xd gives min(k, parked) there too, though all are woken: the spec does not say which (log
entry 61). -/
def execWake (sm : Bool) (xd xa xb : Nat) (s : State) : Out :=
  word s [xd, xa, xa + 1, xb] fun u g =>
    match wakePlace s g (uAddr s g xa 0) with
    | .error e => accFail s u g e
    | .ok loc =>
      let w := watchers s fun a => a / 128 == loc / 128
      let k := (uni s g xb).toNat
      let us := earliest (if k = 0 then w.length else k) w
      fin (wakeGroups (performAt s u (loc / 128 * 128) 128) s.nextUid (if detOf s g then w.map (·.2) else us)) u sm 4 (writeU s g xd (BitVec.ofNat 32 us.length))

/-! ### Tag words (R206-R208) -/

/-- `ltag` (R206). -/
def execLtag (sm : Bool) (xd xa : Nat) (s : State) : Out :=
  withTags s [xd, xd + 1, xa, xa + 1] (fun s g t => t.slots (t.set (uniPair s g xa))) fun u g t =>
    let k := uniPair s g xa
    let s1 := t.note s u g (t.slots (t.set k))
    match t.hit s u g k with
    | some i => fin (t.store s1 u g i (withU (t.entry s u g i) true)) u sm 4 (writeUPair s g xd (i + i * 2 ^ 32))
    | none =>
      let v := t.victim s u g (t.set k)
      let s2 := if v.2 then (t.slots (t.set k)).foldl (fun s' i => t.store s' u g i (withU (t.entry s u g i) false)) s1 else s1
      fin s2 u sm 4 (writeUPair s g xd (0xFFFFFFFF + v.1 * 2 ^ 32))
/-- A slot that `tagset` may write for a key (R207). -/
def slotOk (t : Tags) (k i : Nat) : Bool := decide (i < t.sets * t.ways) && i / t.ways == t.set k
/-- `tagset` (R207). -/
def execTagset (sm : Bool) (xd xa xb : Nat) (s : State) : Out :=
  withTags s [xd, xd + 1, xa, xa + 1, xb]
    (fun s g t => if slotOk t (uniPair s g xa) (uni s g xb).toNat then [(uni s g xb).toNat] else []) fun u g t =>
    let k := uniPair s g xa
    let i := (uni s g xb).toNat
    if !slotOk t k i then raise s u g 0x08
    else
      let e := t.entry s u g i
      let old := (if entV e then 2 ^ 63 else 0) + entTag e * 2 ^ t.gran % 2 ^ 63
      fin (t.store (t.note s u g [i]) u g i (2 ^ 63 + 2 ^ 62 + t.tag k)) u sm 4 (writeUPair s g xd old)
/-- An entry with V and U clear. -/
def clearVU (e : Nat) : Nat := e % 2 ^ 62
/-- `tagclr` (R208). -/
def execTagclr (sm : Bool) (xd xa xb : Nat) (s : State) : Out :=
  withTags s [xd, xa, xa + 1, xb]
    (fun s g t => if (uni s g xb).getLsbD 0 then List.range (t.sets * t.ways) else t.slots (t.set (uniPair s g xa))) fun u g t =>
    let all := List.range (t.sets * t.ways)
    if (uni s g xb).getLsbD 0 then
      fin (all.foldl (fun s' i => t.store s' u g i (clearVU (t.entry s u g i))) (t.note s u g all)) u sm 4
        (writeU s g xd (BitVec.ofNat 32 (all.filter fun i => entV (t.entry s u g i)).length))
    else
      let s1 := t.note s u g (t.slots (t.set (uniPair s g xa)))
      match t.hit s u g (uniPair s g xa) with
      | some i => fin (t.store s1 u g i (clearVU (t.entry s u g i))) u sm 4 (writeU s g xd (BitVec.ofNat 32 i))
      | none => fin s1 u sm 4 (writeU s g xd 0xFFFFFFFF)

/-! ### Windows and prefetch -/

/-- `awin` (R213); its walk touches the dies whose bytes it reads (R319). -/
def execAwin (sm : Bool) (aw xa : Nat) (s : State) : Out :=
  word s [xa, xa + 1] fun u g =>
    let b := uniPair s g xa
    if 2 ^ 52 ≤ b then raise s u g 0x06 else fin (touchWalk s g.ctx b) u sm 4 (writeWin s g aw (openWindow s g.ctx b))
/-- The pages of a range walked into the core's TLB (R217); each walk touches the dies whose bytes it reads (R319). -/
def prefRange (s : State) (g : Group) (b n : Nat) : State :=
  if n = 0 then s
  else (List.range ((b % 65536 + n - 1) / 65536 + 1)).foldl (fun s i =>
    let va := b - b % 65536 + i * 65536
    let s1 := touchWalk s g.ctx va
    match readable s g.ctx va with
    | some p => tlbFill s1 (coreOfGroup s g) g.ctx p
    | none => s1) s
/-- `pref` and `pref.t` (R217): they never fault; the cache fill has no effect that an access shows. -/
def prefWord (sm : Bool) (xa xb : Nat) (s : State) : Out :=
  word s [xa, xa + 1, xb] fun u g => fin (prefRange s g (uniPair s g xa) (min (uni s g xb).toNat (2 ^ 20))) u sm 4 g
/-- `pref` (R217). -/
def execPref (sm : Bool) (xa xb : Nat) (s : State) : Out := prefWord sm xa xb s
/-- `pref.t` (R217). -/
def execPrefT (sm : Bool) (xa xb : Nat) (s : State) : Out := prefWord sm xa xb s

end Sys2Proof.Machine
end

