-- ==== Sys2Proof/Machine/Transfer.lean ====
section
/-!
DEFINITION. Safe points and version transfers (R283-R293): `spt`, `xfer`, and the transfer itself.
-/
namespace Sys2Proof.Machine

/-- The kernel a group runs. -/
def groupKernel (s : State) (g : Group) : Option Kernel :=
  match mget s.grids g.grid with | some gr => kernelOf s g.ctx gr.img gr.kern | none => none
/-- Version t of a group's kernel, when it can run here (R288): not empty, portable or of the native profile 0x0101. -/
def runnableVersion (s : State) (g : Group) (t : Nat) : Option Version :=
  match groupKernel s g with
  | some k =>
    (match mget k.vers t with
     | some v => if t ≤ 15 && (!v.nform || v.profile == 0x0101) then some v else none
     | none => none)
  | none => none
/-- The transfer status word (R288). -/
def xferStatus (state reason tgt : Nat) : Word :=
  BitVec.ofNat 32 (state * 2 ^ 30 + (if state = 3 then 0x13 * 2 ^ 16 else 0) + reason * 2 ^ 8 + tgt % 256)
/-- `xfer` (R288). -/
def execXfer (sm : Bool) (xd xa : Nat) (s : State) : Out :=
  word s [xd, xa] fun u g =>
    let t := (uni s g xa).toNat
    if t = 0xFFFFFFFF then fin s u sm 4 (writeU s g xd g.xstat)
    else if (runnableVersion s g t).isNone then
      let st := xferStatus 3 1 t
      fin s u sm 4 (writeU s { g with xreq := none, xstat := st } xd st)
    else
      let st := xferStatus 1 0 t
      fin s u sm 4 (writeU s { g with xreq := some t, xstat := st } xd st)

/-! ### Fetching and writing canonical values (R286, R289) -/

/-- The entry of a value in a map: `srx` without one is kind 5 (R286). -/
def SpMap.entry (m : SpMap) (v : Nat) : Option MapEntry :=
  match m.ents.find? fun e => e.val == v with
  | some e => some e
  | none => if v = 255 then some { val := 255, kind := 5, opnd := 0, reg := 0, w1 := 0, w2 := 0 } else none
/-- A value fetched from a map in every lane, in at most n steps of recipes; nothing when it is dead (R286, R289, R290). -/
def fetchValue (s : State) (u : Nat) (g : Group) (m : SpMap) : Nat → Nat → Option (List Word)
  | 0, _ => none
  | n + 1, v =>
    match m.entry v with
    | none => none
    | some e =>
      let row (f : Nat → Word) : Option (List Word) := some ((List.range g.gwid).map f)
      if e.kind = 0 then row fun L => laneNow g e.reg L
      else if e.kind = 1 then row fun _ => laneNow g e.reg 0
      else if e.kind = 2 then row fun L => BitVec.ofNat 32 (leNat (loadPlain s u g (localLoc g.block (e.w1.toNat + 4 * L)) 4))
      else if e.kind = 3 then row fun _ => e.w1
      else if e.kind = 4 then (fetchValue s u g m n e.opnd).map fun l => l.map fun w => e.w1 * w + e.w2
      else row fun _ => g.srx
/-- A value fetched: an affine recipe has a recipe-free operand (R286). -/
def fetchOf (s : State) (u : Nat) (g : Group) (m : SpMap) (v : Nat) : Option (List Word) := fetchValue s u g m 2 v
/-- The values a transfer writes: those the destination map holds as kinds 0, 1, 2 or 5 (R289). -/
def written (m : SpMap) : List MapEntry :=
  let l := m.ents.filter fun e => e.kind != 3 && e.kind != 4
  if m.ents.any fun e => e.val == 255 then l else l ++ [{ val := 255, kind := 5, opnd := 0, reg := 0, w1 := 0, w2 := 0 }]
/-- The allocation offsets that the kind-2 entries of a map touch, lane by lane. -/
def localSpots (g : Group) (m : SpMap) : List Nat :=
  (m.ents.filter fun e => e.kind == 2).flatMap fun e => (List.range g.gwid).map fun L => e.w1.toNat + 4 * L
/-- One value written to its place in the destination map (R289). -/
def putValue (u : Nat) (p : State × Group) (q : MapEntry × List Word) : State × Group :=
  let s := p.1
  let g := p.2
  let e := q.1
  if e.kind = 0 then (s, { g with x := if e.reg = 0 then g.x else mset g.x e.reg q.2 })
  else if e.kind = 1 then (s, { g with x := if e.reg = 0 then g.x else mset g.x e.reg (List.replicate g.gwid (q.2.getD 0 0)) })
  else if e.kind = 2 then
    ((List.range g.gwid).foldl (fun s L => commit s u g (localLoc g.block (e.w1.toNat + 4 * L)) none (leBytes 4 (q.2.getD L 0).toNat) false) s, g)
  else (s, { g with srx := q.2.getD 0 0 })

/-! ### The path table (R291) -/

/-- The places of the join entries that hold every lane of a mask, in table order. -/
def joinsOf (t : List PathEntry) (m : Mask) : List Nat :=
  (List.range t.length).filter fun i =>
    match (t[i]?).bind entered with | some e => e &&& m == m | none => false
/-- The key of a join entry. -/
def keyOf : PathEntry → Nat
  | .split k _ _ => k
  | .loop k _ _ _ => k
  | .pending _ _ _ => 0
/-- A join entry with another key. -/
def withKey (k : Nat) : PathEntry → PathEntry
  | .split _ e a => .split k e a
  | .loop _ l e a => .loop k l e a
  | .pending m r a => .pending m r a
/-- The constructs of a mask match the source map's words one for one; their new keys by place. -/
def matchJoins (t : List PathEntry) (m : Mask) (src dst : SpMap) : Option (List (Nat × Nat)) :=
  let is := joinsOf t m
  let keys := is.filterMap fun i => (t[i]?).map keyOf
  if keys = src.con ∧ dst.con.length = src.con.length then some (is.zip dst.con) else none
/-- The resume word of a pending path in the target version, with the new keys of its constructs (R291). Where the word is the SPADR or RESUME of
several maps, R291's "some map m" is the first of them in map order (log entry 62). -/
def matchPending (t : List PathEntry) (S T : Version) (m : Mask) (r : Nat) : Option (Nat × List (Nat × Nat)) :=
  S.maps.findSome? fun a =>
    match T.maps.find? fun b => b.spn == a.spn with
    | none => none
    | some b =>
      if a.spadr = r then (matchJoins t m a b).map fun l => (b.spadr, l)
      else if a.resume = r then (matchJoins t m a b).map fun l => (b.resume, l)
      else none
/-- The path table translated, or nothing where R291 fails. -/
def translateTable (g : Group) (S T : Version) (ms mt : SpMap) : Option (List PathEntry) :=
  match matchJoins g.table g.active ms mt with
  | none => none
  | some l0 =>
    let pend := g.table.map fun e => match e with | .pending m r _ => some (matchPending g.table S T m r) | .split _ _ _ | .loop _ _ _ _ => none
    if pend.any fun p => p == some none then none
    else
      let keys := l0 ++ pend.flatMap fun p => match p with | some (some q) => q.2 | _ => []
      let ok := (List.range g.table.length).all fun i =>
        match g.table[i]? with
        | some (.pending _ _ _) => true
        | some _ => keys.any fun k => k.1 == i
        | none => true
      if !ok then none
      else some ((List.range g.table.length).filterMap fun i =>
        let p : Option (Option (Nat × List (Nat × Nat))) := (pend[i]?).join
        (g.table[i]?).map fun (e : PathEntry) =>
          match e, p with
          | .pending m _ a, some (some q) => PathEntry.pending m q.1 a
          | e, _ => (match keys.find? fun k => k.1 == i with | some k => withKey k.2 e | none => e))

/-! ### The transfer (R289, R290, R292) -/

/-- What a transfer comes to. -/
inductive XferResult where
  | refused (reason : Nat)
  | absent (lines : List Nat)
  | done (s : State) (g : Group) (pc : Nat)
/-- Whether the core of a group has the slabs for n more extended blocks and an empty grant queue (R292). -/
def slabsFree (s : State) (g : Group) (n : Nat) : Bool :=
  let core := coreOfGroup s g
  (coreOf s core).grantQ.isEmpty && decide (slabsUsed s core + n * g.gwid / 8 ≤ 128)
/-- The registers x0 to x(32h + 31) kept: released blocks hold nothing (R61, R292). -/
def keepBlocks (h : Nat) (g : Group) : Group := { g with ext := h, x := g.x.filter fun e => decide (e.1 < 32 + 32 * h) }
/-- The pad that a guard chooses: the value in lane 0 even or odd, or below the threshold or not (R289). -/
def guardPad (m : SpMap) (v : Word) : Nat :=
  if m.gkind = 1 then (if v.getLsbD 0 then m.pad1 else m.pad0)
  else if v.slt m.gt then m.pad0 else m.pad1
/-- The offset of the local word that a guard's value needs in lane 0, if it needs one (R286, R289). -/
def guardSpot (ms mt : SpMap) : Option Nat :=
  let local? (e : MapEntry) : Option Nat := if e.kind = 2 then some e.w1.toNat else none
  if mt.gkind = 0 then none
  else match ms.entry mt.gval with
    | some e => if e.kind = 4 then (ms.entry e.opnd).bind local? else local? e
    | none => none
/-- The transfer of a group at safe point n to version t (R289), its results settled first. Every case of R290 comes before the wait for
local lines, but for a guard that reads an absent line: it chooses no pad before the line is there. -/
def transfer (s : State) (u : Nat) (g0 : Group) (n t : Nat) : XferResult :=
  let g := settle s g0
  match runnableVersion s g t, versionOf s g with
  | some T, some S =>
    (match S.maps.find? fun m => m.spn == n, T.maps.find? fun m => m.spn == n with
     | some ms, some mt =>
       let vals := (written mt).map fun e => (e, fetchOf s u g ms e.val)
       let gv := if mt.gkind = 0 then some [] else fetchOf s u g ms mt.gval
       let spots := localSpots g ms ++ localSpots g mt
       let beyond := spots.any fun o => decide (allocSize s g.block < o + 4)
       let lines := dedup (spots.flatMap fun o => absentLines s g.block o 4)
       if g.level != 0 then .refused 3
       else if vals.any (fun p => p.2.isNone) || gv.isNone
           || (ms.ents.any fun e => e.kind == 4 && (written mt).any (fun w => w.val == e.val) && (ms.entry e.opnd).isNone) then .refused 4
       else
         (match translateTable g S T ms mt with
          | none => .refused 5
          | some table =>
            if g.ext < mt.xblk && !slabsFree s g (mt.xblk - g.ext) then .refused 6
            else
              let spot := (guardSpot ms mt).filter fun o => decide (o + 4 ≤ allocSize s g.block)
              let guardLines := match spot with | some o => absentLines s g.block o 4 | none => []
              let pad := guardPad mt ((gv.getD []).getD 0 0)
              if !guardLines.isEmpty then .absent guardLines
              else if mt.gkind != 0 && pad == 0xFFFFFFFF && (spot == guardSpot ms mt) then .refused 7
              else if beyond then .refused 8
              else if !lines.isEmpty then .absent lines
              else
                let g1 := { g with ext := max g.ext mt.xblk, table := table }
                let r := (vals.map fun p => (p.1, p.2.getD [])).foldl (putValue u) (s, g1)
                let g2 := keepBlocks mt.xblk r.2
                .done r.1 { g2 with ver := t, xreq := none, xstat := xferStatus 2 0 t }
                  (if mt.gkind = 0 then mt.resume else pad))
     | _, _ => .refused 2)
  | _, _ => .refused 1
/-- The group after a refused transfer (R289). -/
def refuseXfer (g : Group) (reason t : Nat) : Group := { g with xreq := none, xstat := xferStatus 3 reason t }
/-- `spt` (R287): the number, then a pending transfer, then the yield point. R290 comes first, so a refused request ends at once;
only a transfer that goes on waits for every register result (R95, R289). -/
def sptOp (len : Nat) (sm : Bool) (n : Nat) (s : State) : Out :=
  acting s fun u g =>
    let g1 := { g with spn := BitVec.ofNat 32 n }
    match g.xreq with
    | none => setGroup s u (yieldAt (retireG g1 sm len))
    | some t =>
      match transfer s u g1 n t with
      | .refused r => setGroup s u (yieldAt (retireG (refuseXfer g1 r t) sm len))
      | .absent ls => parkOn s u g (if g.words.isEmpty then .presence ls else .result)
      | .done s1 g2 pc =>
        if g.words.isEmpty then setGroup s1 u (yieldAt (retireAt g2 sm pc)) else parkOn s u g .result
/-- `spt` (R287). -/
def execSpt (sm : Bool) (n : Nat) (s : State) : Out := sptOp 4 sm n s
/-- Short `spt` (R100): n = a:b. -/
def execShortSpt (a b : Nat) (s : State) : Out := sptOp 2 false (a * 16 + b) s

end Sys2Proof.Machine
end

