-- ==== Sys2Proof/Machine/Loader.lean ====
section
/-!
DEFINITION. The loader (R279-R286, R299-R301, R385) and the Mint (R294-R296).
-/
namespace Sys2Proof.Machine

/-! ### Reading an image (R279-R286) -/

/-- The bytes [off, off + n) lie in the file. -/
def inFile (f : List Byte) (off n : Nat) : Bool := decide (off + n ≤ f.length)
/-- A section of an image: file offset, size, alignment; three 8-byte fields each (log entry 31). -/
structure Section where
  off : Nat
  size : Nat
  align : Nat
  deriving DecidableEq, Repr
/-- The i-th section: 0 `.data`, 1 `.rodata`, 2 `.bss` (R279). -/
def sectionOf (f : List Byte) (i : Nat) : Section :=
  let b := leAt f 16 8 + 24 * i
  { off := leAt f b 8, size := leAt f (b + 8) 8, align := leAt f (b + 16) 8 }
/-- A code offset that a map names: aligned and inside the code (R285). -/
def codeSpot (nform : Bool) (clen a : Nat) : Bool := a % (if nform then 4 else 2) == 0 && decide (a < clen)
/-- A pad: none, or a code offset (R285). -/
def padSpot (nform : Bool) (clen a : Nat) : Bool := a == 0xFFFFFFFF || codeSpot nform clen a
/-- A value entry (R286). -/
def readEntry (f : List Byte) (off : Nat) : MapEntry :=
  let w := leAt f off 4
  { val := fld w 31 24, kind := fld w 23 20, opnd := fld w 19 12, reg := fld w 6 0, w1 := BitVec.ofNat 32 (leAt f (off + 4) 4), w2 := BitVec.ofNat 32 (leAt f (off + 8) 4) }
/-- A value entry the loader takes: its kind is 0 to 5; its zero bits are zero, and so are the words that its kind gives as zero (R279,
R286). -/
def entryOk (f : List Byte) (off : Nat) : Bool :=
  let k := fld (leAt f off 4) 23 20
  decide (k ≤ 5) && fld (leAt f off 4) 11 7 == 0
    && ([2, 3, 4].contains k || leAt f (off + 4) 4 == 0) && (k == 4 || leAt f (off + 8) 4 == 0)
/-- The map at an offset and the offset after it, or nothing where the loader refuses (R285). R285 names no refusal for NCON above 32, XBLK above 3 or
GKIND above 2: the model refuses them (log entry 62). -/
def readMap (f : List Byte) (nform : Bool) (clen off : Nat) : Option (SpMap × Nat) :=
  let nent := leAt f (off + 2) 1
  let ncon := leAt f (off + 3) 1
  let eb := off + 28 + 4 * ncon
  let m : SpMap :=
    { spn := leAt f off 2 % 4096, spadr := leAt f (off + 4) 4, resume := leAt f (off + 8) 4, xblk := leAt f (off + 12) 1
      gkind := leAt f (off + 13) 1, gval := leAt f (off + 14) 1, gt := BitVec.ofNat 32 (leAt f (off + 16) 4)
      pad0 := leAt f (off + 20) 4, pad1 := leAt f (off + 24) 4
      con := (List.range ncon).map fun i => leAt f (off + 28 + 4 * i) 4
      ents := (List.range nent).map fun i => readEntry f (eb + 12 * i) }
  if inFile f off (28 + 4 * ncon + 12 * nent) && leAt f off 2 / 4096 == 0 && decide (ncon ≤ 32) && decide (m.xblk ≤ 3)
      && decide (m.gkind ≤ 2) && leAt f (off + 15) 1 == 0 && codeSpot nform clen m.spadr && codeSpot nform clen m.resume
      && padSpot nform clen m.pad0 && padSpot nform clen m.pad1
      && (List.range nent).all (fun i => entryOk f (eb + 12 * i)) then some (m, eb + 12 * nent)
  else none
/-- n maps one after another. -/
def readMaps (f : List Byte) (nform : Bool) (clen : Nat) : Nat → Nat → Option (List SpMap)
  | 0, _ => some []
  | n + 1, off =>
    match readMap f nform clen off with
    | some (m, next) => (readMaps f nform clen n next).map (m :: ·)
    | none => none
/-- A version slot (R281): empty, a version, or refused. R281 names no refusal for STATE above 2, ORIGIN above 1, a PROFILE of a portable slot or NMAP
above 4,096: the model refuses them (log entry 62). -/
def readSlot (f : List Byte) (off : Nat) (va : Option Nat) : Option (Option Version) :=
  let st := leAt f off 1
  let clen := leAt f (off + 4) 4
  let code := leAt f (off + 8) 8
  let nmap := leAt f (off + 24) 2
  if st = 0 then (if leAt f (off + 26) 6 == 0 then some none else none)
  else if !(decide (st ≤ 2) && decide (leAt f (off + 1) 1 ≤ 1) && inFile f code clen && decide (nmap ≤ 4096) && leAt f (off + 26) 6 == 0
      && (st == 2 || leAt f (off + 2) 2 == 0)) then none
  else (readMaps f (st == 2) clen nmap (leAt f (off + 16) 8)).map fun ms =>
    some { nform := st == 2, mint := leAt f (off + 1) 1 == 1, profile := leAt f (off + 2) 2, code := (f.drop code).take clen, va := va, maps := ms }
/-- All results, or nothing when one is refused. -/
def allSome {α : Type} : List (Option α) → Option (List α)
  | [] => some []
  | none :: _ => none
  | some a :: l => (allSome l).map (a :: ·)
/-- The version that new blocks enter (R282). -/
def entryVersion (vs : AMap Version) : Option Nat :=
  match (List.range 16).find? fun i => match mget vs i with | some v => v.nform && v.profile == 0x0101 | none => false with
  | some i => some i
  | none => (List.range 16).find? fun i => match mget vs i with | some v => !v.nform | none => false
/-- The i-th kernel of an image (R280); `vas` are the code addresses the loader chose, by 16 × kernel + version. R280 names no refusal for NVER, NVAL or
NCARRY out of range: the model refuses them (log entry 62). -/
def readKernel (f : List Byte) (vas : List Nat) (i : Nat) : Option Kernel :=
  let b := leAt f 8 8 + 64 * i
  let ncarry := leAt f (b + 32) 2
  let npin := leAt f (b + 34) 2
  let vtab := leAt f (b + 16) 8
  let ctab := leAt f (b + 24) 8
  let ptab := leAt f (b + 40) 8
  let vaOf (j : Nat) : Option Nat := match vas[16 * i + j]? with | some 0 => none | r => r
  match allSome ((List.range 16).map fun j => readSlot f (vtab + 32 * j) (vaOf j)) with
  | none => none
  | some slots =>
    let vers : AMap Version := (List.range 16).filterMap fun j => match (slots[j]?).join with | some v => some (j, v) | none => none
    let nver := leAt f (b + 8) 1
    if inFile f b 64 && decide (1 ≤ nver ∧ nver ≤ 16) && decide (leAt f (b + 10) 1 ≤ 1) && decide (leAt f (b + 11) 1 ≤ 254)
        && leAt f (b + 36) 4 == 0 && leAt f (b + 48) 16 == 0 && decide (ncarry ≤ 256)
        && inFile f vtab 512 && inFile f ctab (4 * ncarry) && inFile f ptab (4 * npin)
        && decide ((vers.filter fun e => !e.2.nform).length ≤ 1) then
      some { vers := vers, entry := entryVersion vers, pin := bit (leAt f (b + 10) 1) 0, nval := leAt f (b + 11) 1, lmem := leAt f (b + 12) 4
             carry := (List.range ncarry).map fun j => BitVec.ofNat 32 (leAt f (ctab + 4 * j) 4)
             pins := (List.range npin).map fun j => BitVec.ofNat 32 (leAt f (ptab + 4 * j) 4) }
    else none

/-! ### Relocation (R299-R301) -/

/-- A relocation record (R299). -/
structure Reloc where
  off : Nat
  tkern : Nat
  tver : Nat
  kind : Nat
  sym : Nat
  add : Int
  deriving DecidableEq, Repr
/-- The i-th relocation record. -/
def relocOf (f : List Byte) (i : Nat) : Reloc :=
  let b := leAt f 24 8 + 16 * i
  { off := leAt f b 4, tkern := leAt f (b + 4) 2, tver := leAt f (b + 6) 1, kind := leAt f (b + 7) 1, sym := leAt f (b + 8) 4, add := (BitVec.ofNat 32 (leAt f (b + 12) 4)).toInt }
/-- What the relocations act on: the kernels and the bytes of `.data` and `.rodata`. -/
structure Loading where
  kernels : List Kernel
  data : List Byte
  rodata : List Byte
  deriving DecidableEq, Repr
/-- The bytes of a list from an offset replaced. -/
def patch (l : List Byte) (off : Nat) (bs : List Byte) : List Byte := l.take off ++ bs ++ l.drop (off + bs.length)
/-- A 32-bit code word at an offset, high parcel first in D-form (R5, R99, R300). -/
def codeWord (v : Version) (off : Nat) : Nat :=
  if v.nform then leAt v.code off 4 else leAt v.code off 2 * 65536 + leAt v.code (off + 2) 2
/-- A code word stored in its form. -/
def putCode (v : Version) (off w : Nat) : Version :=
  { v with code := patch v.code off (if v.nform then leBytes 4 w else leBytes 2 (w / 65536) ++ leBytes 2 w) }
/-- Whether the word at an offset is a uniform (or a lane) word of one of some opcodes, in the version's form. -/
def codeOp (v : Version) (off : Nat) (uniform : Bool) (ops : List Nat) : Bool :=
  let w := codeWord v off
  off % (if v.nform then 4 else 2) == 0 && decide (off + 4 ≤ v.code.length)
    && (if v.nform then bit w 31 == uniform else bit w 31 && bit w 30 == uniform) && ops.contains (fld w 29 24)
/-- The low n bits of a word replaced. -/
def putLow (n w e : Nat) : Nat := w / 2 ^ n * 2 ^ n + e % 2 ^ n
/-- A version with one relocation applied, or nothing where R301 refuses. IMM32 names the immediate word itself (log entry 31). -/
def relocCode (v : Version) (r : Reloc) (e : Int) : Option Version :=
  let w := codeWord v r.off
  let en := (e % (2 ^ 64 : Int)).toNat
  let put (n x : Nat) : Option Version := some (putCode v r.off (putLow n w x))
  let movi := codeOp v r.off true [0x10] || codeOp v r.off false [0x17]
  let lui := codeOp v r.off true [0x11] || codeOp v r.off false [0x18]
  if r.kind = 3 then (if movi && decide (-65536 ≤ e ∧ e ≤ 65535) then put 17 en else none)
  else if r.kind = 4 then (if lui && decide (0 ≤ e ∧ e ≤ 131071) then put 17 en else none)
  else if r.kind = 5 then (if movi then put 17 (en % 2 ^ 15) else none)
  else if r.kind = 6 then (if lui && decide (0 ≤ e ∧ e < 2 ^ 32) then put 17 (en / 2 ^ 15) else none)
  else if r.kind = 7 then
    (if 4 ≤ r.off && codeOp v (r.off - 4) true [0x3F] && decide (r.off + 4 ≤ v.code.length) && decide (-(2 ^ 31) ≤ e ∧ e < 2 ^ 32) then
      put 32 en else none)
  else if r.kind = 8 then
    (if (codeOp v r.off false [0x10, 0x11, 0x12, 0x13, 0x14, 0x15, 0x16, 0x31, 0x32]
        || codeOp v r.off true [0x08, 0x09, 0x0A, 0x0B, 0x0C, 0x0D, 0x0E, 0x0F, 0x33, 0x34, 0x35, 0x36])
        && decide (-512 ≤ e ∧ e ≤ 511) then put 10 en else none)
  else none
/-- Data bytes with one relocation applied, or nothing where R301 refuses. -/
def relocData (l : List Byte) (r : Reloc) (e : Int) (number : Nat) : Option (List Byte) :=
  let en := (e % (2 ^ 64 : Int)).toNat
  let put (n x : Nat) : Option (List Byte) := if r.off + n ≤ l.length then some (patch l r.off (leBytes n x)) else none
  if r.kind = 0 then put 8 en
  else if r.kind = 1 then (if -(2 ^ 31) ≤ e ∧ e < 2 ^ 32 then put 4 en else none)
  else if r.kind = 2 then put 4 en
  else if r.kind = 9 then (if r.sym = 0 ∧ r.add = 0 then put 2 number else none)
  else none
/-- One relocation record applied (R299-R301). `syms` gives the value of each symbol index. -/
def applyReloc (syms : List (Nat × Nat)) (number : Nat) (l : Loading) (r : Reloc) : Option Loading :=
  let val : Option Int :=
    if r.kind = 9 then some 0 else (syms.find? fun p => p.1 == r.sym).map fun p => ((p.2 : Int) + r.add)
  match val with
  | none => none
  | some e =>
    if r.tkern = 0xFFFF then
      if r.tver = 0 then (relocData l.data r e number).map fun d => { l with data := d }
      else if r.tver = 1 then (relocData l.rodata r e number).map fun d => { l with rodata := d }
      else none
    else
      match l.kernels[r.tkern]? with
      | none => none
      | some k =>
        match mget k.vers r.tver with
        | none => none
        | some v => (relocCode v r e).map fun v' =>
            { l with kernels := l.kernels.set r.tkern { k with vers := mset k.vers r.tver v' } }
/-- Every relocation record applied in order. -/
def applyRelocs (syms : List (Nat × Nat)) (number : Nat) : List Reloc → Loading → Option Loading
  | [], l => some l
  | r :: rs, l => match applyReloc syms number l r with | some l' => applyRelocs syms number rs l' | none => none

/-! ### Placing an image (R301, R385) -/

/-- Every 64 KiB page of a run of virtual bytes is mapped to bytes that exist: R385 does not say whether a run may lie on absent pages, and the model
asks that every page be present (log entry 62). -/
def runMapped (s : State) (c va n : Nat) : Bool :=
  (List.range ((va % 65536 + n + 65535) / 65536)).all fun i =>
    let a := va - va % 65536 + 65536 * i
    match walk s c a with | .page p => physMapped s (p.addr a) && !inReserve (p.addr a) | _ => false
/-- Bytes written by the loader, firmware or the scheduler through a context's tables, byte by byte: each write performs for everyone
(R228) and wakes the waiters of R154. -/
def loadBytes (s : State) (c : Nat) : Nat → List Byte → State
  | _, [] => s
  | va, b :: bs =>
    let s1 := match walk s c va with
      | .page p => putUnit s hostAgent c (p.addr va) (some va) [b] true []
      | .absent _ _ _ | .bad | .poison => s
    loadBytes s1 c (va + 1) bs
/-- A section's base address is one the loader may choose (R385). -/
def baseOk (sec : Section) (base : Nat) : Bool := sec.size == 0 || (base % max 65536 (max 1 sec.align) == 0 && decide (base + sec.size ≤ 2 ^ 52))
/-- The checks of the header, and of the zero fields of the binding slots (R279, R297). -/
def headerOk (f : List Byte) : Bool :=
  inFile f 0 64 && leAt f 0 4 == 0x4D494C47 && leAt f 4 2 == 1 && decide (1 ≤ leAt f 6 2 ∧ leAt f 6 2 ≤ 1024) && leAt f 48 16 == 0
    && inFile f (leAt f 16 8) 72 && inFile f (leAt f 24 8) (16 * leAt f 40 4) && inFile f (leAt f 32 8) (16 * leAt f 44 4)
    && (List.range (leAt f 44 4)).all (fun i => leAt f (leAt f 32 8 + 16 * i + 12) 4 == 0)
    && [0, 1].all fun i => inFile f (sectionOf f i).off (sectionOf f i).size
/-- An image read and relocated, or refused. -/
def readImage (f : List Byte) (vas : List Nat) (syms : List (Nat × Nat)) (number : Nat) : Option Loading :=
  if !headerOk f then none
  else
    let sec (i : Nat) : List Byte := (f.drop (sectionOf f i).off).take (sectionOf f i).size
    match allSome ((List.range (leAt f 6 2)).map (readKernel f vas)) with
    | none => none
    | some ks => applyRelocs syms number ((List.range (leAt f 40 4)).map (relocOf f)) { kernels := ks, data := sec 0, rodata := sec 1 }
/-- The code of every version that the loader gave an address. -/
def codeRuns (ks : List Kernel) : List (Nat × List Byte) :=
  ks.flatMap fun k => k.vers.filterMap fun v => v.2.va.map fun a => (a, v.2.code)
/-- A vault's measurement extended by an item (R328). -/
def extendMeas (m item : List Nat) : List Nat := Config.sha3 (m ++ Config.sha3 item)
/-- The binding slots of an image as they stand in it (R279, R297). -/
def bindTable (f : List Byte) : List Byte := (f.drop (leAt f 32 8)).take (16 * leAt f 44 4)
/-- No two runs of bytes have a byte in common. -/
def apart : List (Nat × Nat) → Bool
  | [] => true
  | r :: l => (l.all fun q => r.2 == 0 || q.2 == 0 || decide (r.1 + r.2 ≤ q.1) || decide (q.1 + q.2 ≤ r.1)) && apart l
/-- The runs of virtual bytes that an image takes (R385): its three sections, its binding slots, and code that the loader gave an address. -/
def imageRuns (f : List Byte) (bases : List Nat) (ks : List Kernel) : List (Nat × Nat) :=
  ((List.range 3).map fun i => (bases.getD i 0, (sectionOf f i).size)) ++ [(bases.getD 3 0, (bindTable f).length)]
    ++ (codeRuns ks).map fun r => (r.1, r.2.length)
/-- The values of symbols by index (R299), from the list that comes with the load: index, value, whether exported. -/
def symValues (syms : List (Nat × Nat × Bool)) : List (Nat × Nat) := syms.map fun p => (p.1, p.2.1)
/-- The values of the exported symbols (`.global`) alone, by index (R297). -/
def symExports (syms : List (Nat × Nat × Bool)) : List (Nat × Nat) := symValues (syms.filter (·.2.2))
/-- IMAGE_LOAD (R279, R301, R385): an image file loaded into a context; `bases` are the addresses the loader chose for `.data`,
`.rodata`, `.bss` and the binding slots, then those of code (0: in the instruction store alone); `syms` are the values of the symbols that its
relocations name and of its `.global` ones, which alone the binding service finds (R297): the image does not hold that list (log
entry 31). A run on a page that the tables do not hold present refuses the image (log entry 62). Its runs lie apart from each other and from those of the images before it. A refused image changes nothing. -/
def imageLoad (s : State) (c : Nat) (bytes bases : List Nat) (syms : List (Nat × Nat × Bool)) : Option State :=
  let f := asBytes bytes
  let base (i : Nat) : Nat := bases.getD i 0
  let number := (ctxOf s c).images.length
  if (ctxOf s c).cst != 1 || decide (65536 ≤ number) then none
  else match readImage f (bases.drop 4) (symValues syms) number with
    | none => none
    | some l =>
      let runs := imageRuns f bases l.kernels
      let ok := (List.range 3).all (fun i => baseOk (sectionOf f i) (base i)) && base 3 % 8 == 0
        && (codeRuns l.kernels).all (fun r => r.1 % 4 == 0) && (runs.all fun r => runMapped s c r.1 r.2)
        && apart (runs ++ (ctxOf s c).images.flatMap (·.runs))
      if !ok then none
      else
        let data := [(base 0, l.data), (base 1, l.rodata), (base 2, List.replicate (sectionOf f 2).size 0), (base 3, bindTable f)]
        let s1 := (data ++ codeRuns l.kernels).foldl (fun s r => loadBytes s c r.1 r.2) s
        some (modCtx s1 c fun x => { x with images := x.images ++ [{ kernels := l.kernels, exports := symExports syms, runs := runs }], meas := if x.vault then extendMeas x.meas bytes else x.meas })
/-- IMAGE_LOAD. -/
def execImageLoad (c : Nat) (bytes bases : List Nat) (syms : List (Nat × Nat × Bool)) (s : State) : Out :=
  .next ((imageLoad s c bytes bases syms).getD s)

/-! ### The Mint (R294-R296) -/

/-- A map in the image's layout (R285, R286). -/
def mapBytes (m : SpMap) : List Byte :=
  leBytes 2 m.spn ++ leBytes 1 m.ents.length ++ leBytes 1 m.con.length ++ leBytes 4 m.spadr ++ leBytes 4 m.resume ++ leBytes 1 m.xblk
    ++ leBytes 1 m.gkind ++ leBytes 1 m.gval ++ leBytes 1 0 ++ leBytes 4 m.gt.toNat ++ leBytes 4 m.pad0 ++ leBytes 4 m.pad1
    ++ m.con.flatMap (leBytes 4)
    ++ m.ents.flatMap fun e => leBytes 4 (e.val * 2 ^ 24 + e.kind * 2 ^ 20 + e.opnd * 2 ^ 12 + e.reg) ++ leBytes 4 e.w1.toNat ++ leBytes 4 e.w2.toNat
/-- The portable version of a kernel with its slot. -/
def portableOf (k : Kernel) : Option (Nat × Version) := k.vers.find? fun e => !e.2.nform
/-- H of a kernel (R295). -/
def mintHash (k : Kernel) : List Nat :=
  match portableOf k with
  | some (_, v) => Config.sha3 ((v.code ++ v.maps.flatMap mapBytes ++ leBytes 1 k.nval ++ k.carry.flatMap fun w => leBytes 4 w.toNat).map (·.toNat))
  | none => []
/-- The context id that a vault's keys hold (R295). -/
def mintVault (s : State) (c : Nat) : Option Nat := if (ctxOf s c).vault then some c else none
/-- The entry of a kernel's key: (H, kernel index, profile), and the context of a vault. -/
def mintFind (s : State) (c kern : Nat) (k : Kernel) : Option MintEntry :=
  s.mint.find? fun e => e.key == mintHash k && e.kern == kern && e.vaultCtx == mintVault s c
/-- The home of a key (R295). -/
def mintHome (h : List Nat) : Nat := leNat (asBytes (h.take 8)) % 192
/-- A resident context holds a kernel with this key (R295). -/
def mintInUse (s : State) (e : MintEntry) : Bool :=
  s.ctxs.any fun c => c.2.cst != 0 && c.2.images.any fun im => im.kernels.any fun k => mintHash k == e.key
/-- A ready version installed into a context's kernel (R296): the lowest empty slot (the model's choice, log entry 63), ENTRY, and requests to the groups that run the
portable version, those between two phases too (R58). Nothing happens where the kernel has a version the Mint built, or no empty slot. -/
def mintInstall (s : State) (c img kern : Nat) (b : BuiltVersion) : State :=
  match kernelOf s c img kern with
  | none => s
  | some k =>
    match (List.range 16).find? fun i => (mget k.vers i).isNone, readMaps (asBytes b.maps) true b.code.length b.nmap 0 with
    | some slot, some maps =>
      if k.vers.any fun e => e.2.mint then s
      else
        let v : Version := { nform := true, mint := true, profile := 0x0101, code := asBytes b.code, va := none, maps := maps }
        let s1 := modCtx s c fun x => { x with images := x.images.modify img fun im =>
          { im with kernels := im.kernels.set kern { k with vers := mset k.vers slot v, entry := some slot } } }
        if (ctxOf s c).det then s1
        else
          let ours (grid : Nat) : Bool := match mget s1.grids grid with | some gr => gr.ctx == c && gr.img == img && gr.kern == kern | none => false
          let old (ver : Nat) : Bool := match portableOf k with | some p => ver == p.1 | none => false
          { s1 with
            groups := s1.groups.map fun e =>
              if ours e.2.grid && old e.2.ver && !e.2.exited && e.2.xreq.isNone then (e.1, { e.2 with xreq := some slot, xstat := xferStatus 1 0 slot })
              else e
            blocks := s1.blocks.map fun e =>
              let ask (h : PhaseHeader) : PhaseHeader :=
                if old h.ver && !h.exited && h.xreq.isNone then { h with xreq := some slot, xstat := xferStatus 1 0 slot } else h
              if ours e.2.grid then (e.1, { e.2 with record := e.2.record.map ask }) else e }
    | _, _ => s
/-- A trigger that a die has sent for a context's kernel and the Mint has not yet taken (R294): its key. -/
def mintReached (s : State) (c img kern : Nat) : Option Nat :=
  ((ctxOf s c).triggers.find? fun e => e.1 % 2 ^ 40 == img * 2 ^ 16 + kern && decide (0 < e.2)).map (·.1)
/-- MINT_STAT with one more dropped trigger, or one more failed build (R294). -/
def mintDropped (v : Word) : Word := if v.toNat % 65536 = 65535 then v else v + 1
def mintFailed (v : Word) : Word := if v.toNat / 65536 = 65535 then v else v + 0x10000
/-- A new building entry, when its home has room or an entry to free (R295). -/
def mintCreate (s : State) (e : MintEntry) : State :=
  let home := s.mint.filter fun x => x.home == e.home
  if home.length < 1024 then { s with mint := e :: s.mint }
  else
    let old := home.filter fun x => x.st == 2 && !mintInUse s x
    match old.foldl (fun (m : Option MintEntry) x => match m with | some y => if x.order < y.order then some x else m | none => some x) none with
    | some y => { s with mint := e :: s.mint.filter fun x => x.order != y.order }
    | none => { s with mintStat := mintDropped s.mintStat }
/-- MINT_TRIGGER (R294, R295): a trigger that a die sent acts on the kernel's entry. -/
def mintTrigger (s : State) (c img kern : Nat) : Option State :=
  match kernelOf s c img kern, mintReached s c img kern with
  | some k, some key =>
    let s1 := modCtx s c fun x => { x with triggers := mset x.triggers key (mgetD x.triggers key 0 - 1) }
    match mintFind s1 c kern k with
    | none =>
      let f := fresh s1
      some (mintCreate f.2 { key := mintHash k, vaultCtx := mintVault s c, kern := kern, home := mintHome (mintHash k), st := 1, built := none, order := f.1, waiting := [(c, img, kern)] })
    | some e =>
      if e.st = 1 then some { s1 with mint := s1.mint.map fun x => if x.order = e.order then { x with waiting := x.waiting ++ [(c, img, kern)] } else x }
      else if e.st = 2 then some (match e.built with | some b => mintInstall s1 c img kern b | none => s1)
      else some s1
  | _, _ => none
/-- MINT_TRIGGER. -/
def execMintTrigger (c img kern : Nat) (s : State) : Out := .next ((mintTrigger s c img kern).getD s)
/-- A map of a built version is over the values of the portable version's map of that number (R296): it names none that the other does not
hold. One that it leaves out is dead there (R286; log entry 32). -/
def overValues (p m : SpMap) : Bool := p.spn == m.spn && m.ents.all fun e => e.val == 255 || (p.ents.map (·.val)).contains e.val
/-- A built version is one R296 allows to be installed: well-formed maps for exactly the portable version's numbers, over the same values. -/
def builtOk (k : Kernel) (b : BuiltVersion) : Bool :=
  match portableOf k, readMaps (asBytes b.maps) true b.code.length b.nmap 0 with
  | some (_, p), some ms => (p.maps.all fun m => ms.any (overValues m)) && (ms.all fun m => p.maps.any (overValues · m))
  | _, _ => false
/-- MINT_BUILD_DONE (R295, R296): a translation that some kernel's trigger waits for ends; what it built comes from outside (log
entry 32). -/
def mintBuildDone (s : State) (c img kern : Nat) (built : Option BuiltVersion) : Option State :=
  match s.mint.find? fun e => e.st == 1 && e.waiting.contains (c, img, kern) with
  | none => none
  | some e =>
    let ok (b : BuiltVersion) : Bool :=
      match kernelOf s c img kern with
      | some k => builtOk k b && (List.range 16).any fun i => (mget k.vers i).isNone
      | none => true
    let put (st : Nat) (b : Option BuiltVersion) : State :=
      { s with mint := s.mint.map fun x => if x.order = e.order then { x with st := st, built := b, waiting := [] } else x }
    match built with
    | some b =>
      if ok b then some (e.waiting.foldl (fun s w => mintInstall s w.1 w.2.1 w.2.2 b) (put 2 (some b)))
      else some { put 3 none with mintStat := mintFailed s.mintStat }
    | none => some { put 3 none with mintStat := mintFailed s.mintStat }
/-- MINT_BUILD_DONE. -/
def execMintBuildDone (c img kern : Nat) (built : Option BuiltVersion) (s : State) : Out := .next ((mintBuildDone s c img kern built).getD s)
/-- A write to MINT_STAT clears it (R294). -/
def execMintStatClear (s : State) : Out := hostReg s fun s => { s with mintStat := 0 }

end Sys2Proof.Machine
end

