-- ==== Sys2Proof/Machine/Engines.lean ====
section
/-!
DEFINITION. Engine commands (R242-R257): issue, tokens, `wait` and `wtok`, engine causes, completion, and the copy family.
-/
namespace Sys2Proof.Machine

/-! ### Ranges (R244, R254, R255) -/

/-- Where a range of a command lies: a virtual address, an offset in a chosen allocation, or neither. -/
inductive Rng where
  | virt (va : Nat)
  | loc (blk off : Nat)
  | bad
  deriving DecidableEq, Repr
/-- An address range of n bytes as issue checks it (R244). -/
def rangeOf (s : State) (blk a n : Nat) : Except Nat Rng :=
  if n = 0 then .ok .bad
  else match place a with
    | .virt va => if va + n ≤ 2 ^ 52 then .ok (.virt va) else .error 0x06
    | .clus c off =>
      if 2 ^ 64 < a + n then .error 0x06
      else match clusterBlock s blk c with
        | some t => if off + n ≤ allocSize s t then .ok (.loc t off) else .error 0x08
        | none => .error 0x08
    | .bad => .error 0x06
/-- The cause of a range. -/
def rangeCause (r : Except Nat Rng) : Option Nat := match r with | .ok _ => none | .error c => some c
/-- Two ranges share a byte (R255). -/
def overlap (r q : Rng) (n m : Nat) : Bool :=
  match r, q with
  | .virt a, .virt b => decide (a < b + m) && decide (b < a + n)
  | .loc x a, .loc y b => x == y && decide (a < b + m) && decide (b < a + n)
  | _, _ => false
/-- Two checked ranges share a byte. -/
def overlapE (r q : Except Nat Rng) (n m : Nat) : Bool :=
  match r, q with | .ok a, .ok b => overlap a b n m | _, _ => false
/-- The lowest of the causes that apply (R110, R243). -/
def lowest (l : List (Option Nat)) : Option Nat :=
  l.foldl (fun m c => match m, c with | some a, some b => some (min a b) | none, c => c | m, none => m) none
/-- A cause when a condition holds. -/
def causeIf (b : Bool) (c : Nat) : Option Nat := if b then some c else none
/-- The allocations that addresses of cluster space choose at issue: core number and block (R202). -/
def chosenOf (s : State) (blk : Nat) (as : List Nat) : AMap Nat :=
  as.foldl (fun m a => match place a with
    | .clus c _ => (match clusterBlock s blk c with | some t => mset m c t | none => m)
    | .virt _ | .bad => m) []
/-- An address of a running command as a range, by the allocations chosen at issue. -/
def cmdRng (d : Cmd) (a : Nat) : Rng :=
  match place a with
  | .virt va => .virt va
  | .clus c off => (match mget d.chosen c with | some t => .loc t off | none => .loc 0 (2 ^ 20))
  | .bad => .bad

/-! ### Issue (R242-R246) -/

/-- The parameter block of n registers from xa: lane 0 of each (R242). -/
def blockOf (s : State) (g : Group) (xa n : Nat) : List Word := (List.range n).map fun i => uni s g (xa + i)
/-- A parameter. -/
def prmW (p : List Word) (i : Nat) : Nat := (p.getD i 0).toNat
/-- A pair of a parameter block. -/
def prmP (p : List Word) (i : Nat) : Nat := prmW p i + prmW p (i + 1) * 2 ^ 32
/-- A command's wait class (R245). -/
def CmdKind.cls : CmdKind → Nat
  | .cpy | .cpy2d | .gath _ | .scat _ | .cpyl | .fill => 0
  | .allred _ _ | .allgath | .redscat _ _ | .bcast => 1
  | .mxrel | .mxld | .mxmm | .mxmmg => 2
/-- A command's access path (R223): CE, CL or MX. -/
def CmdKind.path (k : CmdKind) : Nat := if k.cls = 0 then 1 else if k.cls = 1 then 3 else 2
/-- The outstanding count of a class; class 3 is all of them (R246, R247). -/
def classCount (s : State) (u c : Nat) : Nat := ((groupCmds s u).filter fun e => c == 3 || e.2.cls == c).length
/-- The next token of a class (R245). -/
def nextToken (g : Group) (c : Nat) : Nat := (mgetD g.cnt c 0 + 1) % 2 ^ 30
/-- What an agent sees and has read, another sees and has read too: a command starts with the view of its group's path (R236). -/
def copyView (s : State) (a b : Nat) : State :=
  { s with log := s.log.map fun e => { e with
      seenBy := if e.seenBy.contains a && !e.seenBy.contains b then b :: e.seenBy else e.seenBy
      seenAt := (e.seenAt.filterMap fun x => if x.1 == a then some (b, x.2) else none) ++ e.seenAt
      readAt := (e.readAt.filterMap fun x => if reader x.1 == reader a then some (b, x.2) else none) ++ e.readAt } }
/-- A cluster slot (R274). -/
def clusterSlot (s : State) (g : Group) : Nat := coreNum (coreOfGroup s g) * 32 + g.slot
/-- A command issued (R243, R245, R246): its number, the state, the group with its counter and token. -/
def issueCmd (s : State) (u : Nat) (g : Group) (kind : CmdKind) (prm : List Word) (arv : Option Nat) (chosen : AMap Nat) : Nat × State × Group :=
  let c := kind.cls
  let n := nextToken g c
  let tok : Word := BitVec.ofNat 32 (c * 2 ^ 30 + n)
  let f := fresh s
  let core := coreOfGroup s g
  let d : Cmd :=
    { kind := kind, grp := u, block := g.block, grid := g.grid, ctx := g.ctx, core := core, slot := clusterSlot s g, cls := c, token := tok, prm := prm, arv := arv, chosen := chosen, prog := 0, stalled := false, started := false, members := [], node := none, comm := 0, seq := 0, writes := [], ordered := mgetD g.pfSnap kind.path [], data := [], fail := none, save := true }
  let s1 := copyView { f.2 with cmds := mset f.2.cmds f.1 d } (agent u kind.path) (agent f.1 kind.path)
  (f.1, bumpOut s1 g.grid core true, { g with cnt := mset g.cnt c n })
/-- A command word (R242-R246): the seventeenth of its class waits; its checks; then it issues and xd receives the token. -/
def cmdWord (sm : Bool) (kind : CmdKind) (n : Nat) (xd xa : Nat)
    (check : State → Group → List Word → Option Nat) (arv : List Word → Option Nat)
    (after : State → Nat → List Word → Nat → State) (addrs : List Word → List Nat) (s : State) : Out :=
  word s (xd :: (List.range n).map (xa + ·)) fun u g =>
    if 16 ≤ classCount s u kind.cls then parkOn s u g (.cls kind.cls 15)
    else
      let p := blockOf s g xa n
      match check s g p with
      | some c => raise s u g c
      | none =>
        let r := issueCmd s u g kind p (arv p) (chosenOf s g.block (addrs p))
        let tok : Word := BitVec.ofNat 32 (kind.cls * 2 ^ 30 + nextToken g kind.cls)
        after (fin r.2.1 u sm 4 (writeU s r.2.2 xd tok)) r.1 p g.block

/-! ### Waiting (R247, R248) -/

/-- Commands of a group whose tokens `wait` or `wtok` reaches: it sees them complete (R240, R249). -/
def seeComplete (g : Group) (p : Word → Bool) : Group :=
  let ids := (g.compl.filter fun e => p e.1).flatMap (·.2)
  { g with seen := union g.seen ids, waited := union g.waited ids, compl := g.compl.filter fun e => !p e.1 }
/-- The class of a token. -/
def tokCls (t : Word) : Nat := t.toNat / 2 ^ 30
/-- A group orders copies by waiting on a token before issuing the next (R252): the writes of the copies it now sees complete are visible to
the copies it issues later. -/
def orderCopies (s : State) (u : Nat) (g : Group) (p : Word → Bool) : State :=
  markSeen s (agent u 1) ((g.compl.filter fun e => p e.1 && tokCls e.1 == 0).flatMap (·.2))
/-- `wait` (R247). -/
def waitOp (len : Nat) (sm : Bool) (cls count : Nat) (s : State) : Out :=
  acting s fun u g =>
    let p (t : Word) : Bool := t != escToken && (cls == 3 || tokCls t == cls)
    if classCount s u cls ≤ count then fin (orderCopies s u g p) u sm len (seeComplete g p)
    else parkOn s u g (.cls cls count)
/-- `wait` (R247). -/
def execWait (sm : Bool) (cls count : Nat) (s : State) : Out := waitOp 4 sm cls count s
/-- Short `wait` (R100): class a, count b. -/
def execShortWait (a b : Nat) (s : State) : Out := waitOp 2 false a b s
/-- `wtok` (R248). -/
def execWtok (sm : Bool) (xa : Nat) (s : State) : Out :=
  word s [xa] fun u g =>
    let t := uni s g xa
    let d := (t.toNat % 2 ^ 30 + 2 ^ 30 - mgetD g.cnt (tokCls t) 0) % 2 ^ 30
    if tokCls t = 3 || (decide (1 ≤ d) && decide (d < 2 ^ 29)) then raise s u g 0x0C
    else if (groupCmds s u).any fun e => e.2.token == t then parkOn s u g (.token t)
    else fin (orderCopies s u g fun q => q == t) u sm 4 (seeComplete g fun q => q == t)

/-! ### Completion and causes (R249, R250) -/

/-- A command leaves: its outstanding entry falls, its group may see it complete, its queue forgets it. -/
def completeCmd (s : State) (id : Nat) (d : Cmd) : State :=
  let s1 := { s with
    cmds := mdel s.cmds id
    clusters := s.clusters.map fun e => (e.1, { e.2 with queues := e.2.queues.map fun q => (q.1, q.2.filter (· != id)) }) }
  if d.grp = 0 then s1
  else modGroup (bumpOut s1 d.grid d.core false) d.grp fun g => { g with compl := g.compl ++ [(d.token, d.writes)] }
/-- The lines that a `cpyl` has not landed: from its progress to the end of its range (R203, R256). -/
def cpylLines (d : Cmd) (frm : Nat) : List Nat :=
  let off := prmW d.prm 0
  let n := prmW d.prm 4
  if n ≤ frm then [] else (List.range ((off + n - 1) / 128 - (off + frm) / 128 + 1)).map fun i => (off + frm) / 128 + i
/-- Pending counts of lines of an allocation changed by one (R203). -/
def pendLines (s : State) (blk : Nat) (ls : List Nat) (up : Bool) : State :=
  modBlock s blk fun b => { b with pend := ls.foldl (fun m l =>
    let c := mgetD m l 0
    let c' := if up then c + 1 else c - 1
    if c' = 0 then mdel m l else mset m l c') b.pend }
/-- An abandoned command writes nothing more and completes (R250); a `cpyl` lowers the counts of the lines it had not landed (R203). -/
def abandonCmd (s : State) (id : Nat) (d : Cmd) : State :=
  let s1 := match d.kind with | .cpyl => pendLines s d.block (cpylLines d d.prog) false | _ => s
  completeCmd s1 id d
/-- A fault of a running command (R250): causes 0x05 to 0x07 with an address hold it until the handler has repaired them; any other
abandons it. A copy node's command fails its node (R368). The walk that met it is noted (R319, R321). -/
def engineFault (s0 : State) (id : Nat) (d : Cmd) (cause : Nat) (va : Option Nat) (write : Bool) : State :=
  let s := match va with | some a => touchVa s0 d.ctx a | none => s0
  if d.grp = 0 then { s with cmds := mset s.cmds id { d with fail := some cause } }
  else if va.isSome && decide (5 ≤ cause ∧ cause ≤ 7) then
    addCause { s with cmds := mset s.cmds id { d with stalled := true } } d.grp { cause := cause, token := d.token, va := va, write := write, cmd := some id }
  else addCause (abandonCmd s id d) d.grp { cause := cause, token := d.token, va := va, write := write, cmd := none }

/-! ### Bytes of a running command -/

/-- Why a byte cannot be reached: the cause, and the virtual address where there is one. -/
abbrev EngErr := Nat × Option Nat
/-- The location of byte i of a range (R244, R254). -/
def byteLoc (s : State) (c : Nat) (r : Rng) (i kind : Nat) : Except EngErr Nat :=
  match r with
  | .virt va =>
    if 2 ^ 52 ≤ va + i then .error (0x06, some (va + i))
    else match resolve s c (va + i) kind with | .ok pa => .ok pa | .error e => .error (e, some (va + i))
  | .loc blk off => if off + i < allocSize s blk then .ok (localLoc blk (off + i)) else .error (0x08, none)
  | .bad => .error (0x06, none)
/-- Where byte i of a range stands for the alignment of its units. -/
def Rng.start : Rng → Nat
  | .virt va => va
  | .loc _ off => off
  | .bad => 0
/-- The single-copy units of n bytes from an address: aligned words, and bytes where less is touched (R225). -/
def engUnits : Nat → Nat → Nat → List (Nat × Nat)
  | 0, _, _ => []
  | fuel + 1, a, n =>
    if n = 0 then []
    else if a % 4 = 0 && decide (4 ≤ n) then (a, 4) :: engUnits fuel (a + 4) (n - 4)
    else (a, 1) :: engUnits fuel (a + 1) (n - 1)
/-- A unit of an engine access: location, length, and the virtual address, where it has one. -/
structure EngUnit where
  loc : Nat
  len : Nat
  va : Option Nat
  deriving DecidableEq, Repr
/-- The virtual address of byte i of a range. -/
def Rng.vaAt (r : Rng) (i : Nat) : Option Nat := match r with | .virt va => some (va + i) | .loc _ _ | .bad => none
/-- The single-copy units of bytes [i, i + n) of a range, or the first fault. -/
def rngUnits (s : State) (c : Nat) (r : Rng) (i n kind : Nat) : Except EngErr (List EngUnit) :=
  (engUnits n (r.start + i) n).foldl (fun acc q =>
    match acc with
    | .error e => .error e
    | .ok l => match byteLoc s c r (q.1 - r.start) kind with
      | .ok loc => .ok (l ++ [⟨loc, q.2, r.vaAt (q.1 - r.start)⟩])
      | .error e => .error e) (.ok [])
/-- A byte of local memory as a command of a deterministic context reads it: the newest write that a rule makes visible to its path. The spec leaves
older and newer ones free (R226) and lets no two runs differ in them (R334): the model's choice is that what no rule orders before the read is
not seen (log entry 61). -/
def orderedByte (s : State) (a loc : Nat) : Byte :=
  match ((touching s loc 1).takeWhile fun e => !e.knownAt a loc).getLast? with
  | some e => e.before loc
  | none => Memory.read s.mem loc
/-- One unit as a command reads it: through its path, or in a deterministic context as the round lets it (R334, R337). -/
def engReadUnit (s : State) (id : Nat) (d : Cmd) (loc n : Nat) : List Byte :=
  match mget s.groups d.grp with
  | some g =>
    if detOf s g then
      (List.range n).map fun i => if isPhys loc then roundByte s g d.ordered (loc + i) else orderedByte s (agent id d.kind.path) (loc + i)
    else readUnit s (agent id d.kind.path) .never loc n
  | none => readUnit s (agent id d.kind.path) .never loc n
/-- Bytes [i, i + n) of a range read by a command. -/
def engRead (s : State) (id : Nat) (d : Cmd) (r : Rng) (i n : Nat) : Except EngErr (List Byte) :=
  match rngUnits s d.ctx r i n 0 with
  | .ok us => .ok (us.flatMap fun q => engReadUnit s id d q.loc q.len)
  | .error e => .error e
/-- The walks and bytes of units that an engine has accessed, in the touched-dies mask (R319). -/
def touchUnits (s : State) (c : Nat) (us : List EngUnit) : State :=
  us.foldl (fun s q => touchPa (match q.va with | some a => touchVa s c a | none => s) c q.loc) s
/-- The walks and bytes of a range that an engine has read (R319). -/
def touchRng (s : State) (c : Nat) (r : Rng) (i n : Nat) : State :=
  match rngUnits s c r i n 0 with | .ok us => touchUnits s c us | .error _ => s
/-- A line that a `cpyl` has landed is visible to the loads of every group of its block (R203, R237; log entry 12). -/
def showBlock (s : State) (blk id : Nat) : State :=
  match mget s.blocks blk with
  | some b => b.groups.foldl (fun s u => markSeen s (agent u 0) [(id, none)]) s
  | none => s
/-- Units written by a command, in order; its list of writes grows. -/
def putUnits (s : State) (d : Cmd) : List EngUnit → List Byte → State × Cmd
  | [], _ => (s, d)
  | q :: us, bs =>
    let s1 := putUnit s (agent d.grp d.kind.path) d.ctx q.loc q.va (bs.take q.len) false []
    let s2 := if d.kind == .cpyl then showBlock s1 d.block s.nextUid else s1
    putUnits s2 { d with writes := (s.nextUid, none) :: d.writes } us (bs.drop q.len)
/-- Whether a command's writes to virtual addresses enter its block's round buffer (R336): copy and collective commands of a
deterministic context's groups. -/
def bufferedCmd (s : State) (d : Cmd) : Bool := (ctxOf s d.ctx).det && d.grp != 0 && d.cls != 2
/-- Bytes of a command as its block's round buffer holds them: the writer is lane 0 of its group (R336). -/
def cmdBytes (s : State) (d : Cmd) (l : List (Nat × Byte)) : List RoundByte :=
  let w := match mget s.groups d.grp with | some g => threadIdx s g 0 | none => 0
  l.map fun p => ⟨p.1, p.2, w⟩
/-- What a read and write of n bytes that a command of a deterministic grid makes at a virtual address meets, as any read of an engine: the round's
start and what its block had buffered before the `pfence` to the command's path (R337; log entry 54). -/
def bufferedOld (s : State) (d : Cmd) (loc n : Nat) : Nat :=
  match mget s.groups d.grp with
  | some g => leNat ((List.range n).map fun i => roundByte s g d.ordered (loc + i))
  | none => loadNewest s loc n
/-- What it writes enters the block's buffer (R336). -/
def bufferWord (s : State) (d : Cmd) (loc n v : Nat) : Except Nat State :=
  bufAdd s d.block (cmdBytes s d (((List.range n).map (loc + ·)).zip (leBytes n v)))
/-- Bytes written to [i, i + n) of a range by a command, whole or not at all. -/
def engWrite (s : State) (d : Cmd) (r : Rng) (i : Nat) (bs : List Byte) : Except EngErr (State × Cmd) :=
  match rngUnits s d.ctx r i bs.length 1 with
  | .error e => .error e
  | .ok us =>
    if bufferedCmd s d && (r.vaAt 0).isSome then
      match bufAdd s d.block (cmdBytes s d ((us.flatMap fun q => (List.range q.len).map (q.loc + ·)).zip bs)) with
      | .ok s1 => .ok (touchUnits s1 d.ctx us, d)
      | .error c => .error (c, none)
    else
      let r := putUnits s d us bs
      .ok (touchUnits r.1 d.ctx us, r.2)

/-! ### Arrivals (R257) -/

/-- A command's arrival word checked at issue: 8-byte aligned, its range as any range (R257). -/
def arvCause (s : State) (blk : Nat) (a : Option Nat) : Option Nat :=
  match a with
  | none => none
  | some a => lowest [causeIf (a % 8 != 0) 0x04, rangeCause (rangeOf s blk a 8)]
/-- What an arrival publishes: the command's writes (R257), or none of them for an empty-barrier word (R273). -/
def arvPub (s : State) (d : Cmd) (loc : Nat) (ids : List Vis) : Published :=
  { scope := locScope loc, blk := d.block, clu := (match mget s.blocks d.block with | some b => clusterNum b.core | none => clusterNum d.core), ctx := d.ctx, ids := ids, eng := true }
/-- A command's arrival on a barrier word at a location (R257): an update of memory, or in a deterministic context of its block's
buffer; or a cause. -/
def cmdArrive (s : State) (d : Cmd) (loc : Nat) : Except Nat State :=
  if bufferedCmd s d && isPhys loc then
    match barrierArrive (bufferedOld s d loc 8) with
    | some (_, w) => bufferWord s d loc 8 w
    | none => .error 0x09
  else match arriveAt s (agent d.grp d.kind.path) d.ctx loc [arvPub s d loc d.writes] with
    | some s1 => .ok s1
    | none => .error 0x09
/-- The end of a command whose writes have performed: its arrival, then its completion; nothing happens to a word that awaits no
arrival, and the command takes cause 0x09 (R249, R257). -/
def finishCmd (s : State) (id : Nat) (d : Cmd) : State :=
  match d.arv with
  | none => completeCmd s id d
  | some a =>
    let r := cmdRng d a
    match byteLoc s d.ctx r 0 1 with
    | .error e => engineFault s id d e.1 e.2 true
    | .ok loc =>
      match cmdArrive s d loc with
      | .ok s1 => completeCmd (touchUnits s1 d.ctx [⟨loc, 8, r.vaAt 0⟩]) id d
      | .error c => engineFault s id d c none true
/-- A block is on its core, or gone: what a command of it or of its choice waits for after a restore (R316). -/
def blockBack (s : State) (blk : Nat) : Bool := match mget s.blocks blk with | some b => b.st == .running || b.st == .queued | none => true
/-- Nothing holds a command, and its blocks are back (R316). -/
def cmdReady (s : State) (d : Cmd) : Bool := !d.stalled && d.fail.isNone && (d.block :: d.chosen.map (·.2)).all (blockBack s)
/-- Work of a context's command goes on: the context runs (R251), and nothing holds the command. -/
def cmdRuns (s : State) (d : Cmd) : Bool := (ctxOf s d.ctx).cst == 1 && cmdReady s d

/-! ### The copy family (R253-R256) -/

/-- One move of a copy command: where from (or the bytes of a pattern), where to. -/
structure Move where
  src : Rng
  si : Nat
  dst : Rng
  di : Nat
  n : Nat
  deriving DecidableEq, Repr
/-- The total bytes of a copy command. -/
def copyTotal (d : Cmd) : Nat :=
  match d.kind with
  | .cpy | .cpyl => prmW d.prm 4
  | .cpy2d => prmW d.prm 4 * prmW d.prm 5
  | .gath _ | .scat _ => prmW d.prm 6 * prmW d.prm 7
  | .fill => prmW d.prm 3
  | .allred _ _ | .allgath | .redscat _ _ | .bcast | .mxrel | .mxld | .mxmm | .mxmmg => 0
/-- The bytes from a destination address to the next 4 KiB boundary (R251). -/
def toBoundary (a : Nat) : Nat := 4096 - a % 4096
/-- The destination of a `cpyl`: the block's own allocation (R256). -/
def cpylDst (d : Cmd) : Rng := .loc d.block (prmW d.prm 0)
/-- An index of the list, read by the engine (R254). -/
def listIndex (s : State) (id : Nat) (d : Cmd) (i : Nat) : Except EngErr Nat :=
  match engRead s id d (cmdRng d (prmP d.prm 4)) (4 * i) 4 with
  | .ok bs => .ok (leNat bs)
  | .error e => .error e
/-- The moves of a copy command from byte q in one row or element (R254), up to the next 4 KiB-aligned destination address, in a `cpyl` to the
end of the line, and the byte after them. -/
def moveAt (s : State) (id : Nat) (d : Cmd) (q : Nat) : Except EngErr (List Move × Nat) :=
  let at_ (o : Nat) : Rng := cmdRng d (prmP d.prm o)
  let dst0 := at_ 0
  let src0 := at_ 2
  match d.kind with
  | .cpy =>
    let n := min (prmW d.prm 4 - q) (toBoundary (dst0.start + q))
    .ok ([⟨src0, q, dst0, q, n⟩], q + n)
  | .cpyl =>
    let n := min (prmW d.prm 4 - q) (128 - (prmW d.prm 0 + q) % 128)
    .ok ([⟨src0, q, cpylDst d, q, n⟩], q + n)
  | .cpy2d =>
    let rb := prmW d.prm 4
    let di := q / rb * prmW d.prm 6 + q % rb
    let n := min (rb - q % rb) (toBoundary (dst0.start + di))
    .ok ([⟨src0, q / rb * prmW d.prm 7 + q % rb, dst0, di, n⟩], q + n)
  | .gath scl =>
    let e := prmW d.prm 7
    (match listIndex s id d (q / e) with
     | .error x => .error x
     | .ok idx =>
       let n := min (e - q % e) (toBoundary (dst0.start + q))
       let sc : List Move := if scl && q % e + n == e then [⟨at_ 10, idx, at_ 8, q / e, 1⟩] else []
       .ok (⟨src0, idx * e + q % e, dst0, q, n⟩ :: sc, q + n))
  | .scat scl =>
    let e := prmW d.prm 7
    (match listIndex s id d (q / e) with
     | .error x => .error x
     | .ok idx =>
       let n := min (e - q % e) (toBoundary (dst0.start + idx * e + q % e))
       let sc : List Move := if scl && q % e + n == e then [⟨at_ 10, q / e, at_ 8, idx, 1⟩] else []
       .ok (⟨src0, q, dst0, idx * e + q % e, n⟩ :: sc, q + n))
  | .fill =>
    let n := min (prmW d.prm 3 - q) (toBoundary (dst0.start + q))
    .ok ([⟨dst0, q, dst0, q, n⟩], q + n)
  | .allred _ _ | .allgath | .redscat _ _ | .bcast | .mxrel | .mxld | .mxmm | .mxmmg => .ok ([], q)
/-- The 4 KiB of its destination in which a piece lies: that of its first byte (R251). -/
def pieceOf (ms : List Move) : Option Nat := ms.head?.map fun m => (m.dst.start + m.di) / 4096
/-- Where the destination of a copy's byte is known without its index list: that byte's 4 KiB. -/
def knownPiece (d : Cmd) (q : Nat) : Option Nat :=
  let dst := (cmdRng d (prmP d.prm 0)).start
  match d.kind with
  | .cpy | .gath _ | .fill => some ((dst + q) / 4096)
  | .cpy2d => some ((dst + q / prmW d.prm 4 * prmW d.prm 6 + q % prmW d.prm 4) / 4096)
  | .cpyl => some (((cpylDst d).start + q) / 4096)
  | .scat _ | .allred _ _ | .allgath | .redscat _ _ | .bcast | .mxrel | .mxld | .mxmm | .mxmmg => none
/-- A move leaves its allocation, so that its element ends the command with those before it written (R254). -/
def leavesSpace (s : State) (ms : List Move) : Bool :=
  let beyond (r : Rng) (i n : Nat) : Bool := match r with | .loc blk off => decide (allocSize s blk < off + i + n) | .virt _ | .bad => false
  ms.any fun m => beyond m.src m.si m.n || beyond m.dst m.di m.n
/-- The further moves of the piece that lies in a given 4 KiB of the destination, from byte q, and the byte after them. -/
def restOfPiece (s : State) (id : Nat) (d : Cmd) (page : Option Nat) : Nat → Nat → Except EngErr (List Move × Nat)
  | 0, q => .ok ([], q)
  | n + 1, q =>
    if copyTotal d ≤ q || ((knownPiece d q).isSome && knownPiece d q != page) then .ok ([], q)
    else match moveAt s id d q with
      | .error e => if (knownPiece d q).isSome then .error e else .ok ([], q)
      | .ok (ms, q1) =>
        if pieceOf ms != page || leavesSpace s ms then .ok ([], q)
        else match restOfPiece s id d page n q1 with
          | .ok r => .ok (ms ++ r.1, r.2)
          | .error e => .error e
/-- The moves of the next piece of a copy command, and the byte after it (R251, R254): all that go, without a break, to one 4 KiB of its
destination, of several rows or elements too. -/
def nextMoves (s : State) (id : Nat) (d : Cmd) : Except EngErr (List Move × Nat) :=
  match moveAt s id d d.prog with
  | .error e => .error e
  | .ok (ms, q) =>
    match restOfPiece s id d (pieceOf ms) (copyTotal d - q) q with
    | .ok r => .ok (ms ++ r.1, r.2)
    | .error e => .error e
/-- The bytes that a move puts (R254): read from the source, or the pattern of `fill` by address. -/
def moveBytes (s : State) (id : Nat) (d : Cmd) (m : Move) : Except EngErr (List Byte) :=
  match d.kind with
  | .fill => .ok ((List.range m.n).map fun p => BitVec.ofNat 8 (prmW d.prm 2 / 256 ^ ((m.dst.start + m.di + p) % 4)))
  | _ => engRead s id d m.src m.si m.n
/-- The moves made one after another once every one can be: all reads, then all writes (R250). -/
def makeMoves (s : State) (id : Nat) (d : Cmd) (ms : List Move) : Except (EngErr × Bool) (State × Cmd) :=
  let reads := ms.map fun m => (m, moveBytes s id d m)
  match reads.findSome? fun p => match p.2 with | .error e => some e | .ok _ => none with
  | some e => .error (e, false)
  | none =>
    match ms.findSome? fun m => match rngUnits s d.ctx m.dst m.di m.n 1 with | .error e => some e | .ok _ => none with
    | some e => .error (e, true)
    | none => reads.foldl (fun acc p =>
        match acc, p.2 with
        | .ok (s, d), .ok bs => (match engWrite s d p.1.dst p.1.di bs with | .ok r => .ok r | .error e => .error (e, true))
        | e, _ => e) (.ok (s, d))
/-- The walks and bytes that the reads of a piece up to byte q have reached: its sources, and the indices it used (R319). -/
def touchMoves (s : State) (d : Cmd) (ms : List Move) (q : Nat) : State :=
  let s1 := match d.kind with
    | .gath _ | .scat _ =>
      let i := d.prog / prmW d.prm 7
      touchRng s d.ctx (cmdRng d (prmP d.prm 4)) (4 * i) (4 * (cdiv q (prmW d.prm 7) - i))
    | _ => s
  match d.kind with
  | .fill => s1
  | _ => ms.foldl (fun s m => touchRng s d.ctx m.src m.si m.n) s1
/-- The element after byte q ends the command within a piece that began: there is no point for pre-emption between them (R251, R254). -/
def endsInside (s : State) (id : Nat) (d : Cmd) (ms : List Move) (q : Nat) : Bool :=
  decide (q < copyTotal d) && (match moveAt s id d q with | .ok (next, _) => pieceOf next == pieceOf ms && leavesSpace s next | .error _ => false)
/-- One piece of a copy command (R250, R251, R254): a fault holds it before it writes anything, and after it the command may be pre-empted. -/
def copyPiece (s : State) (id : Nat) (d : Cmd) : State :=
  match nextMoves s id d with
  | .error e => engineFault s id d e.1 e.2 false
  | .ok (ms, q) =>
    match makeMoves s id d ms with
    | .error e => engineFault s id d e.1.1 e.1.2 e.2
    | .ok (s1, d1) =>
      { touchMoves s1 d ms q with cmds := mset s1.cmds id { d1 with prog := q, save := !endsInside s id d ms q } }
/-- The lines of a `cpyl` whose last byte a piece landed (R203). -/
def landed (d : Cmd) (frm til : Nat) : List Nat :=
  (cpylLines d frm).filter fun l => decide ((l + 1) * 128 ≤ prmW d.prm 0 + til) || decide (prmW d.prm 4 ≤ til)
/-- The bytes of the next piece of a `cpyl`, read once for all its lines, or the fault that holds the command before it writes any (R250, R254). -/
def readPiece (s : State) (id : Nat) (d : Cmd) : Except EngErr (List Byte × State) :=
  match nextMoves s id d with
  | .error e => .error e
  | .ok (ms, q) =>
    match engRead s id d (cmdRng d (prmP d.prm 2)) d.prog (q - d.prog) with
    | .error e => .error e
    | .ok bs => .ok (bs, touchMoves s d ms q)
/-- A line of a `cpyl` lands with the bytes that its piece has read; after the last line of the piece the command may be pre-empted. -/
def landLine (s : State) (id : Nat) (d : Cmd) : State :=
  let n := min (copyTotal d - d.prog) (128 - (prmW d.prm 0 + d.prog) % 128)
  match engWrite s d (cpylDst d) d.prog (d.data.take n) with
  | .error e => engineFault s id d e.1 e.2 true
  | .ok (s1, d1) =>
    let s2 := { s1 with cmds := mset s1.cmds id { d1 with prog := d.prog + n, data := d.data.drop n, save := (d.data.drop n).isEmpty } }
    pendLines s2 d.block (landed d d.prog (d.prog + n)) false
/-- CPYL_LINE_LAND (R203, R256): the next line of a `cpyl` lands. -/
def cpylLand (s : State) (id : Nat) : Option State :=
  match mget s.cmds id with
  | some d =>
    if d.kind = .cpyl && cmdRuns s d && decide (d.prog < copyTotal d) then
      if d.data.isEmpty then
        (match readPiece s id d with
         | .error e => some (engineFault s id d e.1 e.2 false)
         | .ok (bs, s1) => some (landLine s1 id { d with data := bs }))
      else some (landLine s id d)
    else none
  | none => none
/-- CPYL_LINE_LAND (R203). -/
def execCpylLineLand (cmd : Nat) (s : State) : Out := .next ((cpylLand s cmd).getD s)
/-- The next step of a copy command: a piece, or its arrival and completion (R249). -/
def copyStep (s : State) (id : Nat) : Option State :=
  match mget s.cmds id with
  | some d =>
    if d.cls != 0 || !cmdRuns s d then none
    else if d.prog < copyTotal d then (if d.kind = .cpyl then none else some (copyPiece s id d))
    else some (finishCmd s id d)
  | none => none

/-- The addresses a block names, for the allocations chosen at issue. -/
def pairs2 (p : List Word) : List Nat := [prmP p 0, prmP p 2]
/-- The ARV pair of a block at an offset, when the option is set. -/
def arvAt (arv : Bool) (o : Nat) (p : List Word) : Option Nat := if arv then some (prmP p o) else none
/-- The checks of `cpy` (R244, R255, R257). -/
def cpyCheck (arv : Bool) (s : State) (blk : Nat) (p : List Word) : Option Nat :=
  let n := prmW p 4
  let d := rangeOf s blk (prmP p 0) n
  let r := rangeOf s blk (prmP p 2) n
  lowest [arvCause s blk (arvAt arv 6 p), rangeCause d, rangeCause r, causeIf (overlapE d r n n) 0x0C]
/-- `cpy` (R253, R254). -/
def execCpy (sm arv : Bool) (xd xa : Nat) (s : State) : Out :=
  cmdWord sm .cpy (if arv then 8 else 5) xd xa (fun s g => cpyCheck arv s g.block) (arvAt arv 6) (fun s _ _ _ => s)
    (fun p => pairs2 p ++ (arvAt arv 6 p).toList) s
/-- Whether some destination row of `cpy2d` meets some source row, or the destination rows each other (R255). -/
def rowsMeet (d r : Rng) (rb nr ds ss : Nat) : Bool :=
  let ext (st : Nat) : Nat := (nr - 1) * st + rb
  (decide (1 < nr) && decide (0 < rb) && decide (ds < rb)) ||
    (overlap d r (ext ds) (ext ss) &&
      (List.range nr).any fun i =>
        let lo := d.start + i * ds
        let k := if ss = 0 then 0 else min ((lo - r.start) / ss) (nr - 1)
        (List.range 3).any fun j =>
          let q := k + j - 1
          decide (q < nr) && decide (lo < r.start + q * ss + rb) && decide (r.start + q * ss < lo + rb))
/-- The checks of `cpy2d`. -/
def cpy2dCheck (arv : Bool) (s : State) (blk : Nat) (p : List Word) : Option Nat :=
  let rb := prmW p 4
  let nr := prmW p 5
  let ext (st : Nat) : Nat := if rb = 0 || nr = 0 then 0 else (nr - 1) * st + rb
  let d := rangeOf s blk (prmP p 0) (ext (prmW p 6))
  let r := rangeOf s blk (prmP p 2) (ext (prmW p 7))
  let meet := match d, r with | .ok a, .ok b => ext (prmW p 6) != 0 && rowsMeet a b rb nr (prmW p 6) (prmW p 7) | _, _ => false
  lowest [arvCause s blk (arvAt arv 8 p), rangeCause d, rangeCause r, causeIf meet 0x0C]
/-- `cpy2d` (R253, R254). -/
def execCpy2d (sm arv : Bool) (xd xa : Nat) (s : State) : Out :=
  cmdWord sm .cpy2d (if arv then 10 else 8) xd xa (fun s g => cpy2dCheck arv s g.block) (arvAt arv 8) (fun s _ _ _ => s)
    (fun p => pairs2 p ++ (arvAt arv 8 p).toList) s
/-- Any two of a list of checked ranges share a byte. -/
def anyOverlap : List (Except Nat Rng × Nat) → Bool
  | [] => false
  | a :: l => (l.any fun b => overlapE a.1 b.1 a.2 b.2) || anyOverlap l
/-- The checks of `gath` and `scat` (R244, R253, R255): the contiguous ranges. -/
def gatherCheck (gath scl : Bool) (a : List Word → Option Nat) (s : State) (g : Group) (p : List Word) : Option Nat :=
  let c := prmW p 6
  let e := prmW p 7
  let rs : List (Except Nat Rng × Nat) :=
    [(rangeOf s g.block (prmP p (if gath then 0 else 2)) (c * e), c * e), (rangeOf s g.block (prmP p 4) (4 * c), 4 * c)]
      ++ if scl then [(rangeOf s g.block (prmP p (if gath then 8 else 10)) c, c)] else []
  lowest ([arvCause s g.block (a p), causeIf (e == 0 || decide (65536 < e)) 0x0C, causeIf (anyOverlap rs) 0x0C] ++ rs.map fun r => rangeCause r.1)
/-- The ARV offset of `gath` and `scat`. -/
def gatherArv (arv scl : Bool) (p : List Word) : Option Nat := arvAt arv (if scl then 12 else 8) p
/-- The registers of a `gath` or `scat` block. -/
def gatherLen (arv scl : Bool) : Nat := (if scl then 12 else 8) + (if arv then 2 else 0)
/-- The addresses of a `gath` or `scat` block. -/
def gatherAddrs (arv scl : Bool) (p : List Word) : List Nat :=
  pairs2 p ++ [prmP p 4] ++ (if scl then [prmP p 8, prmP p 10] else []) ++ (gatherArv arv scl p).toList
/-- `gath` (R253, R254). -/
def execGath (sm scl arv : Bool) (xd xa : Nat) (s : State) : Out :=
  cmdWord sm (.gath scl) (gatherLen arv scl) xd xa (gatherCheck true scl (gatherArv arv scl)) (gatherArv arv scl) (fun s _ _ _ => s) (gatherAddrs arv scl) s
/-- `scat` (R253, R254). -/
def execScat (sm scl arv : Bool) (xd xa : Nat) (s : State) : Out :=
  cmdWord sm (.scat scl) (gatherLen arv scl) xd xa (gatherCheck false scl (gatherArv arv scl)) (gatherArv arv scl) (fun s _ _ _ => s) (gatherAddrs arv scl) s
/-- The lines that a `cpyl` touches. -/
def touchedLines (off n : Nat) : List Nat := if n = 0 then [] else (List.range ((off + n - 1) / 128 - off / 128 + 1)).map (off / 128 + ·)
/-- The checks of `cpyl` (R255, R256). -/
def cpylCheck (arv : Bool) (s : State) (g : Group) (p : List Word) : Option Nat :=
  let n := prmW p 4
  let off := prmW p 0
  let r := rangeOf s g.block (prmP p 2) n
  let beyond := decide (0 < n) && decide (allocSize s g.block < off + n)
  let own : Except Nat Rng := if n = 0 then .ok .bad else .ok (.loc g.block off)
  let full := match mget s.blocks g.block with | some b => !beyond && (touchedLines off n).any fun l => decide (15 ≤ mgetD b.pend l 0) | none => false
  lowest [arvCause s g.block (arvAt arv 6 p), rangeCause r, causeIf beyond 0x08, causeIf (overlapE own r n n) 0x0C, causeIf full 0x0C]
/-- `cpyl` (R203, R253, R256): its lines lose their presence at issue. -/
def execCpyl (sm arv : Bool) (xd xa : Nat) (s : State) : Out :=
  cmdWord sm .cpyl (if arv then 8 else 5) xd xa (cpylCheck arv) (arvAt arv 6)
    (fun s _ p blk => pendLines s blk (touchedLines (prmW p 0) (prmW p 4)) true)
    (fun p => prmP p 2 :: (arvAt arv 6 p).toList) s
/-- The checks of `fill`. -/
def fillCheck (arv : Bool) (s : State) (blk : Nat) (p : List Word) : Option Nat :=
  lowest [arvCause s blk (arvAt arv 4 p), rangeCause (rangeOf s blk (prmP p 0) (prmW p 3))]
/-- `fill` (R253, R254). -/
def execFill (sm arv : Bool) (xd xa : Nat) (s : State) : Out :=
  cmdWord sm .fill (if arv then 6 else 4) xd xa
    (fun s g => fillCheck arv s g.block) (arvAt arv 4) (fun s _ _ _ => s) (fun p => prmP p 0 :: (arvAt arv 4 p).toList) s

end Sys2Proof.Machine
end

