-- ==== Sys2Proof/Machine/Collect.lean ====
section
/-!
DEFINITION. The collective family (R258-R262): issue, the rounds of a communicator, reductions.
-/
namespace Sys2Proof.Machine

/-- The bytes of an element in the wire format (R259). -/
def wireBytes (bf : Bool) : Nat := if bf then 2 else 4
/-- P of a communicator as the engine would read it now, for the ranges that depend on it; 1 where it cannot be read (log entry 33). -/
def peekRanks (s : State) (c : Nat) (comm : Nat) : Nat :=
  match resolve s c comm 0 with | .ok pa => max 1 (leNat (Memory.readN s.mem pa 4)) | .error _ => 1
/-- The bytes of a collective's destination and source, given P (R259). -/
def collSizes (k : CmdKind) (count ranks : Nat) : Nat × Nat :=
  match k with
  | .allred _ bf => (count * wireBytes bf, count * wireBytes bf)
  | .redscat _ bf => (count * wireBytes bf, ranks * count * wireBytes bf)
  | .allgath => (ranks * count, count)
  | _ => (count, count)
/-- Whether a rank's source is read: on the root only for `bcast`. -/
def readsSource (k : CmdKind) (p : List Word) : Bool := match k with | .bcast => prmW p 5 == prmW p 8 | _ => true
/-- A destination equal to its source is allowed for `allred` and for the root of `bcast` (R259). -/
def sameAllowed (k : CmdKind) (p : List Word) : Bool := match k with | .allred _ _ => true | .bcast => readsSource k p | _ => false
/-- The checks at issue of a collective command (R244, R257, R259); the source range of a `bcast` is one on every rank, though only the root's is
read. R258 puts a communicator in global memory and names no cause for one in cluster space: 0x06 (log entry 51). -/
def collCheck (k : CmdKind) (arv : Bool) (s : State) (g : Group) (p : List Word) : Option Nat :=
  let comm := prmP p 6
  let sz := collSizes k (prmW p 4) (peekRanks s g.ctx comm)
  let d := rangeOf s g.block (prmP p 0) sz.1
  let r := rangeOf s g.block (prmP p 2) sz.2
  let same := sameAllowed k p && prmP p 0 == prmP p 2
  let commBad := match rangeOf s g.block comm (16 + 8 * prmW p 5) with | .ok (.virt _) => none | .ok _ => some 0x06 | .error c => some c
  lowest [arvCause s g.block (arvAt arv 10 p), rangeCause d, rangeCause r, commBad, causeIf (!same && overlapE d r sz.1 sz.2) 0x0C]
/-- A collective command word (R259). -/
def collWord (sm : Bool) (k : CmdKind) (arv : Bool) (n xd xa : Nat) (s : State) : Out :=
  cmdWord sm k n xd xa (collCheck k arv) (arvAt arv 10) (fun s _ _ _ => s) (fun p => pairs2 p ++ (arvAt arv 10 p).toList) s
/-- `allred` (R259). -/
def execAllred (sm bf : Bool) (op : ColOp) (arv : Bool) (xd xa : Nat) (s : State) : Out := collWord sm (.allred op bf) arv (if arv then 12 else 8) xd xa s
/-- `allgath` (R259). -/
def execAllgath (sm arv : Bool) (xd xa : Nat) (s : State) : Out := collWord sm .allgath arv (if arv then 12 else 8) xd xa s
/-- `redscat` (R259). -/
def execRedscat (sm bf : Bool) (op : ColOp) (arv : Bool) (xd xa : Nat) (s : State) : Out := collWord sm (.redscat op bf) arv (if arv then 12 else 8) xd xa s
/-- `bcast` (R259). -/
def execBcast (sm arv : Bool) (xd xa : Nat) (s : State) : Out := collWord sm .bcast arv (if arv then 12 else 9) xd xa s

/-! ### Rounds (R260, R261) -/

/-- The rank of a collective command. -/
def rankOf (d : Cmd) : Nat := prmW d.prm 5
/-- A word of a communicator as its engine reads it: atomic at `.dev` (R258), in a deterministic context as the round lets it (R337). -/
def commWord (s : State) (d : Cmd) (loc : Nat) : Nat :=
  if bufferedCmd s d then bufferedOld s d loc 4 else loadNewest s loc 4
/-- SEQ raised by an issue (R260): the round it takes and the state, or a cause; in a deterministic context the write is buffered (R336). -/
def raiseSeq (s : State) (d : Cmd) (va sa : Nat) : Except Nat (Nat × State) :=
  let next (k : Nat) : Nat := (k + 1) % 2 ^ 32
  if bufferedCmd s d then
    let k := bufferedOld s d sa 4
    match bufferWord s d sa 4 (next k) with | .ok s1 => .ok (k, s1) | .error c => .error c
  else
    let k := loadNewest s sa 4
    .ok (k, putUnit s (agent d.grp 3) d.ctx sa (some va) (leBytes 4 (next k)) true [])
/-- The issue of a collective command reaches the engine (R260, R261): it takes its round and raises SEQ. -/
def reachEngine (s : State) (id : Nat) (d : Cmd) : State :=
  let comm := prmP d.prm 6
  let seqVa := comm + 8 + 8 * rankOf d
  match resolve s d.ctx comm 0, resolve s d.ctx seqVa 1 with
  | .error c, _ => engineFault s id d c (some comm) false
  | .ok pa, seqAt =>
    let s0 := touchUnits s d.ctx [⟨pa, 4, some comm⟩]
    if commWord s d pa ≤ rankOf d then engineFault s0 id d 0x0C none false
    else match seqAt with
      | .error c => engineFault s0 id d c (some seqVa) true
      | .ok sa =>
        match raiseSeq s0 d seqVa sa with
        | .error c => engineFault s0 id d c none true
        | .ok (k, s1) => touchUnits { s1 with cmds := mset s1.cmds id { d with started := true, comm := pa, seq := k } } d.ctx [⟨sa, 4, some seqVa⟩]
/-- A command's issue may reach the engine: every earlier issue of its rank on its communicator has, so that round k holds each rank's k-th issue
(R260). -/
def collTurn (s : State) (id : Nat) (d : Cmd) : Bool :=
  let comm (e : Cmd) : Nat := prmP e.prm 6
  let place (e : Cmd) : Except Nat Nat := walkAccess s e.ctx (walk s e.ctx (comm e)) (comm e) 0
  let same (e : Cmd) : Bool := comm e == comm d || (match place e, place d with | .ok a, .ok b => a == b | _, _ => false)
  !s.cmds.any fun e => decide (e.1 < id) && e.2.cls == 1 && !e.2.started && e.2.ctx == d.ctx && rankOf e.2 == rankOf d && same e.2
/-- The members of a command's round, by rank. R260 speaks of every rank's issues and not of contexts: where two contexts map the frame of one
communicator, only the commands of one of them form a round (log entry 51). -/
def roundOf (s : State) (d : Cmd) : List (Nat × Cmd) :=
  let all := s.cmds.filter fun e => e.2.cls == 1 && e.2.started && e.2.comm == d.comm && e.2.seq == d.seq && e.2.ctx == d.ctx
  (sortAsc (all.map fun e => rankOf e.2)).filterMap fun r => all.find? fun e => rankOf e.2 == r
/-- P of a round's communicator. -/
def roundRanks (s : State) (d : Cmd) : Nat := commWord s d d.comm
/-- The round of a command has all its members (R260). -/
def gathered (s : State) (d : Cmd) : Bool := d.started && (roundOf s d).map (fun m => rankOf m.2) == List.range (roundRanks s d)
/-- The members agree in function, operation, wire format, count and root (R261). -/
def roundAgrees (ms : List (Nat × Cmd)) : Bool :=
  match ms with
  | [] => true
  | m :: l => l.all fun e => e.2.kind == m.2.kind && prmW e.2.prm 4 == prmW m.2.prm 4
      && (match m.2.kind with | .bcast => prmW e.2.prm 8 == prmW m.2.prm 8 | _ => true)
/-- Neighbours of one level of the tree combined (R262). -/
def treeLevel (f : Nat → Nat → Nat) : List Nat → List Nat
  | a :: b :: l => f a b :: treeLevel f l
  | l => l
/-- The fixed tree over the ranks (R262). -/
def treeReduce (f : Nat → Nat → Nat) : Nat → List Nat → Nat
  | 0, l => l.getD 0 0
  | n + 1, l => if l.length ≤ 1 then l.getD 0 0 else treeReduce f n (treeLevel f l)
/-- One combination in the wire format (R262). -/
def wireOp (op : ColOp) (bf : Bool) (a b : Nat) : Nat :=
  let f := if bf then bf16 else fp32
  match op with
  | .sum => fAdd f .rne 0 32 a b
  | .min => fMinMax f false a b
  | .max => fMinMax f true a b
/-- The reduction of elements [i, i + n) over the sources of all ranks, as bytes. -/
def reduceRange (op : ColOp) (bf : Bool) (srcs : List (List Byte)) (i n : Nat) : List Byte :=
  let w := wireBytes bf
  (List.range n).flatMap fun j =>
    leBytes w (treeReduce (wireOp op bf) srcs.length (srcs.map fun b => leAt b ((i + j) * w) w))
/-- What the member of a rank receives (R259). A `bcast` whose root is at or above P has no source, for which R261 names no check: nothing is read,
nothing is written and every member completes (log entry 51). -/
def collResult (k : CmdKind) (count : Nat) (srcs : List (List Byte)) (r root : Nat) : List Byte :=
  match k with
  | .allred op bf => reduceRange op bf srcs 0 count
  | .redscat op bf => reduceRange op bf srcs (r * count) count
  | .allgath => srcs.flatten
  | .bcast => srcs.getD root []
  | _ => []
/-- The bytes of a member's source that its round reads. -/
def sourceLen (ranks : Nat) (d : Cmd) : Nat := if readsSource d.kind d.prm then (collSizes d.kind (prmW d.prm 4) ranks).2 else 0
/-- The sources of the members in rank order, or the member whose source cannot be read. -/
def readSources (s : State) (ranks : Nat) : List (Nat × Cmd) → Except (Nat × Cmd × EngErr) (List (List Byte))
  | [] => .ok []
  | m :: ms =>
    match engRead s m.1 m.2 (cmdRng m.2 (prmP m.2.prm 2)) 0 (sourceLen ranks m.2) with
    | .error e => .error (m.1, m.2, e)
    | .ok bs => match readSources s ranks ms with | .ok l => .ok (bs :: l) | .error e => .error e
/-- A gathered round runs: every source is read, and each member holds what its destination receives. -/
def runRound (s : State) (ms : List (Nat × Cmd)) (ranks : Nat) : State :=
  if !roundAgrees ms then ms.foldl (fun s m => engineFault s m.1 m.2 0x0C none false) s
  else match readSources s ranks ms with
    | .error (id, d, e) => engineFault s id d e.1 e.2 false
    | .ok srcs => ms.foldl (fun s m =>
        { touchRng s m.2.ctx (cmdRng m.2 (prmP m.2.prm 2)) 0 (sourceLen ranks m.2) with cmds := mset s.cmds m.1 { m.2 with prog := 1, data := collResult m.2.kind (prmW m.2.prm 4) srcs (rankOf m.2) (prmW m.2.prm 8) } }) s
/-- A member writes its destination, then makes its arrival and completes (R260). -/
def collWrite (s : State) (id : Nat) (d : Cmd) : State :=
  if d.prog = 1 then
    match engWrite s d (cmdRng d (prmP d.prm 0)) 0 d.data with
    | .error e => engineFault s id d e.1 e.2 true
    | .ok (s1, d1) => { s1 with cmds := mset s1.cmds id { d1 with prog := 2, data := [] } }
  else finishCmd s id d
/-- COLLECTIVE_ROUND (R260, R261): a command reaches its engine, or its gathered round runs, or it writes what the round gave it. A round
already gathered runs on while its context drains (R251, R311). -/
def collStep (s : State) (id : Nat) : Option State :=
  match mget s.cmds id with
  | none => none
  | some d =>
    if d.cls != 1 || d.stalled then none
    else if !d.started then (if cmdRuns s d && collTurn s id d then some (reachEngine s id d) else none)
    else if d.prog != 0 then some (collWrite s id d)
    else
      let ms := roundOf s d
      if gathered s d && (ms.all fun m => cmdReady s m.2) then some (runRound s ms (roundRanks s d)) else none
/-- COLLECTIVE_ROUND (R260). -/
def execCollectiveRound (cmd : Nat) (s : State) : Out := .next ((collStep s cmd).getD s)

end Sys2Proof.Machine
end

