-- ==== Sys2Proof/Machine/Matrix.lean ====
section
/-!
DEFINITION. The matrix family (R263-R278): reservations, loads, multiplies, the queues of an engine, and gang issue. The numerics are those of
R82-R87.
-/
namespace Sys2Proof.Machine

/-! ### Numerics (R82-R87) -/

/-- Kept elements of every 16: 16 for dense, else N (R88, R264). -/
def keptOf (sparse : Nat) : Nat := if sparse = 0 then 16 else if sparse = 1 then 8 else if sparse = 2 then 4 else 2
/-- The A formats by code (R66): width in bytes, and an element's value. -/
def aBytes (code : Nat) : Nat := if code = 0 then 4 else if code ≤ 2 then 2 else 1
def aFmt (code : Nat) : Fmt := if code = 0 then fp32 else if code = 1 then fp16 else if code = 2 then bf16 else if code = 3 then e4m3 else e5m2
/-- The bytes of a B element: 2 for BF16 (R267). -/
def bBytes (code : Nat) : Nat := if code = 2 then 2 else 1
/-- The operand combinations of R82. -/
def comboOk (afmt : Nat) (wa16 : Bool) (bfmt : Nat) : Bool :=
  if wa16 then decide (afmt ≤ 4) && [8, 5, 3, 2].contains bfmt else [3, 4].contains afmt && [8, 5, 3, 4].contains bfmt
/-- floor(log2) of the largest nonzero element, or 0 (R83). -/
def maxLog (l : List FVal) : Int :=
  match l.filterMap fun v => match v with | .fin _ m e => if m = 0 then none else some ((m.log2 : Int) + e) | _ => none with
  | [] => 0
  | a :: r => r.foldl max a
/-- A strip aligned to integers of W_A bits, with its unit's exponent (R83). -/
def alignStrip (wa : Nat) (l : List FVal) : List Int × Int :=
  let E := maxLog l
  let lim : Int := 2 ^ (wa - 1) - 1
  (l.map fun v => match v with
    | .fin s m e => Exact.toInt .rne 0 32 (-lim) lim (.val s (.dy m (e + (wa : Int) - 2 - E)))
    | .nan | .inf _ => 0, E - (wa : Int) + 2)
/-- NaN or an infinity (R87). -/
def FVal.bad : FVal → Bool
  | .nan | .inf _ => true
  | .fin _ _ _ => false
/-- A column segment of stored weights as integers with a unit's exponent, and whether it poisons (R84, R87). -/
def alignCol (bfmt : Nat) (codes : List Nat) : List Int × Int × Bool :=
  let scaled (f : Fmt) (u : Int) : List Int × Int × Bool :=
    (codes.map fun c => match f.decode c with
      | .fin s m e => (if s then -1 else 1) * ((m * 2 ^ (e - u).toNat : Nat) : Int)
      | .nan | .inf _ => 0, u, codes.any fun c => (f.decode c).bad)
  if bfmt = 8 then (codes.map ts8Val, 0, false)
  else if bfmt = 5 then (codes.map fun c => (BitVec.ofNat 8 c).toInt, 0, false)
  else if bfmt = 3 then scaled e4m3 (-9)
  else if bfmt = 4 then scaled e5m2 (-16)
  else
    let vs := codes.map bf16.decode
    let r := alignStrip 16 vs
    (r.1, r.2, vs.any FVal.bad)
/-- One K block combined into an accumulator (R86, R87). -/
def combineBlock (acc : Nat) (S unitA unitB : Int) (eA eB : Nat) (poison : Bool) : Nat :=
  if poison then fp32.nan
  else
    let f := fp32.decode ((Exact.val (decide (S < 0)) (.dy S.natAbs 0)).round fp32 .rne 0 32)
    let t := match f with
      | .fin s m e => FVal.fin s m (e + unitA + unitB + ((eA : Int) - 127) + ((eB : Int) - 127))
      | v => v
    ((fp32.decode acc).add .rne t).exact.round fp32 .rne 0 32

/-! ### Reservations (R263-R265) -/

/-- The engine of a group's cluster is enabled (R14, R263). -/
def ownEngine (s : State) (g : Group) : Bool := let c := coreOfGroup s g; engineEnabled s (dieOf c) (clusterIdx c)
/-- The engine's number for a group. -/
def ownCluster (s : State) (g : Group) : Nat := clusterNum (coreOfGroup s g)
/-- The record that a command of a block names: valid, its own, still accepting commands (R263, R265). -/
def recordOf (s : State) (cl blk ridx : Nat) : Option MxRec :=
  match mget (clusterOf s cl).recs ridx with
  | some r => if r.block = blk && !r.closing then some r else none
  | none => none
/-- The planes that a record needs (R264). -/
def planesNeeded (kb bfmt sparse : Nat) : Nat := cdiv (kb * keptOf sparse) 16 * (if bfmt = 2 then 2 else 1)
/-- Two spans of numbers share one. -/
def spansMeet (a n b m : Nat) : Bool := decide (a < b + m) && decide (b < a + n)
/-- The record that words 0 and 1 of `mxres` ask for. -/
def askedRecord (g : Group) (p : List Word) : MxRec :=
  let w := prmW p 0
  let v := prmW p 1
  { block := g.block, kb := fld w 31 24, next := fld w 23 16, bfmt := fld w 15 12, pcnt := fld w 11 8, pfirst := fld w 7 4, sparse := fld v 9 8, soff := fld v 7 0, closing := false, weights := [], scales := [] }
/-- The cases of R264 that raise cause 0x0B. -/
def resRefused (s : State) (g : Group) (p : List Word) : Bool :=
  let r := askedRecord g p
  let recs := (clusterOf s (ownCluster s g)).recs
  !ownEngine s g || (mget recs (prmW p 0 % 16)).isSome
    || r.kb == 0 || r.next == 0 || decide (128 < r.next) || !([8, 5, 3, 4, 2].contains r.bfmt)
    || fld (prmW p 1) 31 10 != 0
    || decide (r.pcnt + 1 < planesNeeded r.kb r.bfmt r.sparse) || decide (15 < r.pfirst + r.pcnt) || decide (256 < r.soff + r.kb)
    || recs.any fun e => spansMeet r.pfirst (r.pcnt + 1) e.2.pfirst (e.2.pcnt + 1) || spansMeet r.soff r.kb e.2.soff e.2.kb
/-- `mxres` (R264): it completes at issue and never counts as outstanding. -/
def execMxres (sm : Bool) (xd xa : Nat) (s : State) : Out :=
  word s [xd, xa, xa + 1] fun u g =>
    let p := blockOf s g xa 2
    if resRefused s g p then raise s u g 0x0B
    else
      let n := nextToken g 2
      let s1 := modCluster s (ownCluster s g) fun c => { c with recs := mset c.recs (prmW p 0 % 16) (askedRecord g p) }
      fin s1 u sm 4 (writeU s { g with cnt := mset g.cnt 2 n } xd (BitVec.ofNat 32 (2 ^ 31 + n)))
/-- A command enters its group's matrix queue at its place in issue order (R274): commands are numbered as they issue, and an `mxmmg` comes when its
latch closes. -/
def enqueue (s : State) (cl slot id : Nat) : State :=
  modCluster s cl fun c => { c with queues := mset c.queues slot (insertAsc id (mgetD c.queues slot [])) }
/-- A queued matrix command's entry into its queue, after it issued. -/
def enqueueNew (s : State) (id : Nat) : State :=
  match mget s.cmds id with | some d => enqueue s (clusterNum d.core) d.slot id | none => s
/-- `mxrel` (R265): the record stops accepting commands at once. -/
def execMxrel (sm : Bool) (xd xa : Nat) (s : State) : Out :=
  cmdWord sm .mxrel 1 xd xa
    (fun s g p => causeIf (!ownEngine s g || decide (16 ≤ prmW p 0) || (recordOf s (ownCluster s g) g.block (prmW p 0 % 16)).isNone) 0x0B)
    (fun _ => none)
    (fun s id p _ =>
      let cl := match mget s.cmds id with | some d => clusterNum d.core | none => 0
      enqueueNew (modCluster s cl fun c => { c with recs := mmod c.recs (prmW p 0 % 16) fun r => { r with closing := true } }) id)
    (fun _ => []) s

/-! ### Cluster-space operands (R202, R267-R269) -/

/-- An operand in cluster space (R244, R267, R269): bytes neither all virtual nor all cluster space give cause 0x06, virtual ones 0x0B, and
those beyond their allocation 0x08. -/
def clusRange (s : State) (blk a n : Nat) : Except Nat Rng :=
  match place a with
  | .clus c off =>
    if n = 0 then .ok .bad
    else if 2 ^ 64 < a + n then .error 0x06
    else (match clusterBlock s blk c with
      | some t => if off + n ≤ allocSize s t then .ok (.loc t off) else .error 0x08
      | none => .error 0x08)
  | .virt va => .error (if n != 0 && decide (2 ^ 52 < va + n) then 0x06 else 0x0B)
  | .bad => .error (if n = 0 then 0x0B else 0x06)
/-- The bytes from the first to the last of n rows. -/
def extent (n stride len : Nat) : Nat := if n = 0 || len = 0 then 0 else (n - 1) * stride + len
/-- The checks of `mxld` (R243, R263, R267): the lowest cause of those that apply. The extents are those of the record in the slot, though it
be another block's or accept no more commands (R265); where the slot is empty there are none, and no check needs them (R110). -/
def mxldCheck (s : State) (g : Group) (p : List Word) : Option Nat :=
  let off := causeIf (!ownEngine s g || decide (16 ≤ prmW p 0) || (recordOf s (ownCluster s g) g.block (prmW p 0 % 16)).isNone) 0x0B
  match mget (clusterOf s (ownCluster s g)).recs (prmW p 0 % 16) with
  | none => some 0x0B
  | some r =>
    let e := bBytes r.bfmt
    let rows := r.kb * 8 * keptOf r.sparse
    lowest [causeIf (r.bfmt == 2 && (prmP p 2 % 2 != 0 || prmW p 1 % 2 != 0)) 0x04,
      rangeCause (clusRange s g.block (prmP p 2) (extent rows (prmW p 1) (r.next * e))), rangeCause (clusRange s g.block (prmP p 4) r.kb),
      causeIf (decide (prmW p 1 < r.next * e)) 0x0B, off]
/-- `mxld` (R267). -/
def execMxld (sm : Bool) (xd xa : Nat) (s : State) : Out :=
  cmdWord sm .mxld 6 xd xa mxldCheck (fun _ => none) (fun s id _ _ => enqueueNew s id) (fun p => [prmP p 2, prmP p 4]) s

/-- The fields of an `mxmm` block (R268). -/
structure MmArgs where
  a : Nat
  sc : Nat
  d : Nat
  astr : Nat
  dstr : Nat
  m : Nat
  k : Nat
  n : Nat
  idx : Nat
  eb : Nat
  hasEb : Bool
  sparse : Nat
  acc : Bool
  wa16 : Bool
  afmt : Nat
  ridx : Nat
  split : Nat
  zeros : Bool
  deriving DecidableEq, Repr
/-- An `mxmm` block read (R268). -/
def mmArgs (p : List Word) : MmArgs :=
  let c := prmW p 11
  { a := prmP p 0, sc := prmP p 2, d := prmP p 4, astr := prmW p 6, dstr := prmW p 7, m := prmW p 8, k := prmW p 9, n := prmW p 10
    idx := prmP p 12, eb := prmP p 14, hasEb := bit c 16, sparse := fld c 11 10, acc := bit c 9, wa16 := bit c 8, afmt := fld c 7 4
    ridx := fld c 3 0, split := fld c 15 12, zeros := fld c 31 17 == 0 }
/-- The bytes of the index table (R269). -/
def idxBytes (x : MmArgs) : Nat := if x.sparse = 0 then 0 else x.k / 128 * 8 * 128 * keptOf x.sparse / 2
/-- What a block says against a record of R269. -/
def mmMisfit (x : MmArgs) (r : MxRec) : Bool :=
  !comboOk x.afmt x.wa16 r.bfmt || x.sparse != r.sparse || decide (r.kb * 128 < x.k) || decide (r.next < x.n)
/-- The bytes of a row of k elements of A by its format code (R66): none where the code is reserved and has no width. -/
def rowBytes (code k : Nat) : Option Nat := if 9 ≤ code then none else if code = 7 then some (cdiv k 2) else some (k * aBytes code)
/-- The checks of `mxmm` (R243, R244, R263, R269): the lowest cause of those that apply. A check that needs the width of a reserved format is not
made (R110). R269 does not say whether D meets A where strided rows interleave without sharing a byte: the spans from first to last byte are
compared (log entry 51). -/
def mxmmCheck (s : State) (g : Group) (p : List Word) : Option Nat :=
  let x := mmArgs p
  let noRec := match (if ownEngine s g then recordOf s (ownCluster s g) g.block x.ridx else none) with | some r => mmMisfit x r | none => true
  let row := rowBytes x.afmt x.k
  let an := extent x.m x.astr (row.getD 0)
  let dn := extent x.m x.dstr (4 * x.n)
  let sn := x.m * (x.k / 128)
  let A : Except Nat Rng := if row.isSome then clusRange s g.block x.a an else .ok .bad
  let S := clusRange s g.block x.sc sn
  let D := clusRange s g.block x.d dn
  let I : Except Nat Rng := if x.sparse = 0 then .ok .bad else clusRange s g.block x.idx (idxBytes x)
  let B : Except Nat Rng := if x.hasEb then clusRange s g.block x.eb 8 else .ok .bad
  lowest [
    causeIf (x.a % 4 != 0 || x.astr % 4 != 0 || x.d % 4 != 0 || x.dstr % 4 != 0 || (x.sparse != 0 && x.idx % 4 != 0) || (x.hasEb && x.eb % 8 != 0)) 0x04,
    rangeCause A, rangeCause S, rangeCause D, rangeCause I, rangeCause B,
    causeIf (noRec || !x.zeros || x.k % 128 != 0 || decide (65535 < x.m)
      || (decide (1 < x.m) && (decide (x.astr < row.getD 0) || decide (x.dstr < 4 * x.n)))) 0x0B,
    causeIf (overlapE D A dn an || overlapE D S dn sn || overlapE D I dn (idxBytes x) || overlapE D B dn 8) 0x0B]
/-- The addresses an `mxmm` block names: the index-table pair is read only when sparse, the empty-barrier pair only when EB is set (R268). -/
def mmAddrs (p : List Word) : List Nat :=
  let x := mmArgs p
  [x.a, x.sc, x.d] ++ (if x.sparse = 0 then [] else [x.idx]) ++ if x.hasEb then [x.eb] else []
/-- `mxmm` (R268). -/
def execMxmm (sm : Bool) (xd xa : Nat) (s : State) : Out :=
  cmdWord sm .mxmm 16 xd xa mxmmCheck (fun _ => none) (fun s id _ _ => enqueueNew s id) mmAddrs s

/-! ### Gang issue (R276-R278) -/

/-- The slots that `gang` lists (R276). -/
def gangSlots (g : Group) : List Nat := let v := g.gang.toNat; (List.range (min (fld v 44 42) 6)).map fun i => v / 2 ^ (7 * i) % 128
/-- The live group in a cluster slot of a core's cluster. -/
def groupInSlot (s : State) (core slot : Nat) : Option (Nat × Group) :=
  (groupsOn s (clusterCore core (slot / 32))).find? fun e => e.2.slot == slot % 32
/-- The gang of a group is badly listed (R277). -/
def gangBad (s : State) (g : Group) : Bool :=
  let l := gangSlots g
  let n := fld g.gang.toNat 44 42
  !decide (2 ≤ n ∧ n ≤ 6) || (dedup l).length != l.length || !l.contains (clusterSlot s g)
    || l.any fun i => match groupInSlot s (coreOfGroup s g) i with | some e => e.2.ctx != g.ctx | none => true
/-- Two latches or lists name the same set of slots. -/
def sameSlots (a b : List Nat) : Bool := sortAsc a == sortAsc b
/-- Every group of a latch but one takes engine cause 0x0A; the latch's commands are abandoned and the latch closes (R278). -/
def breakLatch (s : State) (cl core : Nat) (l : Latch) (except : Nat) (cause : Nat) : State :=
  let s1 := modCluster s cl fun c => { c with latches := c.latches.filter (· != l) }
  let tokOf (u : Nat) : Word := match l.issues.find? fun p => (mget s.cmds p.2).any fun d => d.grp == u with
    | some p => (match mget s.cmds p.2 with | some d => d.token | none => 0)
    | none => 0
  let s2 := l.slots.foldl (fun t i =>
    match groupInSlot s core i with
    | some e => if e.1 = except || e.2.ctx != l.ctx then t else addCause t e.1 { cause := cause, token := tokOf e.1, va := none, write := false, cmd := none }
    | none => t) s1
  l.issues.foldl (fun t p => match mget t.cmds p.2 with | some d => abandonCmd t p.2 d | none => t) s2
/-- The full latch closes: one command runs, in the queue of the lowest listed slot (R278), with what each of its issuers ordered before it in
view (R236). -/
def closeLatch (s : State) (cl core : Nat) (l : Latch) : State :=
  let low := (sortAsc l.slots).headD 0
  match (l.issues.find? fun p => p.1 == low).map (·.2) with
  | none => s
  | some id =>
    match mget s.cmds id, groupInSlot s core low with
    | some d, some e =>
      (match mxmmCheck s e.2 l.prm with
       | some c => breakLatch s cl core l 0 c
       | none =>
         let s := (l.issues.map (·.2)).foldl (fun s m => copyView s (agent m 2) (agent id 2)) s
         let d1 := { d with chosen := chosenOf s e.2.block (mmAddrs l.prm), members := (l.issues.map (·.2)).filter (· != id) }
         enqueueNew (modCluster { s with cmds := mset s.cmds id d1 } cl fun c => { c with latches := c.latches.filter (· != l) }) id)
    | _, _ => s
/-- A latch a group may join, in agreement or not; or a place for a new one; or none (R277). -/
def findLatch (s : State) (cl : Nat) (g : Group) : Option Latch :=
  (clusterOf s cl).latches.find? fun l => l.ctx == g.ctx && sameSlots l.slots (gangSlots g)
/-- The issue of an `mxmmg` into its latch (R277, R278). -/
def joinLatch (s : State) (u : Nat) (cl : Nat) (id : Nat) : State :=
  match mget s.cmds id, mget s.groups u with
  | some d, some g =>
    let slot := d.slot
    let base := match findLatch s cl g with
      | some l => l
      | none => { slots := gangSlots g, ctx := g.ctx, issues := [], prm := d.prm }
    let l1 := { base with issues := base.issues ++ [(slot, id)] }
    let s1 := modCluster s cl fun c => { c with latches := (c.latches.filter (· != base)) ++ [l1] }
    if l1.issues.length = l1.slots.length then closeLatch s1 cl d.core l1 else s1
  | _, _ => s
/-- `mxmmg` (R277, R278). -/
def execMxmmg (sm : Bool) (xd xa : Nat) (s : State) : Out :=
  word s (xd :: (List.range 16).map (xa + ·)) fun u g =>
    let cl := ownCluster s g
    let slot := clusterSlot s g
    if 16 ≤ classCount s u 2 then parkOn s u g (.cls 2 15)
    else if gangBad s g then raise s u g 0x0A
    else if !ownEngine s g then raise s u g 0x0B
    else
      let p := blockOf s g xa 16
      let go (s : State) : State :=
        let r := issueCmd s u g .mxmmg p none []
        joinLatch (fin r.2.1 u sm 4 (writeU s r.2.2 xd (BitVec.ofNat 32 (2 ^ 31 + nextToken g 2)))) u cl r.1
      match findLatch s cl g with
      | some l =>
        if l.issues.any fun q => q.1 == slot then parkOn s u g .latchRoom
        else if l.prm != p then
          let s1 := breakLatch s cl (coreOfGroup s g) l u 0x0A
          (match mget s1.groups u with | some g1 => raise s1 u g1 0x0A | none => s1)
        else go s
      | none => if 4 ≤ (clusterOf s cl).latches.length then parkOn s u g .latchRoom else go s
/-- A listed group exits before it has issued into an open latch (R278). -/
def latchExit (s : State) (u : Nat) : State :=
  match mget s.groups u with
  | none => s
  | some g =>
    let cl := ownCluster s g
    let slot := clusterSlot s g
    ((clusterOf s cl).latches.filter fun l => l.ctx == g.ctx && l.slots.contains slot && !(l.issues.any fun p => p.1 == slot)).foldl
      (fun s l => breakLatch s cl (coreOfGroup s g) l u 0x0A) s

/-! ### Units (R270-R275) -/

/-- Bytes that the engine reads of an operand in cluster space. -/
def mxRead (s : State) (id : Nat) (d : Cmd) (a i n : Nat) : List Byte :=
  match engRead s id d (cmdRng d a) i n with | .ok bs => bs | .error _ => List.replicate n 0
/-- One stored K block of an `mxld` (R267): its rows of element codes, and its scale byte. -/
def loadBlock (s : State) (id : Nat) (d : Cmd) (r : MxRec) (b : Nat) : List Nat × Nat :=
  let e := bBytes r.bfmt
  let rows := 8 * keptOf r.sparse
  ((List.range rows).flatMap fun i =>
    let bs := mxRead s id d (prmP d.prm 2) ((b * rows + i) * prmW d.prm 1) (r.next * e)
    (List.range r.next).map fun j => leAt bs (j * e) e, leNat (mxRead s id d (prmP d.prm 4) b 1))
/-- The stored element codes of a column of a record's K block. Before any `mxld` they are code 0, "zero for every weight" (R264): for TS8,
where R71 reads code 0 as +2, the code and not the value (log entry 51). -/
def storedCol (r : MxRec) (b j : Nat) : List Nat :=
  let w := (mgetD r.weights b []).toArray
  (List.range (8 * keptOf r.sparse)).map fun i => w.getD (i * r.next + j) 0
/-- The K row of stored row i of a K block, in a column: by the index table when sparse (R272). -/
def kRow (x : MmArgs) (table : List Byte) (b j i : Nat) : Nat :=
  let ns := keptOf x.sparse
  if x.sparse = 0 then i
  else
    let q := i / ns
    let e := i % ns
    let at_ := ((b * 8 + q) * 128 + j) * ns / 2
    16 * q + leAt table (at_ + e / 2) 1 / 16 ^ (e % 2) % 16
/-- Every entry that the command uses has strictly ascending indices (R272). -/
def tableOk_ (x : MmArgs) (table : List Byte) : Bool :=
  let ns := keptOf x.sparse
  x.sparse == 0 || (List.range (x.k / 128)).all fun b => (List.range 8).all fun q => (List.range x.n).all fun j =>
    (List.range (ns - 1)).all fun e => decide (kRow x table b j (q * ns + e) < kRow x table b j (q * ns + e + 1))
/-- A strip of a row of A: aligned integers, unit, poison, scale byte (R83, R87). -/
def stripOf (s : State) (id : Nat) (d : Cmd) (x : MmArgs) (i b : Nat) : List Int × Int × Bool × Nat :=
  let e := aBytes x.afmt
  let bs := mxRead s id d x.a (i * x.astr + 128 * b * e) (128 * e)
  let vs := (List.range 128).map fun k => (aFmt x.afmt).decode (leAt bs (k * e) e)
  let r := alignStrip (if x.wa16 then 16 else 8) vs
  (r.1, r.2, vs.any FVal.bad, leNat (mxRead s id d x.sc (i * (x.k / 128) + b) 1))
/-- One element of a tile (R270): the accumulator after every K block. -/
def tileElement (strips : List (List Int × Int × Bool × Nat)) (cols : List (List (Nat × Int) × Int × Bool × Nat)) (acc : Nat) : Nat :=
  (strips.zip cols).foldl (fun acc p =>
    let S := p.2.1.foldl (fun (m : Int) w => m + p.1.1.getD w.1 0 * w.2) 0
    combineBlock acc S p.1.2.1 p.2.2.1 p.1.2.2.2 p.2.2.2.2 (p.1.2.2.1 || p.2.2.2.1 || p.1.2.2.2 == 255 || p.2.2.2.2 == 255)) acc
/-- A column of K block b: (K row, weight) pairs, unit, poison, scale (R84, R272). -/
def colOf (x : MmArgs) (r : MxRec) (table : List Byte) (j b : Nat) : List (Nat × Int) × Int × Bool × Nat :=
  let c := alignCol r.bfmt (storedCol r b j)
  ((List.range c.1.length).map fun i => (kRow x table b j i, c.1.getD i 0), c.2.1, c.2.2, mgetD r.scales b 127)
/-- The D elements of tile t as (byte offset in D, value), every A strip and scale read first (R270). -/
def tileResult (s : State) (id : Nat) (d : Cmd) (x : MmArgs) (r : MxRec) (t : Nat) : List (Nat × Nat) :=
  let ks := x.k / 128
  let cols := (List.range x.n).map fun j => (List.range ks).map (colOf x r d.data j)
  ((List.range 16).map (16 * t + ·)).filter (· < x.m) |>.flatMap fun i =>
    let strips := (List.range ks).map (stripOf s id d x i)
    (List.range x.n).map fun j =>
      let o := i * x.dstr + 4 * j
      (o, tileElement strips (cols.getD j []) (if x.acc then leNat (mxRead s id d x.d o 4) else 0))
/-- A completed matrix command completes the token of every issuer (R278). -/
def completeAll (s : State) (id : Nat) (d : Cmd) : State :=
  d.members.foldl (fun s m => match mget s.cmds m with | some e => completeCmd s m { e with writes := d.writes } | none => s) (completeCmd s id d)
/-- An engine cause at every issuer, which abandons the command. -/
def abandonAll (s : State) (id : Nat) (d : Cmd) (cause : Nat) : State :=
  d.members.foldl (fun s m => match mget s.cmds m with | some e => engineFault s m e cause none false | none => s) (engineFault s id d cause none false)
/-- The arrival on the empty-barrier word (R273): no write to D is published; a word that awaits nothing gives cause 0x09 and the command goes on. -/
def emptyArrive (s : State) (id : Nat) (d : Cmd) (x : MmArgs) : State :=
  if !x.hasEb then s
  else match byteLoc s d.ctx (cmdRng d x.eb) 0 1 with
    | .error _ => s
    | .ok loc =>
      match arriveAt s (agent d.grp 2) d.ctx loc [arvPub s d loc []] with
      | some s1 => s1
      | none => (d.members ++ [id]).foldl (fun s m => match mget s.cmds m with
          | some e => addCause s e.grp { cause := 0x09, token := e.token, va := none, write := true, cmd := none }
          | none => s) s
/-- The tiles of a command that makes any (R271). -/
def tileCount (x : MmArgs) : Nat := if x.n = 0 || (x.k = 0 && x.acc) then 0 else cdiv x.m 16
/-- The record that a running command names. -/
def recNow (s : State) (d : Cmd) (ridx : Nat) : Option MxRec := mget (clusterOf s (clusterNum d.core)).recs ridx
/-- One tile of an `mxmm` or `mxmmg` (R270-R273); after every 2^g of them it may be pre-empted (R251). -/
def tileUnit (s : State) (id : Nat) (d : Cmd) : State :=
  let x := mmArgs d.prm
  match recNow s d x.ridx with
  | none => abandonAll s id d 0x0B
  | some r =>
    let table := if d.prog = 0 && x.sparse != 0 && decide (0 < tileCount x) then mxRead s id d x.idx 0 (idxBytes x) else d.data
    if d.prog = 0 && decide (0 < tileCount x) && !tableOk_ x table then abandonAll s id d 0x0B
    else
      let d1 := { d with data := table }
      let last := decide (tileCount x ≤ d.prog + 1)
      let res := if d.prog < tileCount x then tileResult s id d1 x r d.prog else []
      let s1 := if last then emptyArrive s id d1 x else s
      let w := res.foldl (fun q e => match engWrite q.1 q.2 (cmdRng d x.d) e.1 (leBytes 4 e.2) with | .ok r => r | .error _ => q) (s1, d1)
      let d2 := { w.2 with prog := d.prog + 1, save := decide (0 < x.split) && (d.prog + 1) % 2 ^ x.split == 0 }
      let s2 := { w.1 with cmds := mset w.1.cmds id d2 }
      if last then completeAll s2 id d2 else s2
/-- One stored K block of an `mxld` (R267, R275). -/
def mxldUnit (s : State) (id : Nat) (d : Cmd) : State :=
  let ridx := prmW d.prm 0
  match recNow s d ridx with
  | none => completeCmd s id d
  | some r =>
    let b := loadBlock s id d r d.prog
    let s1 := modCluster s (clusterNum d.core) fun c => { c with recs := mmod c.recs ridx fun r => { r with weights := mset r.weights d.prog b.1, scales := mset r.scales d.prog b.2 } }
    let d1 := { d with prog := d.prog + 1, started := true, save := true }
    if r.kb ≤ d.prog + 1 then completeCmd s1 id d1 else { s1 with cmds := mset s1.cmds id d1 }
/-- The record a matrix command names. -/
def namedRec (d : Cmd) : Nat :=
  match d.kind with
  | .mxrel => prmW d.prm 0 % 16
  | .mxld => prmW d.prm 0
  | _ => (mmArgs d.prm).ridx
/-- The command that runs for an issued one: of an `mxmmg` whose latch has closed, that of its lowest slot (R278). -/
def runsFor (s : State) (id : Nat) : Nat := match s.cmds.find? fun e => e.2.members.contains id with | some e => e.1 | none => id
/-- The matrix commands that an issuer of a command issued before it and that have not completed (R252): they run before it. -/
def issuedBefore (s : State) (id : Nat) : List Nat :=
  match mget s.cmds id with
  | none => []
  | some d => dedup ((id :: d.members).flatMap fun m => match mget s.cmds m with
      | some e => (s.cmds.filter fun x => x.2.cls == 2 && x.2.grp == e.grp && decide (x.1 < m)).map fun x => runsFor s x.1
      | none => [])
/-- What a list of commands waits for, over at most n links. -/
def waitsFor (s : State) : Nat → List Nat → List Nat
  | 0, l => l
  | n + 1, l => waitsFor s n (union l (l.flatMap (issuedBefore s)))
/-- The matrix commands of every issuer run in issue order (R252), an `mxmmg` in its open latch too; where two groups have issued two of them in
opposite orders, the queues alone order the two (log entry 51). -/
def inOrder (s : State) (id : Nat) : Bool := (issuedBefore s id).all fun p => (waitsFor s s.cmds.length [p]).contains id
/-- Whether the head of a queue has a unit ready (R252, R274, R275). -/
def unitReady (s : State) (cl id : Nat) : Bool :=
  match mget s.cmds id with
  | none => false
  | some d =>
    let same := s.cmds.filter fun e => e.1 != id && e.2.cls == 2 && clusterNum e.2.core == cl && namedRec e.2 == namedRec d
    let blk (e : Nat × Cmd) : Bool := e.2.block == d.block
    cmdRuns s d && inOrder s id &&
      (match d.kind with
       | .mxrel => !(same.any fun e => blk e && decide (e.1 < id))
       | .mxld => true
       | _ => !(same.any fun e => e.2.kind == .mxld && e.2.started && blk e))
/-- The queue served next: in ascending slot order with wrap-around after the slot last served (R274). -/
def nextSlot (s : State) (cl : Nat) : Option (Nat × Nat) :=
  let c := clusterOf s cl
  ((List.range 128).map fun i => (c.last + 1 + i) % 128).findSome? fun sl =>
    match (mgetD c.queues sl []).head? with
    | some id => if unitReady s cl id then some (sl, id) else none
    | none => none
/-- The engine turns to a slot's command, which sees what its group's earlier ones wrote (R271, R274). -/
def turnTo (s : State) (cl sl id : Nat) (d : Cmd) : State :=
  let s0 := modCluster s cl fun c => { c with last := sl }
  markSeen s0 (agent id 2) ((s0.log.filter fun e => e.agent == agent d.grp 2).map fun e => (e.id, none))
/-- MATRIX_UNIT (R274): one unit of the next ready slot. -/
def matrixUnit (s : State) (cl : Nat) : Option State :=
  match nextSlot s cl with
  | none => none
  | some (sl, id) =>
    match mget s.cmds id with
    | none => none
    | some d =>
      let s1 := turnTo s cl sl id d
      some (match d.kind with
        | .mxrel => completeCmd (modCluster s1 cl fun c => { c with recs := mdel c.recs (prmW d.prm 0 % 16) }) id d
        | .mxld => mxldUnit s1 id d
        | _ => tileUnit s1 id d)
/-- MATRIX_UNIT (R274). -/
def execMatrixUnit (cluster : Nat) (s : State) : Out := .next ((matrixUnit s cluster).getD s)

end Sys2Proof.Machine
end

