-- ==== Sys2Proof/Machine/Sync.lean ====
section
/-!
DEFINITION. Barriers and phases (R57-R61, R148, R149), `halt` and exit (R44, R164), and where blocks go: placement (R45), phase resumption
(R59), saving and restoring (R311-R316, R339), retirement (R65).
-/
namespace Sys2Proof.Machine

/-! ### Block barriers (R148) -/

/-- `bar`: the arrival counts at issue, and the group parks (R148). -/
def barOp (len : Nat) (sm : Bool) (id : Nat) (s : State) : Out :=
  acting s fun u g =>
    let s1 := modBlock s g.block fun b =>
      let x := mgetD b.bars id Bar.init
      { b with bars := mset b.bars id { x with count := x.count + 1, mask := if bit x.mask g.gidx then x.mask else x.mask + 2 ^ g.gidx } }
    barTry (parkOn s1 u g (.bar id len sm)) g.block id
/-- `bar` (R148). -/
def execBar (sm : Bool) (id : Nat) (s : State) : Out := barOp 4 sm id s
/-- Short `bar` (R100). -/
def execShortBar (a : Nat) (s : State) : Out := barOp 2 false a s

/-! ### Phases (R57-R59) -/

/-- The checks of `barph` (R57). -/
def barphBad (s : State) (g : Group) (id idx : Nat) : Bool :=
  let ncarry := match groupKernel s g with | some k => k.carry.length | none => 0
  !g.table.isEmpty || decide (ncarry ≤ idx) ||
    (match mget s.blocks g.block with
     | some b => (mgetD b.bars id Bar.init).count != 0 || (match b.phase with | some (i, x, _) => i != id || x != idx | none => false)
     | none => false)
/-- `barph` (R57, R149). -/
def execBarph (sm : Bool) (id idx : Nat) (s : State) : Out :=
  acting s fun u g =>
    if barphBad s g id idx then raise s u g 0x09
    else
      let s1 := modBlock s g.block fun b => { b with phase := match b.phase with | some (i, x, l) => some (i, x, l ++ [u]) | none => some (id, idx, [u]) }
      parkOn s1 u g (.barph id idx sm)
/-- The map of a safe point that stands at a code offset of the version a group runs (R284). -/
def mapAt (s : State) (g : Group) (pc : Nat) : Option SpMap := match versionOf s g with | some v => v.maps.find? fun m => m.spadr == pc | none => none
/-- The registers that a carry set names (R56). -/
def carried (w : Word) : List Nat := (List.range 31).filterMap fun i => if w.getLsbD (i + 1) then some (i + 1) else none
/-- The header a group writes at a phase end, its `barph` retired (R58). -/
def headerOf (s : State) (u : Nat) (g0 : Group) (idx : Nat) : PhaseHeader :=
  let g := settle s g0
  let set := match groupKernel s g with | some k => k.carry.getD idx 0 | none => 0
  { group := u, regs := (carried set).map fun r => (r, xNow g r), k := g.k, win := g.win, flags := g.flags, agelim := g.agelim, srx := g.srx, icnt := g.icnt + 1, ver := g.ver, spn := (match mapAt s g g.pc with | some m => BitVec.ofNat 32 m.spn | none => g.spn), xstat := g.xstat, xreq := g.xreq, carry := idx, pc := g.pc + 4, exited := false }
/-- The group waits at its block's `barph`, and no trap, engine cause or register result is due to it (R95), or it has exited. A halted group that still owes an engine
cause holds the phase until it has exited (R57, R164 and R44 leave it open; log entry 51). -/
def atPhase (g : Group) : Bool := g.exited || (g.hstack.isNone && g.causes.isEmpty && g.words.isEmpty && g.trapping.isNone && match g.park with | some (.barph _ _ _) => true | _ => false)
/-- A block's phase can end: every group has arrived or exited, and every command has completed (R57). -/
def phaseDone (s : State) (blk : Nat) (b : Block) : Bool :=
  b.st == .running && b.phase.isSome && (blockCmds s blk).isEmpty
    && (b.groups.all fun u => match mget s.groups u with | some g => atPhase g | none => true)
    && (b.groups.any fun u => match mget s.groups u with | some g => !g.exited | none => false)
/-- A queued phase joins the queue of every region of its context's partition (R29): it may resume on any core there (R59). -/
def joinPhase (s : State) (c blk : Nat) : State := (dedup ((ctxOf s c).part.map regionOfDie)).foldl (fun s n => joinRegion s n blk) s
/-- A group that has left its phase: no extended block, and its commands, all completed, are seen so (R58, R61, R238). -/
def leavePhase (s : State) (g : Group) : Group := { keepBlocks 0 (settle s g) with seen := union g.seen (g.compl.flatMap (·.2)), compl := [] }
/-- PHASE_END (R58): headers and carried registers are recorded, slots and slabs released, the next phase queued on the core. -/
def phaseEnd (s : State) (blk : Nat) : Option State :=
  match mget s.blocks blk with
  | none => none
  | some b =>
    if !phaseDone s blk b then none
    else
      let idx := match b.phase with | some (_, i, _) => i | none => 0
      let hs := b.groups.filterMap fun u => match mget s.groups u with | some g => if g.exited then none else some (headerOf s u g idx) | none => none
      let s1 := modBlock s blk fun b => { b with st := .queued, phase := none, record := hs }
      let s2 := modCore s1 b.core fun c => { c with phaseQ := c.phaseQ ++ [blk], cycle := c.cycle.filter fun u => !b.groups.contains u }
      let s3 := blockAcquire s2 b.groups .blk (blockTime s b .blk) (blockDone s b)
      some (joinPhase (b.groups.foldl (fun s u => modGroup s u (leavePhase s)) s3) b.ctx blk)
/-- PHASE_END (R58). -/
def execPhaseEnd (blk : Nat) (s : State) : Out := .next ((phaseEnd s blk).getD s)
/-- A group as its next phase finds it (R59, R161): its header, its carried registers, the parameter pointer, all else as at start. -/
def resumeGroup (gr : Grid) (g : Group) (h : PhaseHeader) : Group :=
  let base : AMap (List Word) := [(2, List.replicate gr.gwid (gr.param.setWidth 32)), (3, List.replicate gr.gwid ((gr.param >>> 32).setWidth 32))]
  let g0 := startGroup gr g.ctx g.grid g.block g.gidx g.slot h.ver g.ldTime
  { g0 with
    x := h.regs.foldl (fun m e => mset m e.1 e.2) base
    k := h.k, win := h.win, flags := h.flags, agelim := h.agelim, srx := h.srx, icnt := h.icnt, spn := h.spn, xstat := h.xstat
    xreq := h.xreq, pc := h.pc, inUser := g.inUser, seen := g.seen, waited := g.waited, pfSnap := g.pfSnap, pub := g.pub, got := g.got }
/-- A request pending at a phase end is met as the group resumes, when its `barph` was a safe point (R293). -/
def resumeTransfer (s : State) (u : Nat) : State :=
  match mget s.groups u with
  | none => s
  | some g =>
    match g.xreq, mapAt s g (g.pc - 4) with
    | some t, some m =>
      (match transfer s u g m.spn t with
       | .refused r => setGroup s u (refuseXfer g r t)
       | .absent _ => s
       | .done s1 g1 pc => setGroup s1 u { g1 with pc := pc })
    | _, _ => s
/-- The class of a block's grid. -/
def blockClass (s : State) (blk : Nat) : Nat := match mget s.blocks blk with | some b => (match mget s.grids b.grid with | some gr => gr.cls | none => 0) | none => 0
/-- The phase a core's queue gives up next: highest class, then arrival (R58). -/
def nextPhase (s : State) (core : Nat) : Option Nat :=
  let q := ((coreOf s core).phaseQ).filter fun b => match mget s.blocks b with | some x => (ctxOf s x.ctx).cst == 1 | none => false
  [3, 2, 1, 0].findSome? fun c => q.find? fun b => blockClass s b == c
/-- The records of a block that is out of its core fit the engine they came from (R266). -/
def recsFit (s : State) (cl : Nat) (recs : AMap MxRec) : Bool :=
  recs.all fun e => (mget (clusterOf s cl).recs e.1).isNone && (clusterOf s cl).recs.all fun o =>
    !(spansMeet e.2.pfirst (e.2.pcnt + 1) o.2.pfirst (o.2.pcnt + 1) || spansMeet e.2.soff e.2.kb o.2.soff o.2.kb)
/-- The commands that bind a block to others: those of its groups, and those that chose its allocation (R202, R316). -/
def bindsOf (s : State) (blk : Nat) : List Cmd := (s.cmds.filter fun e => e.2.block == blk || e.2.chosen.any fun p => p.2 == blk).map (·.2)
/-- The blocks that a command with operands in cluster space binds together (R316). -/
def Cmd.binds (d : Cmd) : List Nat := if d.chosen.isEmpty then [] else d.block :: d.chosen.map (·.2)
/-- The cluster of an open latch: that of the command that opened it. -/
def latchCluster (s : State) (l : Latch) : Nat :=
  match l.issues with
  | p :: _ => (match mget s.cmds p.2 with | some d => clusterNum d.core | none => 0)
  | [] => 0
/-- A block has a group in a listed slot of an open latch (R276, R277); out of its core, by the slots that its groups had (R313). -/
def latchLists (s : State) (l : Latch) (b : Block) : Bool :=
  b.ctx == l.ctx && b.record.isEmpty && clusterNum b.core == latchCluster s l
    && (unexited s b.groups).any fun u => match mget s.groups u with | some g => l.slots.contains (coreNum b.core * 32 + g.slot) | none => false
/-- Every open latch, those of drained contexts among them (R278). -/
def openLatches (s : State) : List Latch := (s.clusters.flatMap fun c => c.2.latches) ++ s.ctxs.flatMap fun c => c.2.latches
/-- The sets of blocks that lie in one cluster, each at its core number: those of a command with operands in cluster space (R316), and those
with a listed slot of an open latch, which names its groups by core number and slot (R276, R278). -/
def bindSets (s : State) : List (List Nat) :=
  (s.cmds.map (·.2.binds)) ++ (openLatches s).map fun l => (s.blocks.filter fun e => latchLists s l e.2).map (·.1)
/-- The blocks bound to a list of blocks, found in n rounds (R278, R316). -/
def boundTo (sets : List (List Nat)) : Nat → List Nat → List Nat
  | 0, l => l
  | n + 1, l =>
    let m := dedup (l ++ (sets.flatMap fun b => if b.any l.contains then b else []))
    if m.length = l.length then l else boundTo sets n m
/-- The blocks that come back together with a block (R278, R316). -/
def boundSet (s : State) (blk : Nat) : List Nat := boundTo (bindSets s) (bindSets s).length [blk]
/-- The commands of a block's groups follow it to a core: outstanding entries, slots and queues (R64, R274, R313). -/
def rehome (s : State) (blk old core : Nat) : State :=
  (blockCmds s blk).foldl (fun s e =>
    match mget s.groups e.2.grp with
    | none => s
    | some g =>
      let slot := coreNum core * 32 + g.slot
      let s1 := { s with cmds := mset s.cmds e.1 { e.2 with core := core, slot := slot } }
      let s2 := if old = core then s1 else bumpOut (bumpOut s1 e.2.grid old false) e.2.grid core true
      let inLatch := (openLatches s).any fun l => l.issues.any fun p => p.2 == e.1
      let member := s.cmds.any fun c => c.2.members.contains e.1
      if e.2.cls = 2 && !inLatch && !member then enqueue s2 (clusterNum core) slot e.1 else s2) s
/-- The saved latches of a context that come back with a block: the block of their first issue (R278). -/
def latchesOf (s : State) (c blk : Nat) : List Latch :=
  (ctxOf s c).latches.filter fun l => match l.issues with | p :: _ => (mget s.cmds p.2).any (·.block == blk) | [] => false
/-- The engine of a cluster has room for the latches that a block brings back (R277). -/
def latchRoom (s : State) (b : Block) (blk core : Nat) : Bool :=
  (latchesOf s b.ctx blk).isEmpty || decide ((clusterOf s (clusterNum core)).latches.length + (latchesOf s b.ctx blk).length ≤ 4)
/-- The trap frames of a block's groups written where they lie on the block's core (R315), which touches that die (R319). -/
def putFrames (s : State) (us : List Nat) : State :=
  us.foldl (fun s u => match mget s.groups u with
    | some g =>
      (match g.hstack with
       | some h => setGroup { touchFrame s g with mem := Memory.writeN s.mem (frameAddr s g) h.frame } u { g with hstack := some { h with frame := [] } }
       | none => s)
    | none => s) s
/-- The words that a save withdrew from their watch and that keep their turns execute again from their beginning as their block is back: each
reads its word and parks again (R124, R311); what had woken it before still has, so that its turn comes to what it would have (R345, R346). -/
def rewatch (s : State) (us : List Nat) : State :=
  us.foldl (fun s u => match mget s.groups u with
    | some g =>
      (match g.park with
       | some (.bwt loc _ _) => setGroup (noteNewest s u loc 8) u (noteStrong s g (locScope loc) loc 8)
       | some (.wadr loc _ _ _) => setGroup (noteNewest s u loc 4) u (noteStrong s g (locScope loc) loc 4)
       | _ => s)
    | none => s) s
/-- A block comes to a core: its place in the block space there, its records, latches and trap frames, its groups' slots, its commands;
another core is a migration (R59, R266, R278, R315), and the rotation goes on where the block left it (R344). A block that was saved takes its
groups' slots again where they are free (R313); a phase takes new ones (R58). That a saved or suspended block too passes the launch gate, and
counts as an admitted start, is the model's choice: R29 names host launches, `launch`, `gtrig` and phases alone (log entry 45). -/
def arriveBlock (s : State) (blk core : Nat) (st : BlockSt) : State :=
  match mget s.blocks blk with
  | none => s
  | some b =>
    let stays := b.st == .queued && b.core == core
    let ls := latchesOf s b.ctx blk
    let s0 := if st == .running then joinRot s blk core b.rot else s
    let s1 := modCluster s0 (clusterNum core) fun c => { c with recs := c.recs ++ b.recs, latches := c.latches ++ ls }
    let s2 := if ls.isEmpty then s1 else modCtx s1 b.ctx fun x => { x with latches := x.latches.filter fun l => !ls.contains l }
    let s3 := modBlock s2 blk fun b => { b with recs := [], base := if stays then b.base else (freeBase s core b.lmem).getD 0 }
    let s4 := if st == .running && !(b.record.isEmpty && slotsKept s core b.groups) then reslot s3 core b.groups else s3
    let s5 := if b.core = core then s4 else migrate s4 blk core
    let s6 := putFrames (rehome (modBlock s5 blk fun b => { b with st := st }) blk b.core core) b.groups
    if st == .running then gateAdmit (rewatch s6 b.groups) (dieOf core)
    else modCore s6 core fun c => { c with phaseQ := c.phaseQ ++ [blk] }
/-- Whether a saved block may come back on a core (R45, R266, R278, R313, R316): the partition and the core have room for it, and the slots of its
groups; with records, in its cluster; bound to other blocks by a command or a latch, at its core number, in the cluster of those that are back
already. A suspended block (R339) takes other slots where its own are in use (R45; log entry 51), unless a latch lists them. -/
def mayReturn (s : State) (b : Block) (blk core : Nat) (gr : Grid) : Bool :=
  let bound := (bindSets s).filter fun l => l.contains blk
  let listed := (openLatches s).any fun l => latchLists s l b
  (ctxOf s b.ctx).part.contains (dieOf core) && fits s core b.grid gr (some blk) && latchRoom s b blk core
    && (b.recs.isEmpty || (clusterNum core == clusterNum b.core && recsFit s (clusterNum core) b.recs))
    && (!b.record.isEmpty || (b.st == .suspended && !listed) || slotsKept s core b.groups)
    && (bound.isEmpty || coreNum core == coreNum b.core)
    && bound.all fun l => l.all fun o =>
      o == blk || (match mget s.blocks o with | some x => x.st == .saved || x.st == .suspended || clusterNum x.core == clusterNum core | none => true)
/-- One saved block back on a core, where it may: running, or between its phases on the core's queue. -/
def returnOne (s : State) (blk core : Nat) : Option State :=
  match mget s.blocks blk with
  | none => none
  | some b =>
    match mget s.grids b.grid with
    | none => none
    | some gr => if mayReturn s b blk core gr then some (arriveBlock s blk core (if b.record.isEmpty then .running else .queued)) else none
/-- A block back on a core together with the saved blocks bound to it, each at its core number in that cluster, once all have room (R278, R316).
A suspended block bound to them follows them to that cluster, where it will come back (R339). -/
def returnSet (s : State) (blk core : Nat) : Option State :=
  let others := (boundSet s blk).filter (· != blk)
  let here (b : Block) : Nat := clusterCore core (coreNum b.core)
  let away := others.filter fun o => match mget s.blocks o with | some b => b.st == .suspended && here b != b.core | none => false
  if away.any fun o => match mget s.blocks o with | some b => !b.recs.isEmpty | none => false then none
  else
    ((others.filter fun o => (mget s.blocks o).any (·.st == .saved)).foldl (fun acc o =>
      match acc, mget s.blocks o with
      | some t, some b => returnOne t o (here b)
      | a, _ => a) (returnOne s blk core)).map fun t => away.foldl (fun t o => modBlock t o fun b => { b with core := here b }) t

/-! ### Blocks that wait for placement (R45) -/

/-- The coin of a grid stands at a group of a block (R340). -/
def coinAtBlock (gr : Grid) (bidx : Nat) : Bool :=
  !gr.coinHeld && decide (gr.coinPos / gr.ngrp = bidx) && decide (gr.coinPos < gr.size * gr.ngrp)
/-- A suspended block comes back now (R339): its round has closed, or the coin stands at one of its groups. -/
def suspendedDue (s : State) (b : Block) : Bool :=
  match mget s.grids b.grid with
  | none => false
  | some gr => gr.round != b.susp || coinAtBlock gr b.bidx
/-- The blocks of a grid that are off their cores and may come back as they are (R313, R339). -/
def toReturn (s : State) (grid : Nat) : List (Nat × Block) :=
  s.blocks.filter fun e => e.2.grid == grid
    && ((e.2.st == .saved && e.2.record.isEmpty) || (e.2.st == .suspended && suspendedDue s e.2))
/-- A block waiting for placement: the moment at which it became ready, its `bidx`, and its number if it was on a core before. -/
abbrev Waiting := Nat × Nat × Option Nat
/-- The blocks of a grid that wait for placement (R45): those to restore, and the next new one. A block without predecessors is ready from the
launch on. -/
def waitingBlocks (s : State) (grid : Nat) (gr : Grid) : List Waiting :=
  let at_ (b : Nat) : Nat := mgetD gr.readyAt b grid
  ((nextBlock (ctxOf s gr.ctx).det gr).toList.map fun b => (at_ b, b, none)) ++ (toReturn s grid).map fun e => (at_ e.2.bidx, e.2.bidx, some e.1)
/-- One waiting block of a grid comes before another: the one ready first, the lower `bidx` where that does not tell, and by `bidx` alone in a
deterministic context (R45, R339). -/
def Waiting.before (det : Bool) (a b : Waiting) : Bool :=
  if det || a.1 == b.1 then decide (a.2.1 < b.2.1) else decide (a.1 < b.1)
/-- The first waiting block of a grid: while it fits on no core it holds back the later ones (R45). -/
def firstWaiting (s : State) (grid : Nat) (gr : Grid) : Option Waiting :=
  (waitingBlocks s grid gr).foldl (fun (m : Option Waiting) e =>
    match m with | some x => if Waiting.before (ctxOf s gr.ctx).det e x then some e else m | none => some e) none
/-- A grid has a block waiting for placement: one to restore, or a new one (R45, R339). -/
def waits (s : State) (grid : Nat) (gr : Grid) : Bool := (firstWaiting s grid gr).isSome
/-- The moment at which a grid's first waiting block became ready. -/
def readyStamp (s : State) (grid : Nat) (gr : Grid) : Nat := match firstWaiting s grid gr with | some w => w.1 | none => grid
/-- The first waiting block of a grid has room on a core, the gate aside (R45). -/
def roomFor (s : State) (grid core : Nat) (gr : Grid) : Bool :=
  (ctxOf s gr.ctx).part.contains (dieOf core) && match firstWaiting s grid gr with
    | some (_, _, some blk) => (returnSet s blk core).isSome
    | some (_, _, none) => offsetRun s gr (dieOf core) && fits s core grid gr none
    | none => false

/-! ### The launch gate (R29) -/

/-- The enabled cores of a context's partition in a region. -/
def regionCores (s : State) (c n : Nat) : List Nat := (logicalCores s (ctxOf s c).part).filter fun k => regionOfDie (dieOf k) == n
/-- The first waiting block of a launch, or a queued phase whose turn it is on its core (R58), could start in a region but for the gate. -/
def startWaits (s : State) (n x : Nat) : Bool :=
  match mget s.grids x with
  | some gr =>
    (ctxOf s gr.ctx).cst == 1 && !(ctxOf s gr.ctx).draining && (regionCores s gr.ctx n).any fun c => roomFor s x c gr
  | none =>
    match mget s.blocks x with
    | none => false
    | some b =>
      match mget s.grids b.grid with
      | none => false
      | some gr =>
        b.st == .queued && nextPhase s b.core == some x && (ctxOf s b.ctx).cst == 1 && !(ctxOf s b.ctx).draining
          && (regionCores s b.ctx n).any fun c => mayMove s x b c && fits s c b.grid gr (some x)
/-- The gate of a die's region admits a start of a launch or phase now (R29): the step's limit leaves room, and no start that an earlier
limit held back stands before it in the region's queue. -/
def gateLets (s : State) (d x : Nat) : Bool :=
  let n := regionOfDie d
  let r := regionOf s n
  gateOpen s d && !((r.queue.takeWhile (· != x)).any fun y => r.held.contains y && startWaits s n y)

/-- PHASE_RESUME (R59): a queued phase, or a saved one, resumes on a core. -/
def phaseResume (s : State) (blk core : Nat) : Option State :=
  match mget s.blocks blk with
  | none => none
  | some b =>
    match mget s.grids b.grid with
    | none => none
    | some gr =>
      let turn := match b.st with
        | .queued => nextPhase s b.core == some blk && mayMove s blk b core && fits s core b.grid gr (some blk)
        | .saved => !b.record.isEmpty && boundSet s blk == [blk] && mayReturn s b blk core gr
        | .running | .suspended => false
      let c := ctxOf s b.ctx
      if turn && inPartition s b.ctx core && c.cst == 1 && !c.draining && gateLets s (dieOf core) blk then
        let hs := b.record
        let s1 := { s with cores := s.cores.map fun c => (c.1, { c.2 with phaseQ := c.2.phaseQ.filter (· != blk) }) }
        let s2 := hs.foldl (fun s h => modGroup s h.group fun g => resumeGroup gr g h) s1
        some (hs.foldl (fun s h => resumeTransfer s h.group) (modBlock (arriveBlock s2 blk core .running) blk fun b => { b with record := [] }))
      else none
/-- PHASE_RESUME (R59). -/
def execPhaseResume (blk core : Nat) (s : State) : Out := .next ((phaseResume s blk core).getD s)

/-! ### Register blocks (R60, R61) -/

/-- The slabs that n extended blocks of a group need. -/
def extSlabs (g : Group) (n : Nat) : Nat := n * g.gwid / 8
/-- `xacq` (R60). -/
def execXacq (sm : Bool) (n : Nat) (s : State) : Out :=
  acting s fun u g =>
    let ngrp := match mget s.grids g.grid with | some gr => gr.ngrp | none => 1
    if g.ext != 0 || decide (128 - ngrp * g.gwid / 8 < extSlabs g n) then raise s u g 0x12
    else if slabsFree s g n then fin s u sm 4 { g with ext := n }
    else modCore (parkOn s u g (.xacq n sm)) (coreOfGroup s g) fun c => { c with grantQ := c.grantQ ++ [u] }
/-- XACQ_GRANT (R60): the first request of a core's queue is granted once its slabs are free. -/
def xacqGrant (s : State) (core : Nat) : Option State :=
  match (coreOf s core).grantQ with
  | [] => none
  | u :: rest =>
    match mget s.groups u with
    | none => some (modCore s core fun c => { c with grantQ := rest })
    | some g =>
      match g.park with
      | some (.xacq n sm) =>
        if slabsUsed s core + extSlabs g n ≤ 128 then some (modCore (fin s u sm 4 { g with ext := n }) core fun c => { c with grantQ := rest })
        else none
      | _ => some (modCore s core fun c => { c with grantQ := rest })
/-- XACQ_GRANT (R60). -/
def execXacqGrant (core : Nat) (s : State) : Out := .next ((xacqGrant s core).getD s)
/-- `xrel` (R61). -/
def execXrel (sm : Bool) (s : State) : Out :=
  acting s fun u g =>
    let h := keepBlocks 0 g
    fin s u sm 4 { h with histX := h.histX.filter fun e => decide (e.1 < 32) }

/-! ### Exit (R44, R164) -/

/-- A group exits: the latches it is listed in fail (R278), and the coin passes it (R340). -/
def exitGroup (s : State) (u : Nat) : Option State :=
  match mget s.groups u, groupExit s u with
  | some g, some s1 =>
    let s2 := latchExit s1 u
    some (if holdsCoin s g then coinLeave s2 g else coinSettle s2 g.grid)
  | _, _ => none
/-- GROUP_EXIT (R44): a halted group whose commands have completed and whose causes have been taken exits. -/
def execGroupExit (g : Nat) (s : State) : Out := .next ((exitGroup s g).getD s)
/-- `halt` (R54, R164): pending paths are discarded, extended blocks released, the group counts as arrived at every barrier, and it exits at
once when nothing of it is outstanding. In the supervisor handler it ends the handler too, so that the engine causes that are due are still
taken, and a command that the handler held runs on (R250; log entry 51). -/
def execHalt (_sm : Bool) (s : State) : Out :=
  acting s fun u g =>
    let h := keepBlocks 0 (settle s g)
    let s0 := match g.trapCmd with
      | some id => { s with cmds := mmod s.cmds id fun d => { d with stalled := false } }
      | none => s
    let s1 := setGroup s0 u { h with
      halted := true, park := some .halted, table := [], icnt := g.icnt + 1, replay := none, hstack := none, sup := false, trapCmd := none }
    let s2 := barTryAll s1 g.block
    (exitGroup s2 u).getD s2

/-! ### Saving and placing (R45, R311-R316, R339) -/

/-- A group's park as a save leaves it: words that have not retired are withdrawn and execute again, arrivals stay (R124, R198, R248, R311, R313).
Of a deterministic grid, the record keeps a parked `bwt` or `wadr` (R313): out of its core it watches nothing (`watches`), and it executes
again as its block comes back (`rewatch`). -/
def savedPark (det : Bool) (p : Option Park) : Option Park :=
  match p with
  | some (.bwt _ _ _) | some (.wadr _ _ _ _) => if det then p else none
  | some (.xacq _ _) | some (.cls _ _) | some (.token _) | some (.presence _)
  | some .gridRoom | some (.trigRoom _) | some .latchRoom | some .commit | some .marker | some .result => none
  | q => q
/-- A group saved with its trap frame (R311, R313). -/
def saveGroup (s : State) (g : Group) : Group :=
  let h := settle s g
  { h with
    park := savedPark (detOf s g) h.park
    hstack := h.hstack.map fun k => { k with frame := Memory.readN s.mem (frameAddr s g) 2048 } }
/-- A block leaves its core: its groups are saved at instruction boundaries, its records, latches, queues, phase and its place in the rotation with
them (R266, R278, R311, R313). -/
def saveBlock (s : State) (blk : Nat) (st : BlockSt) : State :=
  match mget s.blocks blk with
  | none => s
  | some b =>
    let cl := clusterNum b.core
    let recs := (clusterOf s cl).recs.filter fun e => e.2.block == blk
    let ids := (blockCmds s blk).map (·.1)
    let ls := (clusterOf s cl).latches.filter fun l => l.issues.any fun p => ids.contains p.2
    let s0 := b.groups.foldl (fun t u => modGroup t u (saveGroup s)) s
    let s1 := modBlock s0 blk fun b =>
      { b with st := st, recs := b.recs ++ recs, enter := none, susp := (match mget s.grids b.grid with | some gr => gr.round | none => 0) }
    let s2 := modCluster s1 cl fun c =>
      { c with recs := c.recs.filter (fun e => e.2.block != blk), queues := c.queues.map (fun q => (q.1, q.2.filter fun i => !ids.contains i)), latches := c.latches.filter fun l => !ls.contains l }
    let s3 := if ls.isEmpty then s2 else modCtx s2 b.ctx fun x => { x with latches := x.latches ++ ls }
    modCore s3 b.core fun c =>
      { c with grantQ := c.grantQ.filter (fun u => !b.groups.contains u), cycle := c.cycle.filter (fun u => !b.groups.contains u), phaseQ := c.phaseQ.filter (· != blk) }
/-- Whether the first waiting block of a grid can be placed on a core of its partition now: the core has room, the gate and the launch's
offset let it through (R29, R45). -/
def canPlace (s : State) (grid core : Nat) (gr : Grid) : Bool :=
  let c := ctxOf s gr.ctx
  c.cst == 1 && !c.draining && gateLets s (dieOf core) grid && roomFor s grid core gr
/-- The cores on which blocks of a grid may be placed (R45). -/
def gridCores (s : State) (gr : Grid) : List Nat := logicalCores s (ctxOf s gr.ctx).part
/-- A group of a block that keeps it from being suspended (R339). -/
def suspendable (s : State) (blk : Nat) (b : Block) : Bool :=
  b.st == .running && (blockCmds s blk).isEmpty && b.groups.all fun u =>
    match mget s.groups u with
    | some g => g.exited || (g.hstack.isNone && g.causes.isEmpty && match g.park with | some (.rnd _) | some .coinw | some .coinWait => true | _ => false)
    | none => true
/-- BLOCK_SUSPEND (R339): while a block of a deterministic grid waits for placement, the suspendable resident block of highest `bidx` is
suspended, unless the coin stands at it, for it would come back at once. -/
def blockSuspend (s : State) (blk : Nat) : Option State :=
  match mget s.blocks blk with
  | none => none
  | some b =>
    match mget s.grids b.grid with
    | none => none
    | some gr =>
      if (ctxOf s b.ctx).det && suspendable s blk b && !coinAtBlock gr b.bidx && waits s b.grid gr
          && !(s.blocks.any fun e => e.2.grid == b.grid && decide (b.bidx < e.2.bidx) && suspendable s e.1 e.2)
          && !((gridCores s gr).any fun c => canPlace s b.grid c gr) then some (saveBlock s blk .suspended) else none
/-- BLOCK_SUSPEND (R339). -/
def execBlockSuspend (blk : Nat) (s : State) : Out := .next ((blockSuspend s blk).getD s)

end Sys2Proof.Machine
end

