-- ==== Sys2Proof/Machine/Special.lean ====
section
/-!
DEFINITION. Special registers (R158-R161, R305), `topo` and `capq` (R88, R89, R162, R163), `nop`, `brk`, `trap` and `sret` (R164, R306).
-/
namespace Sys2Proof.Machine

/-! ### Special registers -/

/-- The place of a group's core in its grid's logical numbering, which stands since the launch (R34); all ones for a core that the
numbering does not hold (R318). -/
def lcoreOf (s : State) (g : Group) : Nat :=
  match mget s.grids g.grid with
  | some gr => (gr.cores.findIdx? fun c => c == coreOfGroup s g).getD 0xFFFFFFFF
  | none => 0
/-- The firing that a group's grid is (R159), as stage or number. -/
def firingOf (s : State) (g : Group) (stage : Bool) : Nat :=
  match mget s.grids g.grid with
  | some gr => (match gr.firing with | some (_, _, st, n) => if stage then st else n | none => 0xFFFFFFFF)
  | none => 0xFFFFFFFF
/-- The value of a special register by number; a pair register is 64 bits (R158, R159, R305). -/
def specialRead (s : State) (g : Group) (num : Nat) : Nat :=
  let gr := mget s.grids g.grid
  let b := mget s.blocks g.block
  let c := ctxOf s g.ctx
  let dim (f : Grid → Nat) : Nat := match gr with | some x => f x | none => 0
  let bidx := match b with | some x => x.bidx | none => 0
  let hi (v : DWord) : Nat := v.toNat / 2 ^ 32
  match num with
  | 0x000 => g.gidx
  | 0x001 => g.gwid
  | 0x002 => dim (·.ngrp)
  | 0x003 => bidx
  | 0x004 => dim fun x => bidx % x.gdx
  | 0x005 => dim fun x => bidx / x.gdx % x.gdy
  | 0x006 => dim fun x => bidx / x.gdx / x.gdy
  | 0x007 => dim (·.gdx)
  | 0x008 => dim (·.gdy)
  | 0x009 => dim (·.gdz)
  | 0x00A => dim (·.depth)
  | 0x010 => lcoreOf s g
  | 0x011 => dim (·.cores.length)
  | 0x012 => 30
  | 0x020 => if c.det then g.icnt.toNat else (Config.clock s.free).toNat
  | 0x021 => g.icnt.toNat
  | 0x030 => g.qthr.toNat
  | 0x031 => g.qscale.toNat
  | 0x032 => g.qside.toNat
  | 0x040 => c.seed.toNat % 2 ^ 32
  | 0x041 => hi c.seed
  | 0x042 => g.srx.toNat
  | 0x050 => g.gang.toNat
  | 0x051 => hi g.gang
  | 0x060 => g.agelim.toNat
  | 0x070 => firingOf s g true
  | 0x071 => firingOf s g false
  | 0x080 => g.ver
  | 0x081 => g.spn.toNat
  | 0x0F0 => g.mode.toNat
  | 0x100 => g.scause.toNat
  | 0x101 => g.sepc.toNat
  | 0x102 => g.sfmask.toNat
  | 0x103 => hi g.sfmask
  | 0x104 => g.stok.toNat
  | 0x105 => g.sretc.toNat
  | 0x110 => g.ctx
  | 0x111 => c.cgen.toNat
  | 0x112 => c.fpool.toNat
  | 0x113 => hi c.fpool
  | 0x114 => c.rqtab.toNat
  | 0x115 => hi c.rqtab
  | 0x116 => g.uhnd.toNat
  | _ => 0
/-- The high half of a pair register replaced (R158). -/
def withHigh (v : DWord) (w : Nat) : DWord := BitVec.ofNat 64 (v.toNat % 2 ^ 32 + w % 2 ^ 32 * 2 ^ 32)
/-- The bits of `gang` that a list of at most six slots and its count use (R276). -/
def gangMask : DWord := 0x1FFFFFFFFFFF
/-- The stored value of `mode`: reserved bits read as zero, and VRM above 4 is stored as 0 (R77, R160). -/
def modeWrite (v : Nat) : Word := BitVec.ofNat 32 (v / 8 % 2 * 8 + (if 4 < v % 8 then 0 else v % 8))
/-- The group after a write of a special register by number; a read-only or unassigned number changes nothing (R158). -/
def specialWrite (g : Group) (num v : Nat) : Group :=
  let w := BitVec.ofNat 32 v
  match num with
  | 0x030 => { g with qthr := w }
  | 0x031 => { g with qscale := BitVec.ofNat 32 (v % 256) }
  | 0x032 => { g with qside := w }
  | 0x042 => { g with srx := w }
  | 0x050 => { g with gang := BitVec.ofNat 64 v &&& gangMask }
  | 0x051 => { g with gang := withHigh g.gang v &&& gangMask }
  | 0x060 => { g with agelim := BitVec.ofNat 32 (max 64 (min (v % 2 ^ 32) 65535)) }
  | 0x0F0 => { g with mode := modeWrite v }
  | 0x101 => { g with sepc := w }
  | 0x102 => { g with sfmask := BitVec.ofNat 64 v }
  | 0x103 => { g with sfmask := withHigh g.sfmask v }
  | 0x105 => { g with sretc := w &&& 0x3FB }
  | _ => g
/-- The number needs supervisor mode (R158). -/
def specialPriv (num : Nat) (write : Bool) : Bool := decide (0x100 ≤ num) || (write && (num == 0x040 || num == 0x041))
/-- The registers that a special-register word names at x (R158). -/
def specialRegs (num x : Nat) : List Nat := if specialPair num then [x, x + 1] else [x]
/-- `srd` and `swr` wait for every outstanding register result of the group, in code of either form (R92, R158). -/
def specialWaits (g : Group) : Bool := !g.words.isEmpty
/-- `srd` (R158). -/
def execSrd (sm : Bool) (xd num : Nat) (s : State) : Out :=
  acting s fun u g0 =>
    let g := settle s g0
    if specialWaits g0 then parkOn s u g0 .result
    else if !g.sup && specialPriv num false then raise s u g 0x02
    else if !(specialRegs num xd).all (held g) then raise s u g 0x03
    else
      let v := specialRead s g num
      fin s u sm 4 (if specialPair num then writeUPair s g xd v else writeU s g xd (BitVec.ofNat 32 v))
/-- `swr` (R158). -/
def execSwr (sm : Bool) (xa num : Nat) (s : State) : Out :=
  acting s fun u g0 =>
    let g := settle s g0
    if specialWaits g0 then parkOn s u g0 .result
    else if !g.sup && specialPriv num true then raise s u g 0x02
    else if !(specialRegs num xa).all (held g) then raise s u g 0x03
    else fin s u sm 4 (specialWrite g num (if specialPair num then uniPair s g xa else (uni s g xa).toNat))

/-! ### Facts about the partition and the numerics -/

/-- The enabled cores of a die in a grid's numbering. -/
def dieCores (gr : Grid) (d : Nat) : List Nat := gr.cores.filter fun c => dieOf c == d
/-- The first logical row of partition die i (R35). -/
def firstRow (gr : Grid) (part : List Nat) (i : Nat) : Nat :=
  ((part.take i).map fun d => cdiv (dieCores gr d).length 30).foldl (· + ·) 0
/-- A fact by selector and index (R162). -/
def topoFact (s : State) (g : Group) (sel i : Nat) : Nat :=
  match mget s.grids g.grid with
  | none => 0
  | some gr =>
    let part := sortAsc (ctxOf s g.ctx).part
    let core := coreOfGroup s g
    let none32 := 0xFFFFFFFF
    let ofDie (f : Nat → Nat) : Nat := match part[i]? with | some d => f d | none => none32
    match sel with
    | 0 => s.grade
    | 1 => part.length
    | 2 => ofDie id
    | 3 => ofDie fun d => (dieCores gr d).length
    | 4 => ofDie fun d => (gr.engines.filter fun e => e / 240 == d).length
    | 5 => if i < part.length then firstRow gr part i else none32
    | 6 => firstRow gr part part.length
    | 7 => dieOf core
    | 8 => siteOf core
    | 9 => clusterIdx core
    | 10 => if 240 ≤ i then none32 else ((dieCores gr (dieOf core)).filter fun c => clusterIdx c == i).foldl (fun m c => m + 2 ^ coreNum c) 0
    | 11 => if 240 ≤ i then none32 else if gr.engines.contains (dieOf core * 240 + i) then 1 else 0
    | 12 => s.lostd
    | 13 => 0x0101
    | _ => 0
/-- `topo` (R162). -/
def execTopo (sm : Bool) (xd xa sel : Nat) (s : State) : Out :=
  word s [xd, xa] fun u g => fin s u sm 4 (writeU s g xd (BitVec.ofNat 32 (topoFact s g sel (uni s g xa).toNat)))
/-- A word of the numeric behaviour record of a key (R82, R88, R89). -/
def behaviour (key w : Nat) : Nat :=
  let afmt := fld key 3 0
  let bfmt := fld key 7 4
  let wa16 := bit key 8
  let rate := if !wa16 then 4096 else if bfmt = 2 then 1024 else 2048
  if key / 2 ^ 11 != 0 || !comboOk afmt wa16 bfmt then 0
  else match w with
    | 0 => 0x00010008
    | 1 => 0x00803000 + (if wa16 then 16 else 8)
    | 2 => (if bfmt = 2 then 4 else 3) * 2 ^ 24 + (if bfmt = 2 then 0 else 0xF000)
    | 3 => 7
    | 4 => 3
    | 5 => 0x7FC00000
    | 6 => rate * 16 / keptOf (fld key 10 9)
    | 7 => if wa16 then 32767 else 127
    | _ => 0
/-- `capq` (R163). -/
def execCapq (sm : Bool) (xd xa sel : Nat) (s : State) : Out :=
  word s [xd, xa] fun u g => fin s u sm 4 (writeU s g xd (BitVec.ofNat 32 (behaviour (uni s g xa).toNat sel)))

/-! ### System and trap words -/

/-- `nop` (R164). -/
def execNop (sm : Bool) (s : State) : Out := acting s fun u g => fin s u sm 4 g
/-- Short `nop` (R100). -/
def execShortNop (s : State) : Out := acting s fun u g => fin s u false 2 g
/-- BRKD of `mode` (R160). -/
def brkd (g : Group) : Bool := g.mode.getLsbD 3
/-- `brk` (R164). -/
def execBrk (sm : Bool) (s : State) : Out :=
  acting s fun u g => if brkd g then fin s u sm 4 g else raise s u g 0x10
/-- `trap` (R164): it retires, then raises cause 0x0F with n recorded. -/
def execTrap (_sm : Bool) (n : Nat) (s : State) : Out :=
  acting s fun u g =>
    trapEntry s u { g with icnt := g.icnt + 1, replay := none }
      { cause := 0x0F, n := n, engine := false, token := 0, faults := [], fmask := 1, sepc := g.pc + 4, kind := 0, cmd := none }
/-- The return of the supervisor handler (R250, R306): every earlier store of the group has performed; a command that an engine cause held
goes on, or is abandoned by a delivery. -/
def handlerReturn (s0 : State) (u : Nat) (g : Group) : State :=
  let s := performStores s0 u
  match g.trapCmd.bind fun id => (mget s.cmds id).map fun d => (id, d) with
  | none => trapReturn s u g
  | some (id, d) =>
    let s0 := setGroup s u g
    let s1 := if g.sretc.toNat % 4 = 2 then abandonCmd s0 id d else { s0 with cmds := mset s0.cmds id { d with stalled := false } }
    match mget s1.groups u with
    | some h => trapReturn s1 u { h with sup := g.sup, sretc := g.sretc }
    | none => s1
/-- `sret` (R306): it retires (R102). That it waits first for the results of the handler's escrow words is the model's choice (log
entry 56). -/
def execSret (_sm : Bool) (s : State) : Out :=
  acting s fun u g => if g.sup && !g.words.isEmpty then parkOn s u g .result else if g.sup then handlerReturn s u { g with icnt := g.icnt + 1 } else raise s u g 0x02

end Sys2Proof.Machine
end

