-- ==== Sys2Proof/Machine/Service.lean ====
section
/-!
DEFINITION. The supervisor handler's service of each cause (R219-R222, R297, R303, R323), and the entry of engine causes (R250). The spec
gives what the handler does and not its code: while `fw` holds no code, the handler's work is done in steps of its own.
-/
namespace Sys2Proof.Machine

/-! ### Engine causes (R250, R320) -/

/-- An engine cause is due to a group at its instruction boundary (R250). -/
def causeDue (s : State) (g : Group) : Bool :=
  let running := match mget s.blocks g.block with | some b => b.st == .running | none => false
  !g.causes.isEmpty && g.hstack.isNone && !g.exited && g.replay.isNone && g.trapping.isNone && running && (ctxOf s g.ctx).cst == 1
/-- ENGINE_CAUSE (R250): the group takes the next cause that is due to it, at an instruction boundary, once its register results are written (R95); a
parked group is unparked. -/
def engineCause (s : State) (u : Nat) : Option State :=
  match mget s.groups u with
  | none => none
  | some g =>
    match g.causes with
    | [] => none
    | e :: rest =>
      if !causeDue s g || !g.words.isEmpty then none
      else
        let s1 := modCore s (coreOfGroup s g) fun c => { c with grantQ := c.grantQ.filter (· != u) }
        let faults : List LaneFault := match e.va with | some va => [⟨0, va, if e.write then 7 else 3, e.cause⟩] | none => []
        some (trapEntry s1 u { g with causes := rest }
          { cause := e.cause, n := 0, engine := !e.own, token := e.token, faults := faults, fmask := 1, sepc := g.pc, kind := 2, cmd := e.cmd })
/-- ENGINE_CAUSE (R250). -/
def execEngineCause (g : Nat) (s : State) : Out := .next ((engineCause s g).getD s)

/-! ### The handler's own accesses -/

/-- The group is in the supervisor handler, and the handler's work is done in steps of its own. -/
def inService (s : State) (g : Group) : Bool := g.hstack.isSome && s.fw.isEmpty

/-- The cause that the handler serves. -/
def servedCause (g : Group) : Nat := g.scause.toNat % 256
/-- n of a software trap that the handler serves. -/
def servedN (g : Group) : Nat := g.scause.toNat / 256 % 256
/-- The handler serves an engine cause. -/
def servedEngine (g : Group) : Bool := g.scause.getLsbD 16
/-- A strong load by the handler of n bytes at a virtual address, or its cause. -/
def supLoad (s : State) (g : Group) (va n : Nat) : Except Nat Nat :=
  match resolve s g.ctx va 0 with
  | .ok pa => .ok (loadNewest s pa n)
  | .error c => .error c
/-- The walks and bytes that the handler's loads have reached (R319). -/
def supNote (s : State) (g : Group) (vas : List Nat) : State :=
  vas.foldl (fun s va => match resolve s g.ctx va 0 with | .ok pa => noteAccess s g va pa | .error _ => touchVa s g.ctx va) s
/-- A strong store by the handler of n bytes at a virtual address, or its cause. -/
def supStore (u : Nat) (g : Group) (va n v : Nat) (s : State) : Except Nat State :=
  match resolve s g.ctx va 1 with
  | .ok pa => .ok (noteAccess (commit s u g pa (some va) (leBytes n v) true) g va pa)
  | .error c => .error c
/-- An access by the handler to a physical frame that no page of the context need map: an entry of its tables, or a frame it zeroes. -/
def supFrame (s : State) (c pa : Nat) : Option Nat :=
  if !physMapped s pa || inReserve pa || vaultFrame s pa (some c) then some 0x06 else if poisoned s pa then some 0x07 else none
/-- Strong stores one after another. -/
def supStores (u : Nat) (g : Group) : List (Nat × Nat × Nat) → State → Except Nat State
  | [], s => .ok s
  | q :: qs, s => match supStore u g q.1 q.2.1 q.2.2 s with | .ok s1 => supStores u g qs s1 | .error c => .error c
/-- The handler goes back to the group: a word whose access was repaired replays, a uniform one whole, anything else resumes at `sepc`
(R218, R306). -/
def serviceReturn (s : State) (u : Nat) (g : Group) : State :=
  let replay := !servedEngine g && g.faults.any fun f => f.kind ≤ 1
  handlerReturn s u { g with sretc := if replay then 1 else 0 }
/-- The handler delivers the cause it serves (R307). -/
def serviceDeliver (s : State) (u : Nat) (g : Group) : State := handlerReturn s u { g with sretc := 2 }

/-! ### Page faults (R219, R220, R222) -/

/-- A frame that a pool entry may name (R219), on no die from which no new frame is taken (R323; log entry 51). -/
def frameOk (s : State) (f : Nat) : Bool :=
  f % 65536 == 0 && decide (f < dramEnd) && !inReserve f && !s.degraded.contains (homeDie f) && !s.offDies.contains (homeDie f)
/-- The topmost entry of a pool of n that names a usable frame: the frame and the count below it (R219). -/
def takeFrame (s : State) (g : Group) (pool : Nat) : Nat → Except Nat (Option (Nat × Nat))
  | 0 => .ok none
  | n + 1 =>
    match supLoad s g (pool + 32 + 8 * n) 8 with
    | .error c => .error c
    | .ok f => if frameOk s f then .ok (some (f, n)) else takeFrame s g pool n
/-- What the first steps of a first touch come to: the handler's own access failed, a zeroed frame is taken, or the host must map the page. -/
inductive Repair where
  | failed (cause : Nat)
  | taken (s : State) (g : Group) (frame : Nat)
  | host (s : State)
/-- A frame zeroed: it reads zero for everyone from now on (R219, step 2). -/
def zeroFrame (s : State) (f : Nat) : State :=
  { s with
    mem := Memory.clear s.mem f (f + 65536)
    log := s.log.filter fun e => !(decide (f ≤ e.loc) && decide (e.loc < f + 65536)) }
/-- The first steps of a first touch (R219): a frame taken from the pool, zeroed by a `fill`, and a release at `.dev`. Where the frame lies on a
lost die or in another context's vault, which the rule does not have discarded, the `fill` is the handler's own access that fails, with cause 0x07
or 0x06: the model's choice (log entry 51). -/
def firstTouch (s : State) (u : Nat) (g : Group) : Repair :=
  let pool := (ctxOf s g.ctx).fpool.toNat
  match supLoad s g pool 8, supStore u g (pool + 8) 8 0 (supNote s g [pool]) with
  | .error c, _ => .failed c
  | _, .error c => .failed c
  | .ok n, .ok s0 =>
    match takeFrame s g pool n with
    | .error c => .failed c
    | .ok none => (match supStore u g pool 8 0 s0 with | .ok s1 => .host s1 | .error c => .failed c)
    | .ok (some (f, left)) =>
      match supStore u g pool 8 left (supNote s0 g ((List.range (n - left)).map fun i => pool + 32 + 8 * (left + i))), supFrame s g.ctx f with
      | .error c, _ => .failed c
      | _, some c => .failed c
      | .ok s1, none =>
        let s2 := performStores (touchPa (zeroFrame s1 f) g.ctx f) u
        .taken s2 (fenceRelease s2 u { g with cnt := mset g.cnt 0 (nextToken g 0) } .dev) f
/-- The virtual address of a field of a request slot of a group's context. -/
def slotVa (s : State) (g : Group) (slot off : Nat) : Nat := (ctxOf s g.ctx).rqtab.toNat + 32 * slot + off
/-- The slot of the next request can be written: its VALID is 0 (R220), or reading it faults. -/
def slotFree (s : State) (g : Group) : Bool :=
  match supLoad s g (slotVa s g ((ctxOf s g.ctx).reqid % 256) 28) 4 with | .ok v => v == 0 | .error _ => true
/-- A page request posted (R220): the slot written, VALID last, which forwards it, and the group parked on ANS. -/
def postRequest (s : State) (u : Nat) (g : Group) (va kind : Nat) : State :=
  let c := ctxOf s g.ctx
  let slot := c.reqid % 256
  let t := c.rqtab.toNat + 32 * slot
  match supStores u g [(t, 8, va), (t + 8, 4, kind + g.ctx * 2 ^ 16), (t + 12, 4, c.cgen.toNat), (t + 16, 4, c.reqid), (t + 20, 4, 0), (t + 24, 4, 0), (t + 28, 4, 1)] (supNote s g [t + 28]) with
  | .error e => kill s g.ctx e
  | .ok s1 => parkOn (modCtx s1 g.ctx fun x => { x with reqid := (x.reqid + 1) % 65536 }) u g (.answer slot)
/-- The KIND of a request for a faulted access (R220). -/
def requestKind (f : LaneFault) : Nat := if f.kind = 7 then 1 else if f.kind = 3 then 0 else f.kind
/-- An absent page of a walk that the frame pool serves (R219). -/
def poolServes (s : State) (c : Nat) (w : WalkRes) : Option Nat :=
  match w with
  | .absent 3 true e => if (ctxOf s c).fpool = 0 then none else some e
  | _ => none
/-- The walk meets an absent entry. -/
def isAbsent : WalkRes → Bool
  | .absent _ _ _ => true
  | .page _ | .bad | .poison => false
/-- The repair of a faulted page need not wait: the pool's LOCK is free where the pool may serve it, the slot of the next request where the
host must (R219, R220); a page that is there already needs neither. -/
def repairReady (s : State) (g : Group) (f : LaneFault) : Bool :=
  let pool := (ctxOf s g.ctx).fpool.toNat
  match poolServes s g.ctx (walk s g.ctx f.va) with
  | some _ =>
    (match supLoad s g (pool + 8) 8, supLoad s g pool 8 with
     | .ok lock, .ok n => lock == 0 && (n != 0 || slotFree s g)
     | _, _ => true)
  | none => !isAbsent (walk s g.ctx f.va) || slotFree s g
/-- The faulted lanes' pages repaired one after another: each from the pool where it serves, the first other one by the host, once the slot
of the next request is free (R220). A frame taken from the pool is installed in a step of its own (`installFrame`). While another group holds the
pool's LOCK, or no slot is free, the handler waits before the lane. A table that cannot be reached since the fault is an access of the handler that
faults (R219). -/
def repairLanes (u : Nat) : List LaneFault → State → Group → State
  | [], s, g => serviceReturn s u g
  | f :: fs, s, g =>
    match poolServes s g.ctx (walk s g.ctx f.va) with
    | some e =>
      if !repairReady s g f then setGroup s u g
      else (match firstTouch s u g with
       | .failed c => kill s g.ctx c
       | .taken s1 g1 frame => parkOn s1 u g1 (.install f.va e frame (leNat (Memory.readN s.mem e 8)))
       | .host s1 => if slotFree s1 g then postRequest s1 u g f.va (requestKind f) else setGroup s1 u g)
    | none =>
      match (if f.cause = 0x05 then tableLost s g.ctx f.va else none) with
      | some c => kill (touchVa s g.ctx f.va) g.ctx c
      | none =>
      if !isAbsent (walk s g.ctx f.va) then repairLanes u fs s g
      else if slotFree s g then postRequest s u g f.va (requestKind f)
      else setGroup s u g
/-- The `satom.cas` of a first touch (R219, steps 4 and 5): it installs the frame, with an event, where the entry still holds what it held;
else the frame goes back. A frame whose die has left service since is dropped, and the repair begins again (R323; log entry 51). -/
def installFrame (s : State) (u : Nat) (g : Group) (va entry frame absent : Nat) : State :=
  match supFrame s g.ctx entry with
  | some c => kill (touchPa s g.ctx entry) g.ctx c
  | none =>
    let s1 := touchPa s g.ctx entry
    if !frameOk s frame then repairLanes u g.faults s1 g
    else if loadNewest s entry 8 != absent then parkOn s1 u g (.giveBack frame)
    else repairLanes u g.faults (postEvent (commit s1 u g entry none (leBytes 8 (2 ^ 63 + 2 ^ 60 + frame)) true) g.ctx 1 (homeDie frame) 0 va) g
/-- A frame pushed back on the pool under LOCK (R219, step 5); the repair goes on with the winner's entry. -/
def pushBack (s : State) (u : Nat) (g : Group) (frame : Nat) : State :=
  let pool := (ctxOf s g.ctx).fpool.toNat
  match supLoad s g pool 8 with
  | .error c => kill s g.ctx c
  | .ok n =>
    match supStores u g [(pool + 32 + 8 * n, 8, frame), (pool, 8, n + 1), (pool + 8, 8, 0)] (supNote s g [pool]) with
    | .error c => kill s g.ctx c
    | .ok s1 => repairLanes u g.faults s1 g
/-- An answer read, the slot freed: the lanes replay, or the fault is delivered (R220, R222). R222 gives effects to 1 and 2 alone; software
can store another value into the slot, and every value but 1 counts as failed (log entry 51). -/
def takeAnswer (s : State) (u : Nat) (g : Group) (slot : Nat) : State :=
  match supLoad s g (slotVa s g slot 20) 4, supStore u g (slotVa s g slot 28) 4 0 (supNote s g [slotVa s g slot 20]) with
  | .error c, _ => kill s g.ctx c
  | _, .error c => kill s g.ctx c
  | .ok ans, .ok s1 => if ans = 1 then serviceReturn s1 u { g with park := none } else serviceDeliver s1 u { g with park := none }

/-! ### The other causes -/

/-- An evacuation runs (R323). -/
def evacuating (s : State) : Bool := s.offCtl.toNat / 2 ^ 28 = 1
/-- The page has a byte homed on a memory die (R211). -/
def onDie (p : Page) (d : Nat) : Bool :=
  let base := p.frame * 65536
  let n := if p.il then 2 ^ p.ilw else 1
  isMemDie d && decide (base < dramEnd) && decide (base / 0x400000000 ≤ memIndex d) && decide (memIndex d < base / 0x400000000 + n)
/-- A virtual address lies in a page under evacuation. -/
def underEvac (s : State) (c va : Nat) : Bool :=
  evacuating s && (match walk s c va with | .page p => onDie p (s.offCtl.toNat % 512) | _ => false)
/-- As a move ends, no group that met a page under evacuation sees a fault (R303): one in the handler that has not looked yet waits and
replays, one whose trap entry still waits for results (R95) replays once it is in the handler, and a command that stopped goes on before its cause is
taken. -/
def endEvacuation (s : State) : State :=
  let met (g : Group) (f : LaneFault) : Bool := underEvac s g.ctx f.va
  let held (g : Group) (e : EngineCause) : Bool := e.cause == 0x06 && (e.va.map (underEvac s g.ctx)).getD false
  s.groups.foldl (fun t q =>
    let g := q.2
    let ids := (g.causes.filter (held g)).filterMap (·.cmd)
    let waits := inService s g && g.park.isNone && servedCause g == 0x06 && g.faults.any (met g)
    let t1 := { t with cmds := t.cmds.map fun d => (d.1, if ids.contains d.1 then { d.2 with stalled := false } else d.2) }
    let moved (i : TrapInfo) : TrapInfo := if i.cause = 0x06 ∧ i.faults.any (met g) = true then { i with moved := true } else i
    modGroup t1 q.1 fun h => { h with
      causes := h.causes.filter fun e => !held g e, park := if waits then some .evacuation else h.park, trapping := h.trapping.map moved }) s
/-- The binding service (R297): `trap 255` with the slot's address in x4:x5, as the trap frame keeps them. -/
def bindService (s : State) (u : Nat) (g : Group) : State :=
  let fa := frameAddr s g
  let a := leNat (Memory.readN s.mem (fa + 3 * 256) 4) + leNat (Memory.readN s.mem (fa + 4 * 256) 4) * 2 ^ 32
  let give (s1 : State) (v : Nat) : State := handlerReturn s1 u { writeUPair s g 4 v with sretc := 0x0C0 }
  let fail (e : AccErr) : State := match e with | .cause c => kill s g.ctx c | .fault c _ _ => kill s g.ctx c | .absent ls => parkOn s u g (.presence ls)
  match uPlace s g a 8 0 with
  | .error e => fail e
  | .ok loc =>
    let v := loadNewest s loc 8
    if v != 1 then give (noteAccess s g a loc) v
    else match uPlace s g (a + 8) 4 0, uPlace s g a 8 1 with
      | .error e, _ => fail e
      | .ok loc2, place1 =>
        let sym := loadNewest s loc2 4
        let s1 := noteAccess (noteAccess s g a loc) g (a + 8) loc2
        match (ctxOf s g.ctx).images.findSome? fun im => (im.exports.find? fun p => p.1 == sym).map (·.2), place1 with
        | none, _ => serviceDeliver s1 u g
        | some val, .ok loc3 => give (commit s1 u g loc3 (vaOf loc3 a) (leBytes 8 val) true) val
        | some _, .error e => fail e
/-- The handler's step for the cause it serves (R303). -/
def service (s : State) (u : Nat) (g : Group) : State :=
  match g.park with
  | some (.answer slot) => takeAnswer s u g slot
  | some (.install va entry frame absent) => installFrame s u { g with park := none } va entry frame absent
  | some (.giveBack frame) => pushBack s u { g with park := none } frame
  | _ =>
    let g0 := { g with park := none }
    let c := servedCause g
    if c = 0x05 then repairLanes u g0.faults s g0
    else if c = 0x06 && g0.faults.any (fun f => underEvac s g.ctx f.va) then parkOn s u g0 .evacuation
    else if g.park = some .evacuation then serviceReturn s u g0
    else if c = 0x0F then
      (if servedN g = 255 then bindService s u g0
       else serviceReturn (postEvent s g.ctx 9 (dieOf (coreOfGroup s g)) (servedN g) (g.sepc.toNat - 4)) u g0)
    else if c = 0x10 && (ctxOf s g.ctx).dbg then parkOn s u g0 .brk
    else serviceDeliver s u g0
/-- What the handler waits for is there: the answer, the end of the move, the lock of the pool, a free request slot, a present line. -/
def serviceReady (s : State) (g : Group) : Bool :=
  match g.park with
  | some (.answer slot) => (match supLoad s g (slotVa s g slot 20) 4 with | .ok v => v != 0 | .error _ => true)
  | some .evacuation => !evacuating s
  | some (.install _ _ _ _) => true
  | some (.giveBack _) => (match supLoad s g ((ctxOf s g.ctx).fpool.toNat + 8) 8 with | .ok lock => lock == 0 | .error _ => true)
  | some .brk => false
  | some (.presence ls) => ls.all (linePresent s)
  | _ => servedCause g != 0x05 || (match g.faults.find? fun f => isAbsent (walk s g.ctx f.va) with | some f => repairReady s g f | none => true)
/-- RESUME of a group stopped at `brk` (R303, R308): it goes on after the `brk`. -/
def resumeBrk (s : State) (u : Nat) (g : Group) : State :=
  handlerReturn s u { g with sepc := g.sepc + 4, sretc := 0, park := none }

end Sys2Proof.Machine
end

