-- ==== Sys2Proof/Machine/Order.lean ====
section
/-!
DEFINITION. Fences (R229-R231), entry consistency (R232-R235), `pfence` (R236, R237) and `ifence` (R240).
-/
namespace Sys2Proof.Machine

/-! ### Fences -/

/-- The acquire half of a fence (R230): what the group's strong reads have met at its scope becomes visible to its LS path. -/
def fenceAcquire (s : State) (u : Nat) (g : Group) (sc : Scope) : State := acquire s u g sc g.got
/-- `fence.acq` (R229). -/
def execFenceAcq (sm : Bool) (sc : Scope) (s : State) : Out :=
  acting s fun u g => fin (fenceAcquire s u g sc) u sm 4 g
/-- `fence.rel` (R229). -/
def execFenceRel (sm : Bool) (sc : Scope) (s : State) : Out :=
  acting s fun u g => fin (storesDone s u sc) u sm 4 (fenceRelease s u g sc)
/-- Acquire, then release, as `fence.ar` does: the state and the group after it. -/
def fenceBoth (s : State) (u : Nat) (g : Group) (sc : Scope) : State × Group :=
  let s1 := storesDone (fenceAcquire s u g sc) u sc
  (s1, fenceRelease s1 u g sc)
/-- `fence.ar` (R229). -/
def execFenceAr (sm : Bool) (sc : Scope) (s : State) : Out :=
  acting s fun u g => let r := fenceBoth s u g sc; fin r.1 u sm 4 r.2
/-- `fence.sc` (R229, R231): earlier writes too come before later reads; it also acquires what every earlier `fence.sc` at a scope it shares
published, and publishes in turn. -/
def execFenceSc (sm : Bool) (sc : Scope) (s : State) : Out :=
  acting s fun u g =>
    let s1 := storesDone s u sc
    let g1 := { g with ldTime := g.ldTime.sup (.upTo sc (storeTime s1 u g sc)) }
    let s2 := acquire (fenceAcquire s1 u g1 sc) u g1 sc s.fenceLog
    let p := publish s2 g1 sc (visIds s2 (agent u 0))
    fin { s2 with fenceLog := p :: s2.fenceLog } u sm 4 (fenceRelease s2 u g1 sc)

/-! ### Engine paths -/

/-- Bit p of a path set names path p (R223). -/
def pathsOf (m : Nat) : List Nat := (List.range 6).filter (bit m)
/-- The writes that a from-path carries (R236): of LS those its group sees, of another path those of operations seen complete. -/
def pathWrites (s : State) (u : Nat) (g : Group) (p : Nat) : List Vis :=
  if p = 0 then visIds s (agent u 0)
  else if p = 5 then []
  else (s.log.filter fun e => g.seen.contains (e.id, none) && e.agent % 8 == p).map fun e => (e.id, none)
/-- What a reader has read, another agent's later reads do not go behind (R236: no later operation of a to-path reads before them). -/
def shareReads (s : State) (r a : Nat) : State :=
  { s with log := s.log.map fun e => { e with readAt := (e.readAt.filterMap fun x => if reader x.1 == r then some (a, x.2) else none) ++ e.readAt } }
/-- The writes of a list that engines made count as LS writes of a group from now on (R236). -/
def countAsLs (s : State) (u : Nat) (ids : List Vis) : State :=
  { s with log := s.log.map fun e => if ids.contains (e.id, none) && e.agent % 8 != 0 && !e.ls.contains u then { e with ls := u :: e.ls } else e }
/-- `pfence` (R236, R237): the to-paths see the writes of the from-paths, which to LS count as its own, and to IF have pinned lines fetched again; in
deterministic mode a later command also sees what the block has buffered (R337). -/
def execPfence (sm : Bool) (sc : Scope) (frm dst : Nat) (s : State) : Out :=
  acting s fun u g =>
    let ls := bit frm 0 && dst != 0
    let s0 := if ls then storesDone s u sc else s
    let ids := (pathsOf frm).foldl (fun l p => union l (pathWrites s0 u g p)) []
    let s1 := (pathsOf dst).foldl (fun t q => markSeen (if ls then shareReads t (agent u 0) (agent u q) else t) (agent u q) ids) s0
    let snap := if ls then (pathsOf dst).foldl (fun m q => mset m q (ownBuf s g)) g.pfSnap else g.pfSnap
    let s2 := if bit dst 0 then countAsLs s1 u ((pathsOf (frm / 2 * 2)).foldl (fun l p => union l (pathWrites s0 u g p)) []) else s1
    fin (if bit dst 5 && frm != 0 then refetchPins s2 u g else s2) u sm 4 { g with pfSnap := if detOf s g then snap else g.pfSnap }
/-- `ifence` (R240): the group's fetches see what its LS path sees, and the writes of the commands whose tokens it has reached; pinned lines that
hold such bytes are fetched again. -/
def execIfence (sm : Bool) (s : State) : Out :=
  acting s fun u g =>
    let s1 := performStores s u
    fin (refetchPins (markSeen s1 (agent u 5) (union (visIds s1 (agent u 0)) g.waited)) u g) u sm 4 g

/-! ### Entry consistency -/

/-- The byte of an entry at a location is bound to an object (R227, R232): by the virtual address that the write used (log entry 10). -/
def boundByte (s : State) (c obj : Nat) (e : LogEntry) (b : Nat) : Bool :=
  e.ctx == c && match e.va with
    | some v => (ctxOf s c).binds.any fun x => x.1 == obj && decide (x.2.1 ≤ v + (b - e.loc)) && decide (v + (b - e.loc) < x.2.1 + x.2.2)
    | none => false
/-- The bytes of an entry. -/
def LogEntry.bytes (e : LogEntry) : List Nat := (List.range e.old.length).map (e.loc + ·)
/-- The bytes bound to an object of the writes that pass a test. -/
def boundIds (s : State) (c obj : Nat) (p : LogEntry → Nat → Bool) : List Vis :=
  s.log.flatMap fun e => (e.bytes.filter fun b => boundByte s c obj e b && p e b).map fun b => (e.id, some b)
/-- An object's address checked (R235): aligned, virtual, and its access goes through. -/
def objPlace (s : State) (g : Group) (a : Nat) : Except AccErr Nat :=
  if a % 8 != 0 then .error (.cause 0x04)
  else if 2 ^ 52 ≤ a then .error (.cause 0x06)
  else uPlace s g a 8 0
/-- `rel` of an object (R235): the writes to its bound bytes that the group sees are released to it, and those of the group have performed, each
single-copy unit whole (R225).
The entry names the object by its virtual address. -/
def relObj (s : State) (u : Nat) (g : Group) (obj : Nat) : State :=
  let ids := boundIds s g.ctx obj fun e b => e.seenAtByte (agent u 0) b
  { s with
    bound := { scope := .dev, blk := obj, clu := 0, ctx := g.ctx, ids := ids, eng := false } :: s.bound
    log := (performWhere s u fun e => e.bytes.any fun b => boundByte s g.ctx obj e b).log
    nextUid := s.nextUid + 1 }
/-- `acq` of an object (R235): what every earlier `rel` of it released becomes visible to the group, and what has performed to its bytes. -/
def acqObj (s : State) (u : Nat) (g : Group) (obj : Nat) : State :=
  let rel := (s.bound.filter fun p => p.blk == obj && p.ctx == g.ctx).flatMap (·.ids)
  let done := boundIds s g.ctx obj fun e _ => match e.perf with | some d => decide (d < s.nextUid) | none => false
  markSeen s (agent u 0) (rel ++ done)
/-- A group after a strong access that reads no value: its later strong loads perform after it (R228). -/
def passStrong (s : State) (g : Group) : Group := { g with ldTime := g.ldTime.sup (.upTo .dev s.nextUid) }
/-- An object word: its checks, then its effect. In deterministic mode it is a coin access (R241, R342). -/
def objWord (s : State) (named : List Nat) (xa : Nat) (f : Nat → Group → Nat → Nat → State) : Out :=
  word s named fun u g =>
    let a := uniPair s g xa
    match objPlace s g a with
    | .error e => accFail s u g e
    | .ok loc => if coinOk s g loc then f u g a loc else raise s u g 0x14
/-- `acq` (R235). -/
def execAcq (sm : Bool) (xa : Nat) (s : State) : Out :=
  objWord s [xa, xa + 1] xa fun u g a loc =>
    fin (acqObj (noteAccess s g a loc) u g a) u sm 4 (passStrong s g)
/-- `rel` (R235). -/
def execRel (sm : Bool) (xa : Nat) (s : State) : Out :=
  objWord s [xa, xa + 1] xa fun u g a loc => fin (relObj (noteAccess s g a loc) u g a) u sm 4 (passStrong s g)
/-- The status that `bind` gives (R233). -/
def bindStatus (t : List (Nat × Nat × Nat)) (obj base len : Nat) : Nat :=
  let meets (a n b m : Nat) : Bool := decide (a < b + m) && decide (b < a + n)
  if len = 0 || decide (2 ^ 52 < base + len) then 3
  else if t.contains (obj, base, len) then 0
  else if meets obj 8 base len || t.any fun e => meets e.1 8 base len || meets obj 8 e.2.1 e.2.2 || (e.1 != obj && meets e.2.1 e.2.2 base len) then 2
  else if 4096 ≤ t.length then 1
  else 0
/-- The binding table of a context changed. -/
def withBinds (s : State) (c : Nat) (f : List (Nat × Nat × Nat) → List (Nat × Nat × Nat)) : State := modCtx s c fun x => { x with binds := f x.binds }
/-- `bind` (R233): a fence, the change, a fence. It makes no access of O, but counts as one for the coin (R342). -/
def execBind (sm : Bool) (xd xa xb : Nat) (s : State) : Out :=
  word s [xd, xa, xa + 1, xb, xb + 1, xb + 2] fun u g =>
    let obj := uniPair s g xa
    let base := uniPair s g xb
    let len := (uni s g (xb + 2)).toNat
    if obj % 8 != 0 then raise s u g 0x04
    else if 2 ^ 52 ≤ obj || 2 ^ 52 ≤ base then raise s u g 0x06
    else if detOf s g && !holdsCoin s g then raise s u g 0x14
    else
      let st := bindStatus (ctxOf s g.ctx).binds obj base len
      let r := fenceBoth s u g .dev
      let s1 := if st = 0 && !(ctxOf s g.ctx).binds.contains (obj, base, len) then withBinds r.1 g.ctx fun t => t ++ [(obj, base, len)] else r.1
      let r2 := fenceBoth s1 u r.2 .dev
      fin r2.1 u sm 4 (writeU s r2.2 xd (BitVec.ofNat 32 st))
/-- `unbind` (R234): `rel` of the object, then the entry goes. -/
def execUnbind (sm : Bool) (xd xa xb : Nat) (s : State) : Out :=
  word s [xd, xa, xa + 1, xb, xb + 1] fun u g =>
    let obj := uniPair s g xa
    let base := uniPair s g xb
    if obj % 8 != 0 then raise s u g 0x04
    else if 2 ^ 52 ≤ obj || 2 ^ 52 ≤ base then raise s u g 0x06
    else match objPlace s g obj with
      | .error e => accFail s u g e
      | .ok loc =>
        if !coinOk s g loc then raise s u g 0x14
        else
          let hit := (ctxOf s g.ctx).binds.any fun e => e.1 == obj && e.2.1 == base
          let s1 := relObj (noteAccess s g obj loc) u g obj
          let s2 := withBinds s1 g.ctx fun t => t.filter fun e => !(e.1 == obj && e.2.1 == base)
          fin s2 u sm 4 (writeU s (passStrong s g) xd (if hit then 1 else 0))

end Sys2Proof.Machine
end

