-- ==== Sys2Proof/Machine/Escrow.lean ====
section
/-!
DEFINITION. Reward escrow and the discount unit (R347-R364).
-/
namespace Sys2Proof.Machine

/-! ### Homes and counters -/

/-- A memory die takes no escrow (R347, R364): lost, offline, evacuating, or left without its slice by a deferred offlining. -/
def sliceDown (s : State) (m : Nat) : Bool :=
  let d := memDie m
  s.lostDies.contains d || s.offDies.contains d || s.degraded.contains d || (evacuating s && s.offCtl.toNat % 512 == d)
/-- The first memory die from m on, in at most n tries, that takes escrow (R347). -/
def nextSlice (s : State) : Nat → Nat → Nat
  | 0, m => m
  | n + 1, m => if sliceDown s m then nextSlice s n ((m + 1) % 192) else m
/-- The home of a key (R347). -/
def homeOf (s : State) (key : Nat) : Nat :=
  let x : Word := BitVec.ofNat 32 (key % 2 ^ 32) ^^^ BitVec.ofNat 32 (key / 2 ^ 32)
  let y := x * 0x9E3779B9
  nextSlice s 192 (y.toNat / 2 ^ 16 % 192)
/-- The counters (R361), by place in the counter block. -/
def cSTALE : Nat := 0
def cORPHAN : Nat := 1
def cDUP : Nat := 2
def cCONFLICT : Nat := 3
def cTODROP : Nat := 4
def cTOFILL : Nat := 5
def cSTRAY : Nat := 6
def cPOSTBAD : Nat := 7
def cRELEASED : Nat := 8
/-- A counter of a context raised by n, saturating (R361). -/
def count (s : State) (c i n : Nat) : State :=
  modCtx s c fun x => { x with counters := mset x.counters i (min 0xFFFFFFFF (mgetD x.counters i 0 + n)) }

/-! ### Episodes -/

/-- The episode of a key in a context at a slice. -/
def findEpisode (s : State) (m c key : Nat) : Option Episode := (sliceOf s m).episodes.find? fun e => e.ctx == c && e.key == key
/-- The episode of a key changed. -/
def modEpisode (s : State) (m c key : Nat) (f : Episode → Episode) : State :=
  modSlice s m fun x => { x with episodes := x.episodes.map fun e => if e.ctx == c && e.key == key then f e else e }
/-- The episode of a key gone: its slot and steps return (R359). -/
def dropEpisode (s : State) (m c key : Nat) : State :=
  modSlice s m fun x => { x with episodes := x.episodes.filter fun e => !(e.ctx == c && e.key == key) }
/-- The steps that an episode holds of its quota (R352). -/
def Episode.reserved (e : Episode) : Nat := match e.closed with | some (t, _) => t | none => e.cap
/-- The steps held by some episodes. -/
def heldSteps (l : List Episode) : Nat := (l.map Episode.reserved).foldl (· + ·) 0
/-- No room for one more episode of C steps (R348). -/
def noRoom (s : State) (m c cap : Nat) : Bool :=
  let all := (sliceOf s m).episodes
  let own := all.filter fun e => e.ctx == c
  decide (65536 ≤ all.length) || decide ((ctxOf s c).epq ≤ own.length) || decide ((ctxOf s c).stq < heldSteps own + cap)
    || decide (16777216 < heldSteps all + cap)
/-- A closed episode whose T rewards are all joined (R356). -/
def Episode.full (e : Episode) : Bool :=
  match e.closed with | some (t, _) => (List.range t).all fun i => (mget e.rewards i).isSome | none => false
/-- Outside deterministic mode an episode that is full is complete from then on (R356, R358). -/
def settleEpisode (s : State) (m c key : Nat) : State :=
  if (ctxOf s c).det then s
  else match findEpisode s m c key with
    | some e =>
      if e.full && e.done.isNone then modEpisode { s with nextUid := s.nextUid + 1 } m c key fun e => { e with done := some s.nextUid } else s
    | none => s
/-- A reward joined to an episode (R354): the first one wins; in deterministic mode a different one marks a conflict. -/
def joinReward (s : State) (m c key t : Nat) (r : Word) : State :=
  match findEpisode s m c key with
  | none => s
  | some e =>
    match mget e.rewards t with
    | none => modEpisode s m c key fun e => { e with rewards := mset e.rewards t r }
    | some q => if (ctxOf s c).det && q != r then modEpisode s m c key fun e => { e with conflict := true } else count s c cDUP 1
/-- A reward reaches its home (R354, R355). -/
def applyReward (s : State) (c key t : Nat) (r : Word) : State :=
  let m := homeOf s key
  let s := touchDie s c (memDie m)
  match findEpisode s m c key with
  | none =>
    if (ctxOf s c).esc.ohold = 0 || 1024 ≤ (sliceOf s m).orphans.length then count s c cORPHAN 1
    else modSlice s m fun x => { x with orphans := x.orphans ++ [{ ctx := c, key := key, t := t, r := r, age := 0 }] }
  | some e =>
    let lim := match e.closed with | some (n, _) => n | none => e.cap
    if lim ≤ t then count s c cSTRAY 1 else settleEpisode (joinReward s m c key t r) m c key
/-- A new episode (R352), and the orphans of its key joined. -/
def openEpisode (s : State) (m c key cap : Nat) (ver : Word) : State :=
  let e : Episode :=
    { ctx := c, key := key, cap := cap, ver := ver, cfg := (ctxOf s c).esc, steps := [], closed := none, rewards := [], conflict := false, filled := false, age := 0, done := none, results := none }
  let mine := (sliceOf s m).orphans.filter fun o => o.ctx == c && o.key == key
  let s1 := modSlice s m fun x => { x with episodes := x.episodes ++ [e], orphans := x.orphans.filter fun o => !(o.ctx == c && o.key == key) }
  mine.foldl (fun s o => if o.t < cap then joinReward s m c key o.t o.r else count s c cSTRAY 1) s1
/-- The status of `epopen` (R351). -/
def openStatus (s : State) (m c key cap : Nat) : Nat :=
  if noRoom s m c cap then 1
  else if (findEpisode s m c key).isSome then 2
  else if cap = 0 || 65535 < cap then 4
  else 0
/-- The status of `epstep`. -/
def stepStatus (s : State) (m c key t : Nat) : Nat :=
  match findEpisode s m c key with
  | none => 3
  | some e => if e.cap ≤ t then 4 else if e.closed.isSome then 5 else if (mget e.steps t).isSome then 6 else 0
/-- The status of `epclose`. -/
def closeStatus (s : State) (m c key t : Nat) : Nat :=
  match findEpisode s m c key with
  | none => 3
  | some e =>
    if t = 0 || min e.cap (ctxOf s c).lqcap < t then 4
    else if e.closed.isSome then 5
    else if (List.range t).all fun i => (mget e.steps i).isSome then 0
    else 7
/-- An episode closed at length t (R352). -/
def closeEpisode (s : State) (m c key t : Nat) (boot : Word) : State :=
  let stray := match findEpisode s m c key with | some e => (e.rewards.filter fun p => decide (t ≤ p.1)).length | none => 0
  let s1 := modEpisode s m c key fun e =>
    { e with closed := some (t, boot), age := 0, steps := e.steps.filter fun p => decide (p.1 < t), rewards := e.rewards.filter fun p => decide (p.1 < t) }
  settleEpisode (if stray = 0 then s1 else count s1 c cSTRAY stray) m c key

/-! ### Posts (R351, R362) -/

/-- A post leaves: its outstanding entry falls (R351, R64). -/
def postGone (s : State) (id : Nat) (p : Post) : State :=
  let s1 := { s with posts := mdel s.posts id }
  if p.grid = 0 then s1 else bumpOut s1 p.grid p.core false
/-- A post applied at its key's home; a post to a context that is gone is discarded (R310). -/
def applyPost (s : State) (id : Nat) (p : Post) : State :=
  let s1 := postGone s id p
  if (ctxOf s p.ctx).cst = 0 then s1 else applyReward s1 p.ctx p.key p.t p.r
/-- The earlier posts of a source that go to a slice, in issue order. -/
def earlierPosts (s : State) (src m : Nat) (below : Nat) : List (Nat × Post) :=
  s.posts.filter fun e => e.2.src == src && decide (e.1 < below) && homeOf s e.2.key == m
/-- The slice to which an escrow word goes: the home of its key, or the learner-queue slice (R347, R350). -/
def EscWord.home (s : State) (c : Nat) (w : EscWord) : Nat :=
  match w.kind with
  | .epopen | .epstep | .epclose => homeOf s (prmP w.prm 0)
  | .escfg | .lqpop => (ctxOf s c).esc.lqhome
/-- A group has an earlier escrow word on the way to a slice (R350). -/
def earlierWords (s : State) (u m below : Nat) : Bool :=
  match mget s.groups u with
  | some g => g.words.any fun w => decide (w.1 < below) && w.2.home s g.ctx == m
  | none => false
/-- REWARD_APPLY (R350, R354): a post whose source has nothing earlier on the way to the same slice is applied. -/
def rewardApply (s : State) (id : Nat) : Option State :=
  match mget s.posts id with
  | some p =>
    let m := homeOf s p.key
    if (ctxOf s p.ctx).det || !(earlierPosts s p.src m id).isEmpty || (p.src % 2 == 0 && earlierWords s (p.src / 2) m id) then none
    else some (applyPost s id p)
  | none => none
/-- REWARD_APPLY (R354). -/
def execRewardApply (post : Nat) (s : State) : Out := .next ((rewardApply s post).getD s)
/-- A post of 16 bytes is malformed: a nonzero zero field, or no live context (R362); a killed context is not live (R221, R222). -/
def badPost (s : State) (v : Nat) : Bool :=
  fld v 95 94 != 0 || fld v 87 80 != 0 || (ctxOf s (fld v 93 88)).cst == 0 || (ctxOf s (fld v 93 88)).cst == 3
/-- A post of 16 bytes enters the panel from a link (R362). -/
def takePost (s : State) (src v : Nat) : State :=
  let c := fld v 93 88
  if badPost s v then (if (ctxOf s c).cst = 0 then s else count s c cPOSTBAD 1)
  else
    let f := fresh s
    { f.2 with posts := f.2.posts ++ [(f.1, { ctx := c, key := fld v 63 0, t := fld v 79 64, r := BitVec.ofNat 32 (fld v 127 96), src := src, grid := 0, core := 0, writer := 0 })] }
/-- ESC_POST (R362): a host write of 16 bytes posts a reward; any other size is malformed. Which of the two host links carries it is open:
only the posts of one link keep their order (R21). -/
def escPost (s : State) (size v : Nat) : State :=
  let c := fld v 93 88
  if size = 16 then takePost s (2 * (Config.racePick s.free 0 % 2) + 1) v else if (ctxOf s c).cst = 0 then s else count s c cPOSTBAD 1
/-- ESC_POST (R362). -/
def execEscPost (size v : Nat) (s : State) : Out := hostReg s fun s => escPost s size v

/-! ### The escrow words (R349-R353) -/

/-- `rwpost` (R351, R354): the post is accepted for delivery and counts as outstanding. -/
def execRwpost (sm : Bool) (xd xa : Nat) (s : State) : Out :=
  word s (xd :: (List.range 4).map (xa + ·)) fun u g =>
    if (ctxOf s g.ctx).epq = 0 then raise s u g 0x0E
    else
      let p := blockOf s g xa 4
      let f := fresh s
      let q : Post := { ctx := g.ctx, key := prmP p 0, t := prmW p 2, r := p.getD 3 0, src := 2 * u, grid := g.grid, core := coreOfGroup s g, writer := threadIdx s g 0 }
      fin (bumpOut { f.2 with posts := f.2.posts ++ [(f.1, q)] } g.grid (coreOfGroup s g) true) u sm 4 (writeU s g xd 0)
/-- An FP32 value lies in [0, 1] (R353). -/
def unitInterval (w : Word) : Bool :=
  match fp32.decode w.toNat with
  | .nan => false
  | .inf _ => false
  | .fin sg m _ => (m == 0) || (!sg && decide (w.toNat ≤ 0x3F800000))
/-- The status of `escfg` (R351, R353). -/
def cfgStatus (s : State) (c : Nat) (p : List Word) : Nat :=
  let nan (w : Word) : Bool := fp32.decode w.toNat == .nan
  let m := prmW p 7
  if !unitInterval (p.getD 0 0) || !unitInterval (p.getD 1 0) || nan (p.getD 6 0) || decide (192 ≤ m)
      || s.lostDies.contains (memDie m) || s.offDies.contains (memDie m) || prmW p 5 / 2 != 0 then 8
  else if m != (ctxOf s c).esc.lqhome && !(ctxOf s c).queue.isEmpty then 9
  else 0
/-- The configuration that an `escfg` sets (R353). -/
def setConfig (s : State) (c : Nat) (p : List Word) : State :=
  let gl : Word := BitVec.ofNat 32 (fMul fp32 .rne 0 32 (prmW p 0) (prmW p 1))
  modCtx (touchDie s c (memDie (prmW p 7))) c fun x => { x with esc := { gamma := p.getD 0 0, lambda := p.getD 1 0, gl := gl, minver := p.getD 2 0, ohold := p.getD 3 0, tout := p.getD 4 0, policy := p.getD 5 0, defr := p.getD 6 0, lqhome := prmW p 7 } }
/-- The status of an escrow word at its slice m (R351). -/
def escStatus (s : State) (m c : Nat) (w : EscWord) : Nat :=
  match w.kind with
  | .epopen => openStatus s m c (prmP w.prm 0) (prmW w.prm 2)
  | .epstep => stepStatus s m c (prmP w.prm 0) (prmW w.prm 2)
  | .epclose => closeStatus s m c (prmP w.prm 0) (prmW w.prm 2)
  | .escfg => cfgStatus s c w.prm
  | .lqpop => 0
/-- What an escrow word does at its slice m when its status is 0 (R352, R353). -/
def escEffect (s : State) (m c : Nat) (w : EscWord) : State :=
  let p := w.prm
  match w.kind with
  | .epopen => openEpisode s m c (prmP p 0) (prmW p 2) (p.getD 3 0)
  | .epstep => modEpisode s m c (prmP p 0) fun e => { e with steps := mset e.steps (prmW p 2) (p.getD 3 0, p.getD 4 0, p.getD 5 0) }
  | .epclose => closeEpisode s m c (prmP p 0) (prmW p 2) (p.getD 3 0)
  | .escfg => setConfig s c p
  | .lqpop => s
/-- The slice of an escrow word applies it: the state after it and the status for xd (R350, R351). -/
def escApply (s : State) (c : Nat) (w : EscWord) : State × Word :=
  let m := w.home s c
  let s1 := touchDie s c (memDie m)
  let st := escStatus s1 m c w
  (if st = 0 then escEffect s1 m c w else s1, BitVec.ofNat 32 st)
/-- An escrow word is on its way to its slice (R350); the group goes on, a deterministic one once the result is written: it holds its turn (R344, R345). -/
def sendWord (sm : Bool) (s : State) (u : Nat) (g : Group) (w : EscWord) : State :=
  let f := fresh s
  fin f.2 u (sm || detOf s g) 4 { g with words := g.words ++ [(f.1, w)] }
/-- An escrow word but `lqpop` (R349-R353): its block, its causes (R110, R350, R363). It goes to its slice, which applies it as it arrives there; a
deterministic group, which holds the coin, gets its result at once (R363). That application and result are one step is log entry 56. -/
def escWord (sm : Bool) (kind : EscKind) (n xd xa : Nat) (s : State) : Out :=
  word s (xd :: (List.range n).map (xa + ·)) fun u g =>
    if (ctxOf s g.ctx).epq = 0 then raise s u g 0x0E
    else if detOf s g && !holdsCoin s g then raise s u g 0x14
    else
      let w : EscWord := { kind := kind, prm := blockOf s g xa n, xd := xd, chosen := [] }
      if detOf s g then let r := escApply s g.ctx w; fin r.1 u sm 4 (writeU s g xd r.2) else sendWord sm s u g w
/-- `epopen` (R352). -/
def execEpopen (sm : Bool) (xd xa : Nat) (s : State) : Out := escWord sm .epopen 4 xd xa s
/-- `epstep` (R352). -/
def execEpstep (sm : Bool) (xd xa : Nat) (s : State) : Out := escWord sm .epstep 6 xd xa s
/-- `epclose` (R352). -/
def execEpclose (sm : Bool) (xd xa : Nat) (s : State) : Out := escWord sm .epclose 4 xd xa s
/-- `escfg` (R353). -/
def execEscfg (sm : Bool) (xd xa : Nat) (s : State) : Out := escWord sm .escfg 8 xd xa s

/-! ### `lqpop` (R360, R361) -/

/-- The counter block (R361); deterministic contexts read the counters of the last round close (R363). -/
def counterBlock (s : State) (c : Nat) : List Byte :=
  let m := if (ctxOf s c).det then (ctxOf s c).ctrClosed else (ctxOf s c).counters
  (List.range 9).flatMap (fun i => leBytes 4 (mgetD m i 0)) ++ List.replicate 28 0
/-- The 4-byte units of n bytes from a checked destination. -/
def popUnits (s : State) (g : Group) (r : Rng) (n : Nat) : Except EngErr (List EngUnit) :=
  match r with
  | .virt _ | .loc _ _ => rngUnits s g.ctx r 0 n 1
  | .bad => .ok []
/-- The lower of two faults; of equal ones the first. -/
def lowerFault (a b : Option EngErr) : Option EngErr :=
  match a, b with
  | some x, some y => if y.1 < x.1 then b else a
  | none, y => y
  | x, none => x
/-- The lowest fault that a write of each 64 KiB page of n bytes from a virtual destination meets as a way of resolving finds it (R110, R218). -/
def pageFault (f : Nat → Except Nat Nat) (r : Rng) (n : Nat) : Option EngErr :=
  match r with
  | .virt va =>
    (List.range ((va + n - 1) / 65536 - va / 65536 + 1)).foldl (fun m i =>
      let a := max va ((va / 65536 + i) * 65536)
      lowerFault m (match f a with | .ok _ => none | .error c => some (c, some a))) none
  | .loc _ _ | .bad => none
/-- The lowest fault that the destination pages meet as the word issues, and again as its slice resolves them (R360). -/
def destFault (s : State) (g : Group) (r : Rng) (n : Nat) : Option EngErr :=
  lowerFault (pageFault (fun a => resolve s g.ctx a 1) r n) (match popUnits s g r n with | .ok _ => none | .error e => some e)
/-- ES writes of 4-byte units (R223, R225); the numbers of the writes. -/
def esWrites (u : Nat) (g : Group) : List EngUnit → List Byte → State → List Vis → State × List Vis
  | [], _, s, ids => (s, ids)
  | q :: us, bs, s, ids =>
    esWrites u g us (bs.drop q.len) (putUnit s (agent u 4) g.ctx q.loc q.va (bs.take q.len) false []) ((s.nextUid, none) :: ids)
/-- The group after its `lqpop` result: seen complete once the result has settled (R360). -/
def popGroup (s : State) (g : Group) (xd v : Nat) (ids : List Vis) : Group :=
  let h := writeU s g xd (BitVec.ofNat 32 v)
  if ids.isEmpty then h
  else if loose s g && xd != 0 then { h with compl := h.compl ++ [(escToken, ids)] } else { h with seen := union h.seen ids }
/-- What `lqpop` takes (R360, R361): how many records, and the bytes it writes. -/
def popTake (s : State) (c n : Nat) : Nat × List Byte :=
  let q := (ctxOf s c).queue
  let k := if n = 0 then 0 else min (min n 256) q.length
  (k, if n = 0 then counterBlock s c else (q.take k).flatMap asBytes)
/-- The bytes of an `lqpop`'s destination by its count n (R360). -/
def popLen (n : Nat) : Nat := if n = 0 then 64 else 32 * min n 256
/-- The destination of an `lqpop`, by the allocations chosen at issue (R202). -/
def EscWord.dest (w : EscWord) : Rng :=
  match place (prmP w.prm 0) with
  | .virt va => .virt va
  | .clus c off => (match mget w.chosen c with | some t => .loc t off | none => .bad)
  | .bad => .bad
/-- The units that the records of an `lqpop` fill, and what it takes: the queue is shorter by as much (R360). -/
def popParts (s : State) (g : Group) (w : EscWord) : State × List EngUnit × Nat × List Byte :=
  let n := prmW w.prm 2
  let r := popTake s g.ctx n
  let us := match popUnits s g w.dest (popLen n) with | .ok us => us | .error _ => []
  (modCtx s g.ctx fun x => { x with queue := x.queue.drop r.1 }, us.take (r.2.length / 4), r.1, r.2)
/-- Where the taken bytes go: those of a deterministic group for global memory into its block's round buffer, as plain stores of lane 0, if it has
room for them; the others are ES writes (R336, R360, R363). The state after them, and the numbers of the ES writes. -/
def popStore (s : State) (u : Nat) (g : Group) (us : List EngUnit) (bs : List Byte) : Except Nat (State × List Vis) :=
  if detOf s g && us.any fun q => isPhys q.loc then
    match bufAdd s g.block (((us.flatMap fun q => (List.range q.len).map (q.loc + ·)).zip bs).map fun p => ⟨p.1, p.2, threadIdx s g 0⟩) with
    | .ok s1 => .ok (s1, [])
    | .error c => .error c
  else .ok (esWrites u g us bs s [])
/-- An `lqpop` whose slice took nothing: xd receives 0, and the group takes an engine cause with `stok` 0 (R250, R360). -/
def popFail (s : State) (g : Group) (w : EscWord) (e : EngErr) : State × Group :=
  (match e.2 with | some va => touchVa s g.ctx va | none => s,
   { writeU s g w.xd 0 with causes := g.causes ++ [{ cause := e.1, token := 0, va := e.2, write := true, cmd := none }] })
/-- The slice takes the records of an `lqpop`, or the counters, and writes them; or a page is gone by now and nothing is taken (R360). The state, and
the group with its result. A round buffer that lost its room after issue, which takes another grid's close, is handled as such a page (log 56). -/
def popApply (s : State) (u : Nat) (g : Group) (w : EscWord) : State × Group :=
  let s0 := touchDie s g.ctx (memDie (w.home s g.ctx))
  match destFault s0 g w.dest (popLen (prmW w.prm 2)) with
  | some e => popFail s0 g w e
  | none =>
    let r := popParts s0 g w
    match popStore r.1 u g r.2.1 r.2.2.2 with
    | .error c => popFail s0 g w (c, none)
    | .ok q => (touchUnits q.1 g.ctx r.2.1, popGroup s0 g w.xd r.2.2.1 q.2)
/-- The cause of an `lqpop` whose round buffer has no room as it issues for what it would take (R336, R363). -/
def popRoom (s : State) (u : Nat) (g : Group) (w : EscWord) : Option Nat :=
  let r := popParts s g w
  match popStore r.1 u g r.2.1 r.2.2.2 with | .error c => some c | .ok _ => none
/-- `lqpop` (R360, R363): its checks; then it goes to the slice, also in a deterministic context. -/
def execLqpop (sm : Bool) (xd xa : Nat) (s : State) : Out :=
  word s [xd, xa, xa + 1, xa + 2] fun u g =>
    let p := blockOf s g xa 3
    let dst := prmP p 0
    let w : EscWord := { kind := .lqpop, prm := p, xd := xd, chosen := chosenOf s g.block [dst] }
    let r := rangeOf s g.block dst (popLen (prmW p 2))
    let pre := lowest [causeIf (dst % 8 != 0) 0x04, rangeCause r, causeIf ((ctxOf s g.ctx).epq == 0) 0x0E, causeIf (detOf s g && !holdsCoin s g) 0x14]
    match lowerFault (pre.map fun c => (c, none)) (if (rangeCause r).isSome then none else destFault s g w.dest (popLen (prmW p 2))) with
    | some (c, some va) => raiseAccess (touchVa s g.ctx va) u g c va 1
    | some (c, none) => raise s u g c
    | none => match popRoom s u g w with | some c => raise s u g c | none => sendWord sm s u g w

/-! ### Arrival at a slice (R350) -/

/-- The escrow words of a group that may reach their slices next: none of its words or posts is ahead on the way to the same slice (R350). -/
def wordsNext (s : State) (u : Nat) (g : Group) : List (Nat × EscWord) :=
  g.words.filter fun w =>
    let m := w.2.home s g.ctx
    !earlierWords s u m w.1 && (earlierPosts s (2 * u) m w.1).isEmpty
/-- An escrow word reaches its slice, which applies it, and its result is written (R350). What an `lqpop` writes may wake the group itself (R154). -/
def wordArrive (s : State) (u : Nat) (g0 : Group) (id : Nat) (w : EscWord) : State :=
  let g := { g0 with words := mdel g0.words id }
  match w.kind with
  | .lqpop => let r := popApply s u g w; setGroup r.1 u { r.2 with park := (mget r.1.groups u).bind (·.park) }
  | .epopen | .epstep | .epclose | .escfg => let r := escApply s g.ctx w; setGroup r.1 u (writeU s g w.xd r.2)

/-! ### Expiry and time-outs (R355, R356) -/

/-- ORPHAN_EXPIRE (R355): an orphan held OHOLD cycles is dropped and counted. Deterministic contexts count closes instead (R363). -/
def orphanExpire (s : State) (m c key t : Nat) : Option State :=
  let hit (o : Orphan) : Bool := o.ctx == c && o.key == key && o.t == t
  if (ctxOf s c).det then none
  else match (sliceOf s m).orphans.findIdx? hit with
    | some i => some (count (modSlice s m fun x => { x with orphans := x.orphans.eraseIdx i }) c cORPHAN 1)
    | none => none
/-- ORPHAN_EXPIRE (R355). -/
def execOrphanExpire (slice c key t : Nat) (s : State) : Out := .next ((orphanExpire s slice c key t).getD s)
/-- An episode timed out (R356): dropped, or filled with DEFR. -/
def timeOut (s : State) (m : Nat) (e : Episode) : State :=
  if e.cfg.policy.getLsbD 0 then
    let n := match e.closed with | some (t, _) => t | none => 0
    let rs := (List.range n).map fun i => (i, (mget e.rewards i).getD e.cfg.defr)
    settleEpisode (count (modEpisode s m e.ctx e.key fun e => { e with rewards := rs, filled := true }) e.ctx cTOFILL 1) m e.ctx e.key
  else count (dropEpisode s m e.ctx e.key) e.ctx cTODROP 1
/-- An episode whose time-out can fall: closed, incomplete, with a TOUT. -/
def Episode.waitsTout (e : Episode) : Bool := e.closed.isSome && !e.full && e.cfg.tout != 0
/-- EPISODE_TIMEOUT (R356). -/
def episodeTimeout (s : State) (m c key : Nat) : Option State :=
  match findEpisode s m c key with
  | some e => if !(ctxOf s c).det && e.waitsTout then some (timeOut s m e) else none
  | none => none
/-- EPISODE_TIMEOUT (R356). -/
def execEpisodeTimeout (slice c key : Nat) (s : State) : Out := .next ((episodeTimeout s slice c key).getD s)

/-! ### The discount unit and release (R358, R359) -/

/-- The results of an episode from step t − 1 down (R358): `vnext` is V[t], `a` is A[t]. -/
def discount (cfg : EscrowCfg) (steps : AMap (Word × Word × Word)) (rewards : AMap Word) : Nat → Word → Word → List (Word × Word) → List (Word × Word)
  | 0, _, _, acc => acc
  | t + 1, vnext, a, acc =>
    let v : Word := match mget steps t with | some q => q.1 | none => 0
    let r : Word := mgetD rewards t 0
    let d0 := fMa fp32 .rne 0 32 cfg.gamma.toNat vnext.toNat r.toNat
    let d := fSub fp32 .rne 0 32 d0 v.toNat
    let a1 := fMa fp32 .rne 0 32 cfg.gl.toNat a.toNat d
    let ret := fAdd fp32 .rne 0 32 a1 v.toNat
    discount cfg steps rewards t v (BitVec.ofNat 32 a1) ((BitVec.ofNat 32 a1, BitVec.ofNat 32 ret) :: acc)
/-- The results of a complete episode (R358). -/
def Episode.compute (e : Episode) : List (Word × Word) :=
  match e.closed with | some (t, boot) => discount e.cfg e.steps e.rewards t boot 0 [] | none => []
/-- The earliest complete episode that a test picks: by completion, then by key (R358). -/
def earliestDone (l : List Episode) (p : Episode → Bool) : Option Episode :=
  (l.filter fun e => e.done.isSome && p e).foldl (fun (m : Option Episode) e =>
    match m with
    | some x => if e.done.getD 0 < x.done.getD 0 || (e.done == x.done && decide (e.key < x.key)) then some e else m
    | none => some e) none
/-- DISCOUNT_EPISODE (R358): the slice's discount unit computes the next complete episode. -/
def discountEpisode (s : State) (m : Nat) : Option State :=
  match earliestDone (sliceOf s m).episodes fun e => e.results.isNone && !(ctxOf s e.ctx).det with
  | some e => some (modEpisode s m e.ctx e.key fun e => { e with results := some e.compute })
  | none => none
/-- DISCOUNT_EPISODE (R358). -/
def execDiscountEpisode (slice : Nat) (s : State) : Out := .next ((discountEpisode s slice).getD s)
/-- The records of an episode (R359). -/
def Episode.records (e : Episode) : List (List Nat) :=
  let rs := e.results.getD e.compute
  (List.range rs.length).map fun t =>
    let q := mgetD e.steps t (0, 0, 0)
    let r := rs.getD t (0, 0)
    ((leBytes 8 e.key ++ leBytes 2 t ++ leBytes 1 ((if e.filled then 1 else 0) + (if t + 1 = rs.length then 2 else 0)) ++ leBytes 1 0
      ++ leBytes 4 r.1.toNat ++ leBytes 4 r.2.toNat ++ leBytes 4 q.2.1.toNat ++ leBytes 4 q.2.2.toNat ++ leBytes 4 e.ver.toNat).map (·.toNat))
/-- An episode released (R359), or that it does not fit. -/
def releaseOne (s : State) (m : Nat) (e : Episode) : Option State :=
  let c := ctxOf s e.ctx
  if e.ver.toNat < c.esc.minver.toNat then some (count (dropEpisode s m e.ctx e.key) e.ctx cSTALE 1)
  else if e.conflict then some (count (dropEpisode s m e.ctx e.key) e.ctx cCONFLICT 1)
  else if c.queue.length + e.records.length ≤ c.lqcap then
    some (count (dropEpisode (modCtx (touchDie s e.ctx (memDie c.esc.lqhome)) e.ctx fun x => { x with queue := x.queue ++ e.records }) m e.ctx e.key) e.ctx cRELEASED e.records.length)
  else none
/-- EPISODE_RELEASE (R359): the context's first computed episode at a slice is discarded or enters the learner queue. -/
def episodeRelease (s : State) (m c : Nat) : Option State :=
  match earliestDone (sliceOf s m).episodes fun e => e.ctx == c && e.results.isSome with
  | some e => if (ctxOf s c).det then none else releaseOne s m e
  | none => none
/-- EPISODE_RELEASE (R359). -/
def execEpisodeRelease (slice c : Nat) (s : State) : Out := .next ((episodeRelease s slice c).getD s)

/-! ### A round close (R363) -/

/-- Insertion of a post by ascending key, step and writer (R363). -/
def insertPost (p : Nat × Post) : List (Nat × Post) → List (Nat × Post)
  | [] => [p]
  | q :: l =>
    if p.2.key < q.2.key || (p.2.key == q.2.key && (decide (p.2.t < q.2.t) || (p.2.t == q.2.t && decide (p.2.writer < q.2.writer)))) then p :: q :: l
    else q :: insertPost p l
/-- The posts that a close applies, in order: the groups' of this grid, sorted, then those of links in arrival order. -/
def closePosts (s : State) (c grid : Nat) : List (Nat × Post) :=
  (s.posts.filter fun e => e.2.ctx == c && e.2.grid == grid).foldl (fun l p => insertPost p l) []
    ++ s.posts.filter fun e => e.2.ctx == c && e.2.grid == 0
/-- The episodes of a context with their slices, complete ones first in their order, then the others that are full by ascending key. -/
def insertEp (key : Nat × Episode → Nat × Nat) (p : Nat × Episode) : List (Nat × Episode) → List (Nat × Episode)
  | [] => [p]
  | q :: l => if (key p).1 < (key q).1 || ((key p).1 == (key q).1 && decide ((key p).2 < (key q).2)) then p :: q :: l else q :: insertEp key p l
/-- The complete episodes of a context in order of release (R363). -/
def releaseOrder (s : State) (c : Nat) : List (Nat × Episode) :=
  let all := s.slices.flatMap fun m => (m.2.episodes.filter fun e => e.ctx == c && e.full).map fun e => (m.1, e)
  all.foldl (fun l p => insertEp (fun q => (match q.2.done with | some d => d | none => s.nextUid, q.2.key)) p l) []
/-- Episodes released in order until one does not fit (R363). -/
def releaseAll : List (Nat × Episode) → State → State
  | [], s => s
  | q :: l, s => match releaseOne s q.1 q.2 with | some s1 => releaseAll l s1 | none => s
/-- A slice's orphans and closed episodes of a context one round close older (R363). -/
def Slice.older (m : Slice) (c : Nat) : Slice :=
  { m with
    orphans := m.orphans.map fun o => if o.ctx = c then { o with age := o.age + 1 } else o
    episodes := m.episodes.map fun e => if e.ctx = c && e.closed.isSome then { e with age := e.age + 1 } else e }
/-- An orphan of a context that has lived OHOLD closes. -/
def orphanLate (c hold : Nat) (o : Orphan) : Bool := o.ctx == c && decide (hold ≤ o.age)
/-- What has lived its time goes (R355, R356): late orphans, then the time-outs that fall due. -/
def expireEscrow (s : State) (c : Nat) : State :=
  let hold := (ctxOf s c).esc.ohold.toNat
  let late := (s.slices.map fun (m : Nat × Slice) => (m.2.orphans.filter (orphanLate c hold)).length).foldl (· + ·) 0
  let s1 := { s with slices := s.slices.map fun (m : Nat × Slice) => (m.1, { m.2 with orphans := m.2.orphans.filter fun o => !orphanLate c hold o }) }
  let s2 := if late = 0 then s1 else count s1 c cORPHAN late
  let due := s2.slices.flatMap fun (m : Nat × Slice) =>
    (m.2.episodes.filter fun e => e.ctx == c && e.waitsTout && decide (e.cfg.tout.toNat ≤ e.age)).map fun e => (m.1, e)
  due.foldl (fun s p => timeOut s p.1 p.2) s2
/-- What a round close of a grid does to its context's escrow (R363): ages, posts, expiry, completion, release, counters. -/
def escrowClose (s : State) (c grid : Nat) : State :=
  let s0 := { s with slices := s.slices.map fun (m : Nat × Slice) => (m.1, m.2.older c) }
  let s1 := (closePosts s0 c grid).foldl (fun s e => applyPost s e.1 e.2) s0
  let s2 := expireEscrow s1 c
  let s3 := (releaseOrder s2 c).foldl (fun (s : State) p =>
    modEpisode { s with nextUid := s.nextUid + 1 } p.1 c p.2.key fun e => { e with done := some (e.done.getD s.nextUid) }) s2
  modCtx (releaseAll (releaseOrder s3 c) s3) c fun x => { x with ctrClosed := x.counters }

end Sys2Proof.Machine
end

