-- ==== Sys2Proof/Machine/Det.lean ====
section
/-!
DEFINITION. The close of a deterministic round (R335-R338) and the end of a marker park (R92, R95).
-/
namespace Sys2Proof.Machine

/-! ### Rounds -/

/-- A group that does not hold its round open (R335). -/
def roundDone (g : Group) : Bool := g.exited || (match g.park with | some (.rnd _) | some .coinWait => true | _ => false)
/-- The open round of a deterministic grid can close (R335). -/
def roundCloses (s : State) (grid : Nat) (gr : Grid) : Bool :=
  (ctxOf s gr.ctx).det && (ctxOf s gr.ctx).cst == 1 && !gr.closed && gr.started.length == gr.size
    && (s.blocks.all fun e => e.2.grid != grid || e.2.groups.all fun u => match mget s.groups u with | some g => roundDone g | none => true)
    && (s.cmds.all fun d => d.2.grid != grid)
    && !gr.coinHeld && decide (gr.size * gr.ngrp ≤ gr.coinPos)
/-- Every group of a grid has exited: the round that is open then is its last (R335). -/
def allExited (s : State) (grid : Nat) : Bool :=
  s.blocks.all fun e => e.2.grid != grid || e.2.groups.all fun u => match mget s.groups u with | some g => g.exited | none => true
/-- The bytes of a round merged: for each location the value of the highest writer (R338). -/
def mergeBytes (l : List RoundByte) : List RoundByte :=
  l.foldl (fun acc r =>
    match acc.find? fun q => q.loc == r.loc with
    | some q => if q.writer ≤ r.writer then r :: acc.filter (fun x => x.loc != r.loc) else acc
    | none => r :: acc) []
/-- Every buffered byte of a grid's round. -/
def roundBytes (s : State) (grid : Nat) (gr : Grid) : List RoundByte :=
  let mine := s.blocks.filter fun e => e.2.grid == grid
  (gr.oldBufs.flatMap fun o => o.2.2) ++ mine.flatMap fun e => e.2.rbuf
/-- Merged bytes written to memory (R338); the numbers of the writes. -/
def putMerged (s : State) (c : Nat) : List RoundByte → List Vis → State × List Vis
  | [], ids => (s, ids)
  | r :: l, ids => putMerged (putUnit (touchPa s c r.loc) hostAgent c r.loc none [r.val] true []) c l ((s.nextUid, none) :: ids)
/-- The close of a round is a full release by every group of it and a full acquire by every group of the next, at `.dev` (R238, R338): what its
groups, its retired blocks and its merge wrote is visible to them all. -/
def roundOrder (s : State) (grid : Nat) (gr : Grid) (merged : List Vis) : State :=
  let mine := s.groups.filter fun e => e.2.grid == grid
  let s1 := mine.foldl (fun t e => performStores t e.1) s
  let ids := mine.foldl (fun l e => union l (doneIds s1 e.1 e.2)) (gr.rels.foldl (fun l r => union l r.2) merged)
  blockAcquire s1 ((mine.filter fun e => !e.2.exited).map (·.1)) .dev s1.nextUid ids
/-- A group after the close of its round: its `rnd` retires, and it has seen every command of the round complete (R335, R338). -/
def roundGroup (g0 : Group) : Group :=
  let g : Group := { g0 with pfSnap := [], seen := union g0.seen (g0.compl.flatMap (·.2)), compl := [] }
  match g.park with
  | some (.rnd sm) => retireG g sm 4
  | _ => g
/-- Event records in ascending (DIE, SEQ) order (R324): insertion by bytes 2–3 and 16–19. -/
def insertEvent (r : List Nat) : List (List Nat) → List (List Nat)
  | [] => [r]
  | q :: l =>
    let key (x : List Nat) : Nat := leAt (asBytes x) 2 2 * 2 ^ 32 + leAt (asBytes x) 16 4
    if key r < key q then r :: q :: l else q :: insertEvent r l
/-- Event records fall due at a close (R324, R338). -/
def eventsDue (s : State) (c : Nat) : State :=
  modCtx s c fun x => let l := x.events.foldl (fun l r => insertEvent r l) []; { x with events := l, evDue := l.length }
/-- ROUND_CLOSE (R335, R338): buffers merge, groups at `rnd` retire, the next round opens with the coin at the first group. Each block goes on in the
rotation of its core after its own last turn, wherever the other blocks of the core stand (R334, R344). -/
def roundClose (s : State) (grid : Nat) : Option State :=
  match mget s.grids grid with
  | none => none
  | some gr =>
    if !roundCloses s grid gr then none
    else
      let m := putMerged s gr.ctx (mergeBytes (roundBytes s grid gr)) []
      let s1 := modGrid (roundOrder m.1 grid gr m.2) grid fun x =>
        { x with round := x.round + 1, coinPos := 0, coinHeld := false, roundOld := [], oldBufs := [], more := union x.more m.2, closed := allExited s grid }
      let s2 := { s1 with
        blocks := s1.blocks.map fun e =>
          if e.2.grid = grid then (e.1, { e.2 with rbuf := [], enter := if e.2.st == .running then some (e.2.enter.getD e.2.rot) else none }) else e
        groups := s1.groups.map fun e => if e.2.grid = grid then (e.1, roundGroup e.2) else e }
      some (coinSettle (eventsDue (escrowClose s2 gr.ctx grid) gr.ctx) grid)
/-- ROUND_CLOSE (R335). -/
def execRoundClose (grid : Nat) (s : State) : Out := .next ((roundClose s grid).getD s)

/-! ### The end of a marker park -/

/-- REGISTER_RESULT_WRITTEN (R92, R95, R350): an escrow word of the group reaches its slice and its result is written; once none is left, a trap that
has waited is entered, or the outstanding results of a marker park are written and the park ends. -/
def resultWritten (s : State) (u : Nat) : Option State :=
  match mget s.groups u with
  | none => none
  | some g =>
    if g.exited then none
    else if !g.words.isEmpty then (choose (Config.racePick s.free u) (wordsNext s u g)).map fun w => wordArrive s u g w.1 w.2
    else match g.trapping with
      | some t => some (trapEntry s u { g with trapping := none } t)
      | none => if g.park = some .marker then some (setGroup s u { settle s g with park := none }) else none
/-- REGISTER_RESULT_WRITTEN (R92). -/
def execRegisterResultWritten (g : Nat) (s : State) : Out := .next ((resultWritten s g).getD s)

end Sys2Proof.Machine
end

