-- ==== Sys2Proof/Machine/Stage.lean ====
section
/-!
DEFINITION. Rate-declared stage graphs (R378-R384): binding, firings, commits, the governor and rebinding.
-/
namespace Sys2Proof.Machine

/-! ### Scheduler accesses -/

/-- n bytes of a context's space as the scheduler reads them, or nothing where one cannot be read. -/
def schedRead (s : State) (c va n : Nat) : Option (List Byte) :=
  allSome ((List.range n).map fun i =>
    match resolve s c (va + i) 0 with | .ok pa => some (Memory.read s.mem pa) | .error _ => none)
/-- Every byte of a run can be written through a context's tables. -/
def schedWritable (s : State) (c va n : Nat) : Bool :=
  (List.range n).all fun i => match resolve s c (va + i) 1 with | .ok _ => true | .error _ => false

/-! ### The descriptor (R378) -/

/-- A descriptor read from its bytes: the governor bit, stages and edges; nothing where it breaks R378. -/
def readDescriptor (s : State) (c va : Nat) : Option (Bool × List SgStage × List SgEdge) :=
  if va % 8 != 0 then none
  else match schedRead s c va 8 with
    | none => none
    | some h =>
      let ns := leAt h 0 1
      let ne := leAt h 1 1
      if !(decide (1 ≤ ns ∧ ns ≤ 64) && decide (1 ≤ ne) && decide (leAt h 2 1 ≤ 1) && leAt h 3 5 == 0) then none
      else match schedRead s c (va + 8) (24 * ns + 16 * ne) with
        | none => none
        | some b =>
          let stage (i : Nat) : Option SgStage :=
            let o := 24 * i
            let st : SgStage :=
              { img := leAt b (o + 2) 2, kern := leAt b o 2, param := BitVec.ofNat 64 (leAt b (o + 8) 8), cores := leAt b (o + 16) 1, stateless := leAt b (o + 17) 1 == 1, ngrp := leAt b (o + 18) 1, wcode := leAt b (o + 19) 1 }
            let ok := leAt b (o + 4) 4 == 0 && decide (1 ≤ st.cores) && decide (leAt b (o + 17) 1 ≤ 1) && decide (1 ≤ st.ngrp ∧ st.ngrp ≤ 16)
              && decide (st.wcode ≤ 3) && leAt b (o + 20) 4 == 0
              && (match kernelOf s c st.img st.kern with | some k => runnable k | none => false)
            if ok then some st else none
          let edge (i : Nat) : Option SgEdge :=
            let o := 24 * ns + 16 * i
            let e : SgEdge :=
              { frm := leAt b o 1, dst := leAt b (o + 1) 1, prod := leAt b (o + 2) 2, cons := leAt b (o + 4) 2, init := leAt b (o + 6) 2, rsize := leAt b (o + 8) 4, high := leAt b (o + 12) 2, low := leAt b (o + 14) 2 }
            if e.frm < ns ∧ e.dst < ns ∧ 1 ≤ e.prod ∧ 1 ≤ e.cons ∧ e.rsize % 4 = 0 ∧ 4 ≤ e.rsize ∧ e.rsize ≤ 65536 then some e else none
          match allSome ((List.range ns).map stage), allSome ((List.range ne).map edge) with
          | some ss, some es => some (leAt h 2 1 == 1, ss, es)
          | _, _ => none

/-! ### Binding (R379) -/

/-- A known ratio of a stage's firings, as numerator and denominator; unknown when the denominator is 0. -/
abbrev Ratio := Nat × Nat
/-- One edge passes a ratio on, whichever end is known. -/
def passRatio (r : List Ratio) (e : SgEdge) : List Ratio :=
  let a := r.getD e.frm (0, 0)
  let b := r.getD e.dst (0, 0)
  let red (n d : Nat) : Ratio := (n / Nat.gcd n d, d / Nat.gcd n d)
  if a.2 != 0 && b.2 == 0 then r.set e.dst (red (a.1 * e.prod) (a.2 * e.cons))
  else if a.2 == 0 && b.2 != 0 then r.set e.frm (red (b.1 * e.cons) (b.2 * e.prod))
  else r
/-- The repetition vector (R379, step 1), or nothing where the rates are inconsistent. -/
def repetition (ns : Nat) (es : List SgEdge) : Option (List Nat) :=
  let r := (List.range ns).foldl (fun r _ => es.foldl passRatio r) ((List.range ns).map fun i => if i = 0 then (1, 1) else (0, 0))
  if r.any fun x => x.2 == 0 then none
  else
    let l := r.foldl (fun m x => Nat.lcm m x.2) 1
    let q := r.map fun x => x.1 * (l / x.2)
    let g := q.foldl Nat.gcd 0
    let q := q.map (· / g)
    if es.all (fun e => q.getD e.frm 0 * e.prod == q.getD e.dst 0 * e.cons) && q.all (fun x => decide (x ≤ 1048560))
        && decide (q.foldl Nat.add 0 ≤ 2 ^ 20) then some q else none
/-- One period as it is simulated (R379, step 2): occupancies, firings so far, largest occupancies, and the stages fired, latest first. -/
structure Period where
  occ : List Nat
  fired : List Nat
  top : List Nat
  runs : List (Nat × Nat)
  deriving DecidableEq, Repr
/-- The edges with their numbers. -/
def numbered (es : List SgEdge) : List (Nat × SgEdge) := (List.range es.length).zip es
/-- A stage can fire in the simulated period. -/
def canFire (es : List SgEdge) (q : List Nat) (p : Period) (st : Nat) : Bool :=
  decide (p.fired.getD st 0 < q.getD st 0) && (numbered es).all fun e => e.2.dst != st || decide (e.2.cons ≤ p.occ.getD e.1 0)
/-- The firing of a stage: it adds to every output edge, then takes from every input edge. -/
def fireStage (es : List SgEdge) (p : Period) (st : Nat) : Period :=
  let add := (numbered es).foldl (fun (a : List Nat × List Nat) e =>
    if e.2.frm = st then
      let n := a.1.getD e.1 0 + e.2.prod
      (a.1.set e.1 n, a.2.set e.1 (max (a.2.getD e.1 0) n))
    else a) (p.occ, p.top)
  let occ := (numbered es).foldl (fun (o : List Nat) e => if e.2.dst = st then o.set e.1 (o.getD e.1 0 - e.2.cons) else o) add.1
  { occ := occ, fired := p.fired.set st (p.fired.getD st 0 + 1), top := add.2
    runs := match p.runs with | (t, n) :: l => if t = st then (t, n + 1) :: l else (st, 1) :: (t, n) :: l | [] => [(st, 1)] }
/-- The simulated period in at most n firings, or nothing at a deadlock. -/
def simulate (es : List SgEdge) (q : List Nat) : Nat → Period → Option Period
  | 0, p => some p
  | n + 1, p =>
    if p.fired = q then some p
    else match (List.range q.length).find? (canFire es q p) with
      | some st => simulate es q n (fireStage es p st)
      | none => none
/-- A run of firings as table entries of at most 65,535 (R379, R380). -/
def tableRun : Nat → Nat → Nat → List Nat
  | 0, _, _ => []
  | fuel + 1, st, n => if n = 0 then [] else (st * 2 ^ 24 + min n 65535 * 2 ^ 8) :: tableRun fuel st (n - 65535)
/-- The firing table (R379, step 3). -/
def firingTable (runs : List (Nat × Nat)) : List Nat :=
  let l := runs.flatMap fun r => tableRun (r.2 / 65535 + 1) r.1 r.2
  match l.getLast? with
  | some x => l.dropLast ++ [x + 1]
  | none => []
/-- A length rounded up to 128 bytes. -/
def up128 (n : Nat) : Nat := (n + 127) / 128 * 128
/-- The rings in edge order from an address (R379, step 4). -/
def placeRings (es : List SgEdge) (top : List Nat) : Nat → Nat → List SgRing
  | _, 0 => []
  | a, n + 1 =>
    let i := es.length - (n + 1)
    match es[i]? with
    | none => []
    | some e =>
      let cap := max (top.getD i 0) (max e.prod (max e.cons e.init))
      { base := a, cap := cap, rsize := e.rsize } :: placeRings es top (a + up128 (cap * e.rsize)) n
/-- What a binding comes to: the status of R380, or the bound graph. -/
inductive Bound where
  | status (n : Nat)
  | ok (g : StageGraph)
/-- The thresholds of an edge with their defaults (R378). -/
def withDefaults (e : SgEdge) (r : SgRing) : SgEdge :=
  { e with high := if e.high = 0 then cdiv (3 * r.cap) 4 else e.high, low := if e.low = 0 then r.cap / 4 else e.low }
/-- The cores that stages take as they are bound, by their logical numbers: each as many as its CORES, one stage after another (log entry 58). -/
def assignCores : List SgStage → Nat → List (List Nat)
  | [], _ => []
  | x :: l, n => ((List.range x.cores).map (n + ·)) :: assignCores l (n + x.cores)
/-- A descriptor bound (R379): status 5 comes before every other. -/
def bindGraph (s : State) (c desc result arena bytes periods : Nat) (acq : List Vis) : Bound :=
  match readDescriptor s c desc with
  | none => .status 5
  | some (gov, ss, es) =>
    match repetition ss.length es with
    | none => .status 1
    | some q =>
      let p0 : Period := { occ := es.map (·.init), fired := ss.map fun _ => 0, top := es.map (·.init), runs := [] }
      match simulate es q (q.foldl (· + ·) 0) p0 with
      | none => .status 2
      | some p =>
        let table := firingTable p.runs.reverse
        if 4096 < table.length then .status 3
        else
          let rings := placeRings es p.top arena es.length
          let used := (rings.map fun r => up128 (r.cap * r.rsize)).foldl (· + ·) 0
          if bytes < used then .status 4
          else .ok
            { desc := desc, result := result, arena := arena, arenaBytes := bytes, periods := periods, gov := gov, stages := ss, edges := (es.zip rings).map fun x => withDefaults x.1 x.2, q := q, table := table, rings := rings, occ := es.map (·.init), next := ss.map fun _ => 0, done := [], flight := [], cores := assignCores ss 0, moves := [], rebind := false, base := 0, tabPos := 0, since := [], acq := acq }
/-- The result area of a binding (R380). -/
def resultBytes (g : StageGraph) : List Byte :=
  leBytes 4 0 ++ leBytes 4 g.table.length ++ leBytes 8 0
    ++ (g.rings.flatMap fun r => leBytes 8 r.base ++ leBytes 4 r.cap ++ leBytes 4 r.rsize)
    ++ (g.q.flatMap (leBytes 4)) ++ g.table.flatMap (leBytes 4)
/-- The result area of a refused binding: its status, and no entries. -/
def refusedBytes (st : Nat) : List Byte := leBytes 4 st ++ leBytes 12 0
/-- Every ring zeroed (R379, step 5). -/
def zeroRings (s : State) (c : Nat) (rs : List SgRing) : State :=
  rs.foldl (fun s r => loadBytes s c r.base (List.replicate (r.cap * r.rsize) 0)) s

/-! ### Nodes and runs -/

/-- A graph changed. -/
def modGraph (s : State) (gid : Nat) (f : Graph → Graph) : State := { s with graphs := mmod s.graphs gid f }
/-- The run of a graph changed. -/
def modRun (s : State) (gid : Nat) (f : Run → Run) : State := modGraph s gid fun g => { g with run := g.run.map f }
/-- A node completes, and releases what it covers to its successors (R368, R238). -/
def nodeDone (s : State) (gid node : Nat) (ids : List Vis) : State :=
  modRun s gid fun r => { r with st := r.st.set node .completed, rel := mset r.rel node ids }
/-- A node fails: the nodes not yet started are skipped; one without a predecessor started with the run (R368). -/
def nodeFail (s : State) (gid node cause : Nat) : State :=
  let root (n : Nat) : Bool := match mget s.graphs gid with | some g => !g.edges.any fun e => e.2 == n | none => false
  modRun s gid fun r =>
    let st := r.st.set node .failed
    { r with
      st := (List.range st.length).map fun n => let x := st.getD n .failed; if x = .waiting ∧ !root n then .skipped else x
      fail := r.fail.or (some (node, cause)) }
/-- The bound stage graph of a running node. -/
def stageGraphOf (s : State) (gid node : Nat) : Option StageGraph :=
  match mget s.graphs gid with
  | some g => g.run.bind fun r => if r.st[node]? = some .running then mget r.sg node else none
  | none => none

/-! ### Firings (R381, R382) -/

/-- A firing has committed. -/
def StageGraph.committed (g : StageGraph) (st f : Nat) : Bool := g.done.any fun d => d.1 == st && d.2.1 == f
/-- The periods left to this binding. -/
def StageGraph.left (g : StageGraph) : Nat := g.periods - g.base
/-- The periods of which some firing has been dispatched (R384). -/
def StageGraph.begun (g : StageGraph) : Nat := ((g.next.zip g.q).map fun x => cdiv x.1 (max 1 x.2)).foldl max 0
/-- The producer firings whose records a firing reads on an edge (R381); initial records have none. -/
def producers (e : SgEdge) (f : Nat) : List Nat :=
  dedup ((List.range e.cons).filterMap fun j => let n := f * e.cons + j; if n < e.init then none else some ((n - e.init) / e.prod))
/-- Every record that a firing reads has been committed (R382). -/
def StageGraph.inputsReady (g : StageGraph) (st f : Nat) : Bool :=
  g.edges.all fun e => e.dst != st || (producers e f).all fun p => g.committed e.frm p
/-- Every slot that a firing writes is free (R382). -/
def StageGraph.slotsFree (g : StageGraph) (st f : Nat) : Bool :=
  (numbered g.edges).all fun x =>
    let e := x.2
    let cap := match g.rings[x.1]? with | some r => r.cap | none => 1
    e.frm != st || (List.range e.prod).all fun j =>
      let n := e.init + f * e.prod + j
      decide (n < cap) || g.committed e.dst ((n - cap) / e.cons)
/-- The stage of the next firing in table order (R382, deterministic contexts). -/
def StageGraph.turn (g : StageGraph) : Nat :=
  let l := g.table.flatMap fun w => List.replicate (w / 2 ^ 8 % 2 ^ 16) (w / 2 ^ 24)
  l.getD (g.tabPos % max 1 l.length) 0
/-- How many cores a stage holds. -/
def StageGraph.held (g : StageGraph) (st : Nat) : Nat := (g.cores.getD st []).length
/-- The next firing of a stage may be dispatched (R382), leaving its core aside. A core that the governor is to move has no further firing of
the donor (R383). -/
def StageGraph.ready (g : StageGraph) (det : Bool) (st : Nat) : Bool :=
  let f := g.next.getD st 0
  let q := g.q.getD st 0
  let less := match g.stages[st]? with | some x => x.stateless | none => false
  decide (f < g.left * q) && g.inputsReady st f && g.slotsFree st f
    && (less || (!(g.flight.any fun x => x.1 == st) && (f == 0 || g.committed st (f - 1))))
    && (!g.rebind || decide (f < g.begun * q))
    && decide ((g.flight.filter fun x => x.1 == st).length < g.held st) && !(g.moves.any fun m => m.1 == st)
    && (!det || (g.flight.isEmpty && g.turn == st))
/-- The moments at which the stages' next firings became ready, as they stand `now`: what is ready keeps its moment (R45). -/
def StageGraph.restamp (g : StageGraph) (det : Bool) (now : Nat) : StageGraph :=
  { g with since := (List.range g.stages.length).filterMap fun st => if g.ready det st then some (st, mgetD g.since st now) else none }
/-- The bound stage graph of a node changed: what this makes ready is so from now on, a moment of its own (R45). -/
def modStage (s : State) (gid node : Nat) (f : StageGraph → StageGraph) : State :=
  let det := match mget s.graphs gid with | some g => (ctxOf s g.ctx).det | none => false
  { modRun s gid fun r => { r with sg := mmod r.sg node fun g => (f g).restamp det s.nextUid } with nextUid := s.nextUid + 1 }
/-- The place of a stage in the firing table. -/
def StageGraph.place (g : StageGraph) (st : Nat) : Nat := (g.table.findIdx? fun w => w / 2 ^ 24 == st).getD g.table.length
/-- The launch values of a stage's firings (R381). A kernel whose phase record exceeds 8 KiB, or whose allocation breaks R41, is bound all the same,
and its block placed where it fits: no status of R380 covers it (log entry 51). -/
def firingArgs (s : State) (c : Nat) (x : SgStage) : LaunchArgs :=
  { img := x.img, kern := x.kern, gdx := 1, gdy := 1, gdz := 1, ngrp := x.ngrp, gwid := 8 * 2 ^ x.wcode, cls := 0
    lmem := (match kernelOf s c x.img x.kern with | some k => k.lmem | none => 0)
    sets := 0, ways := 1, gran := 0, param := x.param, uhnd := 0xFFFFFFFF, deps := [] }
/-- What a firing acquires (R382): what its producers' commits released, and what the node acquired. -/
def StageGraph.acquires (g : StageGraph) (st f : Nat) : List Vis :=
  g.edges.foldl (fun l e =>
    if e.dst = st then (g.done.filter fun d => d.1 == e.frm && (producers e f).contains d.2.1).foldl (fun l d => union l d.2.2) l else l) g.acq
/-- The live grids of a context (R372). -/
def liveGrids (s : State) (c : Nat) : Nat := (s.grids.filter fun e => e.2.ctx == c).length
/-- The core of a logical number in a context's partition (R34): numbers beyond the last core start over. -/
def logicalCore (s : State) (c i : Nat) : Option Nat :=
  let l := logicalCores s (ctxOf s c).part
  l[i % max 1 l.length]?
/-- What launches the grids of a graph's node, as a number: even, while those of launches are odd (`launchKey`). -/
def nodeKey (gid node : Nat) : Nat := 2 * (gid * 2 ^ 16 + node + 1)
/-- A core has a firing of the graph in flight. -/
def StageGraph.busy (g : StageGraph) (s : State) (core : Nat) : Bool :=
  g.flight.any fun y => s.blocks.any fun b => b.2.grid == y.2.2 && b.2.core == core
/-- A core may take a firing of a stage: it is assigned to the stage and free of the graph's firings, and a block of the stage fits there
(R382, R45). A firing passes the gate with its first start as it is dispatched and waits for no OFFSET: the model's choice, since R29 names host
launches, `launch`, `gtrig` and phases alone (log entry 45). -/
def firingFits (s : State) (c : Nat) (g : StageGraph) (st : Nat) (x : SgStage) (core : Nat) : Bool :=
  let n := newGrid s c (firingArgs s c x) 0 0 []
  ((g.cores.getD st []).any fun i => logicalCore s c i == some core) && !g.busy s core
    && gateLets n.2.2 (dieOf core) n.1 && fits n.2.2 core n.1 n.2.1 none && decide (liveGrids s c < 4096)

/-! ### The order of placement (R45) -/

/-- The firings that are ready in the running contexts: since when, graph, node and stage (R382). -/
def readyFirings (s : State) : List (Nat × Nat × Nat × Nat) :=
  s.graphs.flatMap fun e =>
    if (ctxOf s e.2.ctx).cst != 1 || (ctxOf s e.2.ctx).draining then []
    else match e.2.run with
      | none => []
      | some r => r.sg.flatMap fun x =>
        if r.st[x.1]? = some NodeSt.running then
          (List.range x.2.stages.length).filterMap fun st =>
            if x.2.ready (ctxOf s e.2.ctx).det st then some (mgetD x.2.since st 0, e.1, x.1, st) else none
        else []
/-- A ready firing fits on a core of its stage now. -/
def firingCanStart (s : State) (gid node st : Nat) : Bool :=
  match mget s.graphs gid, stageGraphOf s gid node with
  | some gr, some g =>
    (match g.stages[st]? with
     | some x => (logicalCores s (ctxOf s gr.ctx).part).any (firingFits s gr.ctx g st x)
     | none => false)
  | _, _ => false
/-- A firing that became ready before a moment fits on some core: its block, of class 0, is placed before a block of that class that became
ready then (R45). -/
def firingBefore (s : State) (t : Nat) : Bool := (readyFirings s).any fun f => decide (f.1 < t) && firingCanStart s f.2.1 f.2.2.1 f.2.2.2
/-- Grids in placement order: class, highest first, then the order their blocks became ready (R45). -/
def before (s : State) (a b : Nat × Grid) : Bool :=
  decide (b.2.cls < a.2.cls) || (a.2.cls == b.2.cls && (decide (readyStamp s a.1 a.2 < readyStamp s b.1 b.2)
    || (readyStamp s a.1 a.2 == readyStamp s b.1 b.2 && decide (a.1 < b.1))))
/-- The first waiting block of a grid fits on some core now. -/
def canStart (s : State) (e : Nat × Grid) : Bool := (gridCores s e.2).any fun c => canPlace s e.1 c e.2
/-- A block earlier in the order fits on some core: of another grid, or a firing's. -/
def earlierFits (s : State) (grid : Nat) (gr : Grid) : Bool :=
  (s.grids.any fun e => e.1 != grid && waits s e.1 e.2 && before s e (grid, gr) && canStart s e)
    || (gr.cls == 0 && firingBefore s (readyStamp s grid gr))
/-- A waiting block of a grid comes before a block of class 0 that became ready at a moment, and fits on some core (R45). -/
def gridBefore (s : State) (t : Nat) : Bool :=
  s.grids.any fun e => waits s e.1 e.2 && (e.2.cls != 0 || decide (readyStamp s e.1 e.2 ≤ t)) && canStart s e
/-- BLOCK_PLACE (R45, R315, R339): the first waiting block of a grid goes to a core: one that was saved comes back, or a new one starts. -/
def blockPlace (s : State) (grid core : Nat) : Option State :=
  match mget s.grids grid with
  | none => none
  | some gr =>
    if !canPlace s grid core gr || earlierFits s grid gr then none
    else match firstWaiting s grid gr with
      | some (_, _, some blk) => returnSet s blk core
      | some (_, b, none) => some (placeNew s grid core b gr)
      | none => none
/-- BLOCK_PLACE (R45). -/
def execBlockPlace (grid core : Nat) (s : State) : Out := .next ((blockPlace s grid core).getD s)
/-- FIRING_DISPATCH (R382): the next firing of a stage starts on a core, as a grid of one block, unless an earlier block of the order of R45 has
room. Of the firings of one graph the table tells which goes first. -/
def firingDispatch (s : State) (gid node st core : Nat) : Option State :=
  match mget s.graphs gid, stageGraphOf s gid node with
  | some gr, some g =>
    let det := (ctxOf s gr.ctx).det
    let since := mgetD g.since st 0
    match g.stages[st]? with
    | none => none
    | some x =>
      let earlier := (readyFirings s).any fun f =>
        (if f.2.1 = gid ∧ f.2.2.1 = node then decide (g.place f.2.2.2 < g.place st) else decide (f.1 < since)) && firingCanStart s f.2.1 f.2.2.1 f.2.2.2
      if (ctxOf s gr.ctx).cst != 1 || (ctxOf s gr.ctx).draining || !g.ready det st || earlier || gridBefore s since || !firingFits s gr.ctx g st x core then none
      else
        let f := g.next.getD st 0
        let n := newGrid s gr.ctx (firingArgs s gr.ctx x) 0 (nodeKey gid node) (g.acquires st f)
        let gr1 := { n.2.1 with firing := some (gid, node, st, f) }
        let s1 := { n.2.2 with grids := mset n.2.2.grids n.1 gr1 }
        let s2 := modStage s1 gid node fun g => { g with next := g.next.set st (f + 1), flight := g.flight ++ [(st, f, n.1)], tabPos := g.tabPos + 1 }
        some (placeNew s2 n.1 core 0 gr1)
  | _, _ => none
/-- FIRING_DISPATCH (R382). -/
def execFiringDispatch (gid node stage core : Nat) (s : State) : Out := .next ((firingDispatch s gid node stage core).getD s)

/-! ### Commits and the governor (R382, R383) -/

/-- The occupancies after a firing of a stage commits (R383). -/
def StageGraph.occAfter (g : StageGraph) (st : Nat) : List Nat :=
  (numbered g.edges).foldl (fun (o : List Nat) x =>
    let e := x.2
    let n := o.getD x.1 0
    o.set x.1 ((if e.frm = st then n + e.prod else n) - (if e.dst = st then e.cons else 0))) g.occ
/-- The move that the governor makes after a commit, if any: donor and recipient (R383). -/
def StageGraph.govern (g : StageGraph) (old : List Nat) : Option (Nat × Nat) :=
  match (numbered g.edges).find? fun x => decide (old.getD x.1 0 ≤ x.2.high) && decide (x.2.high < g.occ.getD x.1 0) with
  | none => none
  | some hi =>
    let low := (numbered g.edges).filter fun x => decide (g.occ.getD x.1 0 < x.2.low)
    let best := low.foldl (fun (m : Option (Nat × SgEdge)) x =>
      match m with
      | some y =>
        let a := g.occ.getD x.1 0
        let b := g.occ.getD y.1 0
        if a < b || (a == b && decide (x.2.frm < y.2.frm)) then some x else m
      | none => some x) none
    match best with
    | none => none
    | some lo =>
      let donor := lo.2.frm
      if donor = hi.2.dst || g.held donor ≤ 1 || (g.moves.any fun m => m.1 == donor) then none else some (donor, hi.2.dst)
/-- Every firing of the node's periods has committed (R382). -/
def StageGraph.finished (g : StageGraph) : Bool :=
  (List.range g.stages.length).all fun st => decide (g.left * g.q.getD st 0 ≤ (g.done.filter fun d => d.1 == st).length)
/-- A stage-graph node completes with its last firing (R368, R382). -/
def finishStages (s : State) (gid node : Nat) : State :=
  match stageGraphOf s gid node with
  | some g => if g.finished then nodeDone s gid node (g.done.foldl (fun l d => union l d.2.2) g.acq) else s
  | none => s
/-- The commit of a firing (R382): its records are committed, its slots free; the node completes with its last firing. In a deterministic context
the data of that firing stand in memory only as its last round has closed, and the node completes then, with its grid (R65, R338, R368). -/
def commitFiring (s : State) (grid : Nat) (ids : List Vis) : State :=
  match mget s.grids grid with
  | none => s
  | some gr =>
    match gr.firing with
    | none => s
    | some (gid, node, st, f) =>
      if gr.committed then s
      else
        let s1 := modGrid s grid fun x => { x with committed := true }
        let det := (ctxOf s gr.ctx).det
        let s2 := modStage s1 gid node fun g =>
          let g1 := { g with done := g.done ++ [(st, f, ids)], occ := g.occAfter st }
          match (if g.gov && !det then g1.govern g.occ else none) with
          | some m => { g1 with moves := g1.moves ++ [m] }
          | none => g1
        if det then s2 else finishStages s2 gid node
/-- A firing is in flight no longer: its block has retired, in a deterministic context its grid has completed (R381, R382), and then its commit
releases what the rounds merged too. -/
def firingOver (s : State) (gr : Grid) (grid : Nat) : State :=
  match gr.firing with
  | some (gid, node, st, f) =>
    let s1 := modStage s gid node fun g => { g with flight := g.flight.filter fun x => x.2.2 != grid }
    if (ctxOf s gr.ctx).det then
      let rels (d : Nat × Nat × List Vis) : Nat × Nat × List Vis := if d.1 == st && d.2.1 == f then (st, f, union d.2.2 gr.allRels) else d
      finishStages (modStage s1 gid node fun g => { g with done := g.done.map rels }) gid node
    else s1
  | none => s
/-- BLOCK_RETIRE (R65): a firing that its kernel has not committed commits as its block retires (R374). -/
def retireBlock (s : State) (blk : Nat) : Option State :=
  match mget s.blocks blk, blockRetire s blk with
  | some b, some s1 =>
    some (match mget s1.grids b.grid with
      | some gr => let s2 := commitFiring s1 b.grid gr.allRels; if (ctxOf s b.ctx).det then s2 else firingOver s2 gr b.grid
      | none => s1)
  | _, _ => none
/-- BLOCK_RETIRE (R65). -/
def execBlockRetire (blk : Nat) (s : State) : Out := .next ((retireBlock s blk).getD s)
/-- The core of a stage that a move takes: the first with no firing in flight (R383). -/
def idleCore (s : State) (c : Nat) (g : StageGraph) (st : Nat) : Option Nat :=
  (g.cores.getD st []).find? fun i => match logicalCore s c i with | some k => !g.busy s k | none => true
/-- GOVERNOR_MOVE (R383): a pending move takes effect once one of the donor's cores has no firing in flight. -/
def governorMove (s : State) (gid node : Nat) : Option State :=
  match mget s.graphs gid, stageGraphOf s gid node with
  | some gr, some g =>
    (match g.moves.find? fun m => (idleCore s gr.ctx g m.1).isSome with
     | some m =>
       let i := (idleCore s gr.ctx g m.1).getD 0
       some (modStage s gid node fun g =>
         { g with moves := g.moves.filter (· != m), cores := (g.cores.set m.1 ((g.cores.getD m.1 []).filter (· != i))).set m.2 (g.cores.getD m.2 [] ++ [i]) })
     | none => none)
  | _, _ => none
/-- GOVERNOR_MOVE (R383). -/
def execGovernorMove (gid node : Nat) (s : State) : Out := .next ((governorMove s gid node).getD s)
/-- `fdone` (R374). -/
def execFdone (sm : Bool) (xd : Nat) (s : State) : Out :=
  word s [xd] fun u g =>
    match mget s.grids g.grid with
    | none => raise s u g 0x0D
    | some gr =>
      match gr.firing with
      | none => raise s u g 0x0D
      | some (_, _, _, f) =>
        if gr.committed then raise s u g 0x0D
        else if !(groupCmds s u).isEmpty then parkOn s u g .commit
        else commitFiring (fin (performStores s u) u sm 4 (writeU s g xd (BitVec.ofNat 32 f))) g.grid (doneIds s u g)

/-! ### Rebinding (R384) -/

/-- The read view of `SG_REBIND`. -/
def rebindStatus (st reason : Nat) : Word := BitVec.ofNat 32 (st * 2 ^ 30 + reason)
/-- SG_REBIND (R384): a request names a running stage-graph node; a pending one is replaced. -/
def sgRebind (s : State) (v : Nat) : State :=
  let gid := fld v 57 48
  let node := fld v 47 36
  let s1 := { s with graphs := s.graphs.map fun e => (e.1, { e.2 with run := e.2.run.map fun r => { r with sg := r.sg.map fun x => (x.1, { x.2 with rebind := false }) } }) }
  let own := match mget s.graphs gid with | some g => g.ctx == fld v 63 58 | none => false
  if own && (stageGraphOf s gid node).isSome then { modStage s1 gid node fun g => { g with rebind := true } with sgRebind := rebindStatus 1 0 }
  else { s1 with sgRebind := rebindStatus 3 7 }
/-- SG_REBIND (R384). -/
def execSgRebind (v : Nat) (s : State) : Out := hostReg s fun s => sgRebind s v
/-- The INIT records of a ring, oldest first, as they stand at a period's end (R384, step 3). -/
def initRecords (s : State) (c : Nat) (g : StageGraph) (i : Nat) : List (List Byte) :=
  match g.edges[i]?, g.rings[i]? with
  | some e, some r =>
    let n0 := g.next.getD e.dst 0 * e.cons
    (List.range e.init).map fun j => (schedRead s c (r.base + (n0 + j) % max 1 r.cap * r.rsize) r.rsize).getD (List.replicate r.rsize 0)
  | _, _ => []
/-- The moved records stored in the new rings; a record keeps what fits of it. -/
def putRecords (s : State) (c : Nat) (g : StageGraph) (recs : List (List (List Byte))) : State :=
  ((List.range g.rings.length).zip (g.rings.zip recs)).foldl (fun s x =>
    ((List.range x.2.2.length).zip x.2.2).foldl (fun s y => loadBytes s c (x.2.1.base + y.1 * x.2.1.rsize) (y.2.take x.2.1.rsize)) s) s
/-- Every firing of the periods begun has committed (R384, step 1). -/
def StageGraph.periodDone (g : StageGraph) : Bool :=
  (List.range g.stages.length).all fun st => decide ((g.done.filter fun d => d.1 == st).length = g.begun * g.q.getD st 0)
/-- The period's data stand in memory: in a deterministic context a firing's round has closed as its grid completes (R338, R382). -/
def StageGraph.settled (g : StageGraph) (det : Bool) : Bool := !det || g.flight.isEmpty
/-- SG_REBIND_APPLY (R384): the descriptor bound again, the initial records moved, firings from 0; or a refusal that leaves all as it is. -/
def rebindApply (s : State) (gid node : Nat) : Option State :=
  match mget s.graphs gid, stageGraphOf s gid node with
  | some gr, some g =>
    if !g.rebind || !g.periodDone || !g.settled (ctxOf s gr.ctx).det || (ctxOf s gr.ctx).cst != 1 then none
    else
      let refuse (n : Nat) : State := { modStage s gid node fun g => { g with rebind := false } with sgRebind := rebindStatus 3 n }
      match bindGraph s gr.ctx g.desc g.result g.arena g.arenaBytes g.periods g.acq with
      | .status n => some (refuse n)
      | .ok b =>
        if b.edges.length != g.edges.length || b.edges.map (·.init) != g.edges.map (·.init) then some (refuse 6)
        else if !schedWritable s gr.ctx b.result (resultBytes b).length then some (refuse 5)
        else
          let recs := (List.range g.rings.length).map (initRecords s gr.ctx g)
          let s1 := loadBytes (zeroRings s gr.ctx b.rings) gr.ctx b.result (resultBytes b)
          let s2 := putRecords s1 gr.ctx b recs
          let b1 := { b with base := g.base + g.begun, flight := g.flight, acq := g.done.foldl (fun l d => union l d.2.2) g.acq }
          some { modStage s2 gid node fun _ => b1 with sgRebind := rebindStatus 2 0 }
  | _, _ => none
/-- SG_REBIND_APPLY (R384). -/
def execSgRebindApply (gid node : Nat) (s : State) : Out := .next ((rebindApply s gid node).getD s)

end Sys2Proof.Machine
end

