-- ==== Sys2Proof/Machine/Graphs.lean ====
section
/-!
DEFINITION. Launches (R370-R373), task graphs (R365-R369), and the completion of grids (R65) and copies (R249, R368).
-/
namespace Sys2Proof.Machine

/-! ### Triggers (R367) -/

/-- GRAPH_STAT with one more dropped trigger, or one more failed run, each saturating (R367). -/
def statDropped (v : Word) : Word := if v.toNat / 2 ^ 16 = 0xFFFF then v else v + 0x10000
def statFailed (v : Word) : Word := if v.toNat % 2 ^ 16 = 0xFFFF then v else v + 1
/-- A trigger queued. -/
def queueTrigger (s : State) (gid patch : Nat) (acq : List Vis) : State :=
  modGraph s gid fun g => { g with trigs := g.trigs ++ [{ patch := patch, acq := acq }], issued := g.issued + 1 }
/-- A context that a load or a trigger may name: running or pre-empted (R366, R367). -/
def ctxAlive (s : State) (c : Nat) : Bool := let x := (ctxOf s c).cst; x == 1 || x == 2
/-- GTRIG_WRITE (R367): a host trigger is queued, or dropped and counted. -/
def gtrigWrite (s : State) (v : Nat) : State :=
  let c := fld v 63 58
  let gid := fld v 57 48
  let good := match mget s.graphs gid with
    | some g => g.ctx == c && ctxAlive s c && decide (g.trigs.length < 4)
    | none => false
  if good then queueTrigger s gid (fld v 47 0 * 16) (visIds s hostAgent) else { s with graphStat := statDropped s.graphStat }
/-- GTRIG_WRITE (R367). -/
def execGtrigWrite (v : Nat) (s : State) : Out := hostReg s fun s => gtrigWrite s v
/-- GRAPH_STAT_CLEAR (R367). -/
def execGraphStatClear (s : State) : Out := hostReg s fun s => { s with graphStat := 0 }
/-- `gtrig` (R373). -/
def execGtrig (sm : Bool) (xd xa : Nat) (s : State) : Out :=
  word s [xd, xa, xa + 1, xa + 2, xa + 3] fun u g =>
    let p := blockOf s g xa 4
    let patch := prmP p 2
    match mget s.graphs (prmW p 0) with
    | none => raise s u g 0x0D
    | some gr =>
      if gr.ctx != g.ctx || patch % 16 != 0 || decide (2 ^ 52 ≤ patch) then raise s u g 0x0D
      else if 4 ≤ gr.trigs.length then parkOn s u g (.trigRoom (prmW p 0))
      else fin (queueTrigger s (prmW p 0) patch (relIds s u g)) u sm 4 (writeU s g xd (BitVec.ofNat 32 (gr.issued + 1)))

/-! ### Loading (R365, R366) -/

/-- The read view of `GLOAD`. -/
def gloadStatus (st reason : Nat) : Word := BitVec.ofNat 32 (st * 2 ^ 30 + reason)
/-- The bytes of an image with some nodes and edges. -/
def imageBytes (nodes edges : Nat) : Nat := 32 + 128 * nodes + 4 * edges
/-- The bytes that loaded graphs take of the scheduler's memory, but one. -/
def graphBytes (s : State) (except : Nat) : Nat :=
  (s.graphs.map fun e => if e.1 = except then 0 else imageBytes e.2.nodes.length e.2.edges.length).foldl (· + ·) 0
/-- A node entry (R365). -/
def readNode (b : List Byte) (o : Nat) : Node :=
  { kind := leAt b o 1, fn := leAt b (o + 1) 1, pb := (List.range 30).map fun i => BitVec.ofNat 32 (leAt b (o + 8 + 4 * i) 4) }
/-- A node entry with a KIND, FN and zero field of R365. -/
def nodeOk (b : List Byte) (o : Nat) : Bool :=
  let fn := leAt b (o + 1) 1
  leAt b (o + 2) 6 == 0 &&
    (match leAt b o 1 with | 0 => decide (fn ≤ 1) | 1 => fn == 0 || fn == 1 || fn == 5 | 2 => fn == 0 | _ => false)
/-- No cycle among edges: nodes without a predecessor left are taken away, in n rounds, until none is left. -/
def acyclic (edges : List (Nat × Nat)) : Nat → List Nat → Bool
  | 0, left => left.isEmpty
  | n + 1, left =>
    let keep := left.filter fun v => edges.any fun e => e.2 == v && left.contains e.1
    if keep.length = left.length then left.isEmpty else acyclic edges n keep
/-- A load's image read and checked: the graph with the bytes of its image, or the reason of its refusal (R366). -/
def loadImage (s : State) (v : Nat) : Except Nat (Nat × Graph) :=
  let c := fld v 63 58
  let gid := fld v 55 46
  let a := fld v 45 0 * 64
  if !ctxAlive s c then .error 6
  else match schedRead s c a 32 with
    | none => .error 7
    | some h =>
      let nn := leAt h 0 2
      let ne := leAt h 4 4
      let counts := decide (1 ≤ nn ∧ nn ≤ 4096) && decide (ne ≤ 16384)
      match (if counts then schedRead s c (a + 32) (128 * nn + 4 * ne) else some []) with
      | none => .error 7
      | some b =>
        let busy := match mget s.graphs gid with | some g => g.ctx != c || g.run.isSome || !g.trigs.isEmpty | none => false
        let crec := leAt h 8 8
        let edges := (List.range ne).map fun i => (leAt b (128 * nn + 4 * i) 2, leAt b (128 * nn + 4 * i + 2) 2)
        if busy then .error 1
        else if !counts || leAt h 2 2 != 0 || leAt h 18 14 != 0 || decide (2047 < leAt h 16 2) || crec % 32 != 0 || decide (2 ^ 52 ≤ crec)
            || !((List.range nn).all fun i => nodeOk b (128 * i)) then .error 2
        else if edges.any fun e => decide (nn ≤ e.1) || decide (nn ≤ e.2) then .error 3
        else if !acyclic edges nn (List.range nn) then .error 4
        else .ok (imageBytes nn ne, { ctx := c, nodes := (List.range nn).map fun i => readNode b (128 * i), edges := edges, crec := crec, vec := leAt h 16 2, trigs := [], issued := 0, runs := 0, run := none, killed := none })
/-- What a load comes to: a graph, or the reason of its refusal; a full memory is the last of them. -/
def loadGraph (s : State) (v : Nat) : Except Nat Graph :=
  match loadImage s v with
  | .error r => .error r
  | .ok (n, g) => if Config.graphMemory < graphBytes s (fld v 55 46) + n then .error 5 else .ok g
/-- GRAPH_LOAD_END (R366): the load in progress ends. -/
def graphLoadEnd (s : State) : Option State :=
  s.loading.map fun v =>
    match loadGraph s v with
    | .error r => { s with loading := none, gload := gloadStatus 3 r }
    | .ok g => { s with loading := none, gload := gloadStatus 2 0, graphs := mset s.graphs (fld v 55 46) g }
/-- GRAPH_LOAD_END (R366). -/
def execGraphLoadEnd (s : State) : Out := .next ((graphLoadEnd s).getD s)
/-- GLOAD (R366): a load begins; a load still in progress ends first (log entry 34). -/
def execGload (v : Nat) (s : State) : Out :=
  hostReg s fun s =>
  let s1 := (graphLoadEnd s).getD s
  { s1 with loading := some v, gload := gloadStatus 1 0 }

/-! ### Runs (R368, R369) -/

/-- A patch entry (R368): node, size, offset, value. -/
abbrev Patch := Nat × Nat × Nat × Nat
/-- The entries of a patch list, or nothing where the list is bad (R368). -/
def readPatches (s : State) (g : Graph) (a : Nat) : Option (List Patch) :=
  if a = 0 then some []
  else match schedRead s g.ctx a 8 with
    | none => none
    | some h =>
      let n := leAt h 0 4
      if 256 < n || leAt h 4 4 != 0 then none
      else match schedRead s g.ctx (a + 8) (16 * n) with
        | none => none
        | some b =>
          allSome ((List.range n).map fun i =>
            let node := leAt b (16 * i) 2
            let size := leAt b (16 * i + 2) 1
            let off := leAt b (16 * i + 4) 4
            if (size = 4 ∨ size = 8) ∧ leAt b (16 * i + 3) 1 = 0 ∧ off % size = 0 ∧ off ≤ 120 - size ∧ node < g.nodes.length then
              some (node, size, off, leAt b (16 * i + 8) size) else none)
/-- A patch applied to the stored parameter blocks. -/
def applyPatch (ns : List Node) (p : Patch) : List Node :=
  ns.modify p.1 fun n =>
    let w := p.2.2.1 / 4
    let pb := n.pb.set w (BitVec.ofNat 32 p.2.2.2)
    { n with pb := if p.2.1 = 8 then pb.set (w + 1) (BitVec.ofNat 32 (p.2.2.2 / 2 ^ 32)) else pb }
/-- GRAPH_RUN_START (R368): the next queued run begins: its patches are applied, or it fails before any node starts. -/
def graphRunStart (s : State) (gid : Nat) : Option State :=
  match mget s.graphs gid with
  | none => none
  | some g =>
    match g.trigs with
    | [] => none
    | t :: rest =>
      if g.run.isSome || g.killed.isSome || (ctxOf s g.ctx).cst != 1 then none
      else
        let run (st : NodeSt) (fail : Option (Nat × Nat)) : Run := { st := g.nodes.map fun _ => st, fail := fail, sg := [], acq := t.acq, rel := [] }
        some (modGraph s gid fun g =>
          match readPatches s g t.patch with
          | some ps => { g with trigs := rest, nodes := ps.foldl applyPatch g.nodes, run := some (run .waiting none) }
          | none => { g with trigs := rest, run := some (run .skipped (some (0xFFFF, 0x0D))) })
/-- GRAPH_RUN_START (R368). -/
def execGraphRunStart (gid : Nat) (s : State) : Out := .next ((graphRunStart s gid).getD s)

/-- The predecessors of a node. -/
def Graph.preds (g : Graph) (node : Nat) : List Nat := (g.edges.filter fun e => e.2 == node).map (·.1)
/-- What a node acquires at its start: what the trigger released and what its predecessors released (R238, R368). -/
def nodeAcq (g : Graph) (r : Run) (node : Nat) : List Vis := (g.preds node).foldl (fun l p => union l (mgetD r.rel p [])) r.acq
/-- A completion word that a launch node may name (R370, R372): aligned and virtual. -/
def wordOk (a : Nat) : Bool := a % 8 == 0 && decide (a + 8 ≤ 2 ^ 52)
/-- A launch node starts (R368): its grid runs at depth 0, or the node fails with cause 0x0D. -/
def startLaunch (s : State) (gid node : Nat) (n : Node) (c : Nat) (acq : List Vis) : State :=
  let a := prmP n.pb 16
  match launchArgs s c n.pb with
  | none => nodeFail s gid node 0x0D
  | some args =>
    if n.fn = 1 && !wordOk a then nodeFail s gid node 0x0D
    else
      let x := newGrid s c args 0 (nodeKey gid node) acq
      { x.2.2 with grids := mset x.2.2.grids x.1 { x.2.1 with node := some (gid, node), arv := if n.fn = 1 then some (a, 0) else none } }
/-- The command of a copy node. -/
def copyKind (fn : Nat) : CmdKind := if fn = 0 then .cpy else if fn = 1 then .cpy2d else .fill
/-- A copy node starts (R368): a command that no group issued, or the node fails with its cause. -/
def startCopy (s : State) (gid node : Nat) (n : Node) (c : Nat) (acq : List Vis) : State :=
  let check := match copyKind n.fn with
    | .cpy => cpyCheck false s 0 n.pb
    | .cpy2d => cpy2dCheck false s 0 n.pb
    | _ => fillCheck false s 0 n.pb
  match check with
  | some cause => nodeFail s gid node cause
  | none =>
    let f := fresh s
    let d : Cmd :=
      { kind := copyKind n.fn, grp := 0, block := 0, grid := 0, ctx := c, core := 0, slot := 0, cls := 0, token := 0, prm := n.pb, arv := none, chosen := [], prog := 0, stalled := false, started := false, members := [], node := some (gid, node), comm := 0, seq := 0, writes := [], ordered := [], data := [], fail := none, save := true }
    markSeen { f.2 with cmds := mset f.2.cmds f.1 d } (agent f.1 1) acq
/-- A stage-graph node starts (R379): its descriptor is bound, and its first firings are ready from then on (R45), or the node fails with cause 0x15. -/
def startStages (s : State) (gid node : Nat) (n : Node) (c : Nat) (acq : List Vis) : State :=
  let result := prmP n.pb 2
  let put (bs : List Byte) (f : State → State) : State :=
    if result % 8 == 0 && schedWritable s c result bs.length then f (loadBytes s c result bs) else nodeFail s gid node 0x15
  if prmW n.pb 7 = 0 then nodeFail s gid node 0x15
  else match bindGraph s c (prmP n.pb 0) result (prmP n.pb 4) (prmW n.pb 6) (prmW n.pb 7) acq with
    | .status st => put (refusedBytes st) fun s => nodeFail s gid node 0x15
    | .ok b => put (resultBytes b) fun s => modStage (modRun (zeroRings s c b.rings) gid fun r => { r with sg := mset r.sg node b }) gid node id
/-- GRAPH_NODE_START (R368): a node starts once every predecessor has completed. -/
def graphNodeStart (s : State) (gid node : Nat) : Option State :=
  match mget s.graphs gid with
  | none => none
  | some g =>
    match g.run, g.nodes[node]? with
    | some r, some n =>
      let due := r.st[node]? == some .waiting && (g.preds node).all fun p => r.st[p]? == some .completed
      let room := n.kind != 0 || decide (liveGrids s g.ctx < 4096)
      if !due || !room || g.killed.isSome || (ctxOf s g.ctx).cst != 1 then none
      else
        let acq := nodeAcq g r node
        let s1 := modRun s gid fun r => { r with st := r.st.set node .running }
        some (if n.kind = 0 then startLaunch s1 gid node n g.ctx acq
          else if n.kind = 1 then startCopy s1 gid node n g.ctx acq
          else startStages s1 gid node n g.ctx acq)
    | _, _ => none
/-- GRAPH_NODE_START (R368). -/
def execGraphNodeStart (gid node : Nat) (s : State) : Out := .next ((graphNodeStart s gid node).getD s)
/-- A completion record stored with strong stores, RUN last, and its vector raised (R369). -/
def putRecord (s : State) (g : Graph) (status node cause : Nat) (ids : List Vis) : State :=
  let bs := leBytes 4 (g.runs + 1) ++ leBytes 2 status ++ leBytes 2 node ++ leBytes 1 cause ++ leBytes 23 0
  let pub : Published := { scope := .sys, blk := 0, clu := 0, ctx := g.ctx, ids := ids, eng := false }
  let put (s : State) (i : Nat) : State :=
    match resolve s g.ctx (g.crec + 4 * i) 1 with
    | .ok pa => putUnit s hostAgent g.ctx pa (some (g.crec + 4 * i)) ((bs.drop (4 * i)).take 4) true [pub]
    | .error _ => s
  let s1 := [1, 2, 3, 4, 5, 6, 7, 0].foldl put s
  { s1 with msix := s1.msix ++ [g.vec] }
/-- One run of a graph ended with its record (R369). -/
def endRun (s : State) (gid : Nat) (g : Graph) (status node cause : Nat) (ids : List Vis) : State :=
  let s1 := modGraph (putRecord s g status node cause ids) gid fun g => { g with runs := g.runs + 1 }
  if status = 0 then s1 else { s1 with graphStat := statFailed s1.graphStat }
/-- Every node of a run has completed, failed or been skipped. -/
def Run.over (r : Run) : Bool := r.st.all fun x => x = .completed || x = .failed || x = .skipped
/-- GRAPH_RUN_COMPLETE (R369): a run that is over, or that a kill has ended, gets its record. -/
def graphRunComplete (s : State) (gid : Nat) : Option State :=
  match mget s.graphs gid with
  | none => none
  | some g =>
    match g.killed with
    | some cause =>
      if g.run.isSome then some (modGraph (endRun s gid g 2 0xFFFF cause []) gid fun g => { g with run := none })
      else (match g.trigs with
        | _ :: rest => some (modGraph (endRun s gid g 2 0xFFFF cause []) gid fun g => { g with trigs := rest })
        | [] => some (modGraph s gid fun g => { g with killed := none }))
    | none =>
      match g.run with
      | some r =>
        if r.over && (ctxOf s g.ctx).cst == 1 then
          let ids := r.rel.foldl (fun l x => union l x.2) r.acq
          let s1 := match r.fail with
            | some (node, cause) => endRun s gid g 1 node cause ids
            | none => endRun s gid g 0 0xFFFF 0 ids
          some (modGraph s1 gid fun g => { g with run := none })
        else none
      | none => none
/-- GRAPH_RUN_COMPLETE (R369). -/
def execGraphRunComplete (gid : Nat) (s : State) : Out := .next ((graphRunComplete s gid).getD s)

/-! ### `launch` (R370-R372) -/

/-- The block that a completion word names, chosen at the launch (R202). -/
def arvBlock (s : State) (blk a : Nat) : Nat :=
  match place a with | .clus c _ => (clusterBlock s blk c).getD 0 | .virt _ | .bad => 0
/-- The causes of a `launch` (R63, R110, R370, R372). -/
def launchCause (s : State) (g : Group) (arv : Bool) (p : List Word) : Option Nat :=
  let depth := match mget s.grids g.grid with | some gr => gr.depth | none => 0
  lowest [arvCause s g.block (arvAt arv 16 p), causeIf (g.gidx != 0 || decide (10 ≤ depth) || (launchArgs s g.ctx p).isNone) 0x0D]
/-- What launches a child grid, as a number that every run has the same (R334): the parent grid, the group, and the words it has retired. -/
def launchKey (s : State) (g : Group) : Nat :=
  let gid := match mget s.grids g.grid with | some gr => gr.gid.toNat | none => 0
  2 * ((gid * 2 ^ 64 + threadIdx s g 0) * 2 ^ 64 + g.icnt.toNat) + 1
/-- `launch` (R372). -/
def execLaunch (sm arv : Bool) (xd xa : Nat) (s : State) : Out :=
  let n := if arv then 18 else 16
  word s (xd :: (List.range n).map (xa + ·)) fun u g =>
    let p := blockOf s g xa n
    match launchCause s g arv p, launchArgs s g.ctx p with
    | some c, _ => raise s u g c
    | none, none => raise s u g 0x0D
    | none, some a =>
      if 4096 ≤ liveGrids s g.ctx then parkOn s u g .gridRoom
      else
        let depth := match mget s.grids g.grid with | some gr => gr.depth + 1 | none => 0
        let x := newGrid s g.ctx a depth (launchKey s g) (relIds s u g)
        let gr := { x.2.1 with parent := some (g.grid, u), arv := (arvAt arv 16 p).map fun w => (w, arvBlock s g.block w) }
        fin { x.2.2 with grids := mset x.2.2.grids x.1 gr } u sm 4 (writeU s g xd gr.gid)

/-! ### Completion (R65, R249) -/

/-- The update of a grid's completion word, once (R372); where it cannot be made, the launching group takes engine cause 0x09. -/
def completionWord (s : State) (gr : Grid) : State :=
  match gr.arv with
  | none => s
  | some (a, blk) =>
    let fail : State := match gr.parent with
      | some (_, u) => (match mget s.groups u with
        | some g => if g.exited then s else addCause s u { cause := 0x09, token := 0, va := some a, write := true, cmd := none }
        | none => s)
      | none => s
    match arvLoc s gr.ctx a blk with
    | .error _ => fail
    | .ok loc =>
      let clu := match mget s.blocks blk with | some b => clusterNum b.core | none => 0
      let pub : Published := { scope := .sys, blk := blk, clu := clu, ctx := gr.ctx, ids := gr.allRels, eng := false }
      (arriveAt (touchPa s gr.ctx loc) hostAgent gr.ctx loc [pub]).getD fail
/-- GRID_COMPLETE (R65): the completion word, the graph node, the firing, the event task and the parent learn of it. -/
def gridComplete (s : State) (grid : Nat) : Option State :=
  match mget s.grids grid with
  | none => none
  | some gr =>
    if !gridDone s grid gr || (ctxOf s gr.ctx).cst != 1 then none
    else
      let s1 := firingOver (completionWord s gr) gr grid
      let s2 := { s1 with grids := mdel s1.grids grid }
      let s3 := match gr.parent with | some (p, _) => modGrid s2 p fun x => { x with more := union x.more gr.allRels } | none => s2
      let s4 := match gr.node with | some (gid, node) => nodeDone s3 gid node gr.allRels | none => s3
      some (match gr.event with | some _ => modCtx s4 gr.ctx fun x => { x with evRun := none } | none => s4)
/-- GRID_COMPLETE (R65). -/
def execGridComplete (grid : Nat) (s : State) : Out := .next ((gridComplete s grid).getD s)
/-- COPY_COMPLETE (R249, R368): a copy command makes its next piece, or its arrival and completion; a copy node's command ends its node. -/
def copyComplete (s : State) (id : Nat) : Option State :=
  match mget s.cmds id with
  | none => none
  | some d =>
    match d.node with
    | none => copyStep s id
    | some (gid, node) =>
      match d.fail with
      | some cause => some (nodeFail { s with cmds := mdel s.cmds id } gid node cause)
      | none =>
        if d.prog < copyTotal d || !cmdRuns s d then copyStep s id
        else
          let acq := match mget s.graphs gid with | some g => (match g.run with | some r => nodeAcq g r node | none => []) | none => []
          some (nodeDone { s with cmds := mdel s.cmds id } gid node (union acq d.writes))
/-- COPY_COMPLETE (R249). -/
def execCopyComplete (cmd : Nat) (s : State) : Out := .next ((copyComplete s cmd).getD s)

end Sys2Proof.Machine
end

