-- ==== Sys2Proof/Machine/Panel.lean ====
section
/-!
DEFINITION. The panel as the outside sees it: bring-up (R36-R39), power (R27-R31), external links (R20-R26), memory at rest (R326),
BAR2 (R18), alarms and the freeze (R329, R330), monitors (R332).
-/
namespace Sys2Proof.Machine

/-! ### CRC-32 (R23, R36) -/

/-- One bit of the CRC-32 register of IEEE 802.3, reflected. -/
def crcBit (c : Word) : Word := if c.getLsbD 0 then (c >>> 1) ^^^ 0xEDB88320 else c >>> 1
/-- One byte of the CRC-32. -/
def crcByte (c : Word) (b : Nat) : Word :=
  let x := c ^^^ BitVec.ofNat 32 (b % 256)
  crcBit (crcBit (crcBit (crcBit (crcBit (crcBit (crcBit (crcBit x)))))))
/-- CRC-32 of bytes. -/
def crc32 (l : List Nat) : Nat := (l.foldl crcByte 0xFFFFFFFF ^^^ 0xFFFFFFFF).toNat

/-! ### Bring-up (R36-R39) -/

/-- A vector is raised: one MSI-X message (R32). -/
def raiseVector (s : State) (r : Word) : State := if r.msb then { s with msix := s.msix ++ [r.toNat % 2 ^ 11] } else s
/-- A unit of a die exists (R36, R37): core, cache slice, mesh link or matrix engine. -/
def unitThere (die kind unit : Nat) : Bool :=
  match kind with
  | 0 => isCoreDie die && decide (unit < 960)
  | 1 => isMemDie die && unit == 0
  | 2 => decide (die < 384) && (neighbour die unit).isSome
  | 3 => isCoreDie die && decide (unit < 240)
  | _ => false
/-- A harvest record that names a unit which exists: die, kind, unit (R36, R37). -/
def harvestUnit (r : List Nat) : Option (Nat × Nat × Nat) :=
  let b := asBytes r
  let die := leAt b 4 2
  let kind := leAt b 6 1
  let unit := leAt b 8 2
  if leAt b 0 4 != 0 && leAt b 12 4 == crc32 (r.take 12) && unitThere die kind unit then some (die, kind, unit) else none
/-- A harvest record that bring-up ignores and reports (R36, R37): it fails its check, or names no unit that exists. -/
def harvestIgnored (r : List Nat) : Bool := leAt (asBytes r) 0 4 != 0 && (harvestUnit r).isNone
/-- Both ends of a mesh link go down (R37). -/
def downEnds (die edge : Nat) : List (Nat × Nat) := match neighbour die edge with | some d => [(die, edge), (d, (edge + 2) % 4)] | none => []
/-- A unit taken out of service (R36, R37): an engine goes with the last core of its cluster by R14. -/
def retireUnit (s : State) (u : Nat × Nat × Nat) : State :=
  match u.2.1 with
  | 0 => { s with retiredCores := if s.retiredCores.contains (u.1, u.2.2) then s.retiredCores else (u.1, u.2.2) :: s.retiredCores }
  | 1 => { s with retiredSlices := union s.retiredSlices [u.1] }
  | 2 => { s with downLinks := s.downLinks ++ (downEnds u.1 u.2.2).filter fun e => !s.downLinks.contains e }
  | _ => { s with retiredEngines := if s.retiredEngines.contains (u.1, u.2.2) then s.retiredEngines else (u.1, u.2.2) :: s.retiredEngines }
/-- The dies that a set reaches over links in use in one more hop. -/
def spread (lost : List Nat) (down : List (Nat × Nat)) (l : List Nat) : List Nat :=
  l.foldl (fun acc d => [0, 1, 2, 3].foldl (fun acc e =>
    match neighbour d e with
    | some n => if lost.contains n || down.contains (d, e) || acc.contains n then acc else acc ++ [n]
    | none => acc) acc) l
/-- What n rounds of spreading reach; it stops once nothing is added. -/
def reachIn (lost : List Nat) (down : List (Nat × Nat)) : Nat → List Nat → List Nat
  | 0, l => l
  | n + 1, l => let m := spread lost down l; if m.length = l.length then l else reachIn lost down n m
/-- Every core die in use has a path to a host-link die (R39). -/
def connected (lost : List Nat) (down : List (Nat × Nat)) : Bool :=
  let r := reachIn lost down 384 ([168, 215].filter fun d => !lost.contains d)
  (List.range 384).all fun d => !isCoreDie d || lost.contains d || r.contains d
/-! ### External links (R20-R26) -/

/-- The die that bears a link (R20). -/
def linkDie : Link → Nat
  | .host h => if h = 0 then 168 else 215
  | .cxl k => portDies.getD k 0
  | .peer k => portDies.getD k 0
  | .mesh d _ => d
/-- A link of the panel with a `LINK_STATUS` (R20, R26): a mesh link has none. -/
def linkThere : Link → Bool
  | .host h => decide (h < 2)
  | .cxl k => decide (k < 32)
  | .peer k => decide (k < 32)
  | .mesh _ _ => false
/-- A mesh link in use: a die of the panel not lost, a neighbour at its edge, neither end down (R11, R37). -/
def meshUp (s : State) (d e : Nat) : Bool :=
  decide (d < 384) && !s.lostDies.contains d && !s.downLinks.contains (d, e)
    && (match neighbour d e with | some n => !s.lostDies.contains n | none => false)
/-- A mesh link has retrained: its die posts event 2, ARG0 the edge (R324). Nothing else of the machine changes (log entry 57). -/
def meshRetrain (s : State) (d e : Nat) : State := if meshUp s d e then postAll s 2 d e 0 else s
/-- The value of `LINK_STATUS` of a link (R26). -/
def linkStatus (s : State) (l : Link) : Word := match s.links.find? fun e => e.1 == l with | some e => e.2 | none => 0
/-- `LINK_STATUS` of a link set; a change of STATE raises the link interrupt (R26). -/
def setLink (s : State) (l : Link) (w : Word) : State :=
  let s1 := { s with links := (l, w) :: s.links.filter fun e => e.1 != l }
  if (linkStatus s l).toNat / 2 ^ 30 = w.toNat / 2 ^ 30 then s1 else raiseVector s1 s.irqLink
/-- A peer link as its first training leaves it (R24). The spec gives no first sequence number: both ends start at 0, and ACK names 4,095
before anything has come (log entry 57). -/
def PeerLink.trained : PeerLink :=
  { sendSeq := 0, recvSeq := 0, window := [], credits := [256, 256, 256, 256], replays := [], gap := false, ask := none, owed := [0, 0, 0, 0], out := [] }
/-- A peer link as a later training leaves it (R24): fresh credits, and every unacknowledged flit sent again. -/
def PeerLink.retrained (p : PeerLink) : PeerLink :=
  { p with credits := [256, 256, 256, 256], replays := [], gap := false, ask := none, owed := [0, 0, 0, 0], out := p.out ++ p.window.map (·.2) }
/-- A peer link trains: for the first time, or again, which its die then posts (R24, R324). -/
def trainPeer (s : State) (k : Nat) : State :=
  match mget s.peers k with
  | some p => postAll { s with peers := mset s.peers k p.retrained } 2 (portDies.getD k 0) (0x100 + k) 0
  | none => { s with peers := mset s.peers k PeerLink.trained }
/-- The change of an external link (R26): WIDTH and RATE read 0 unless the link is up; a port of a lost or offline die stays disabled (R25). While a CXL link
is not up its expander counts as having no capacity, so that its window is unmapped (R17; log entry 57). -/
def linkStateChange (s : State) (l : Link) (st width rate reason cap : Nat) : State :=
  let dead := s.lostDies.contains (linkDie l) || s.offDies.contains (linkDie l)
  if !linkThere l || 4 ≤ st then s
  else if dead then setLink s l (BitVec.ofNat 32 (2 * 2 ^ 30 + 2))
  else
    let w := st * 2 ^ 30 + (if st = 1 then width % 256 * 2 ^ 16 + rate % 256 * 2 ^ 8 else 0) + reason % 256
    let was := (linkStatus s l).toNat / 2 ^ 30
    let s1 := setLink s l (BitVec.ofNat 32 w)
    match l with
    | .host _ | .mesh _ _ => s1
    | .cxl k => { s1 with cxlCap := mset s1.cxlCap k (if st = 1 then min cap 0x8000000000 else 0) }
    | .peer k => if st = 1 && was != 1 then trainPeer s1 k else s1
/-- LINK_STATE_CHANGE (R26). No row names a mesh link's retraining (R324): the model takes it as a change of a mesh link to STATE 1 (log entry 57). -/
def execLinkStateChange (link : Link) (st width rate reason cap : Nat) (s : State) : Out :=
  match link with
  | .mesh d e => .next (if st = 1 then meshRetrain s d e else s)
  | _ => .next (linkStateChange s link st width rate reason cap)
/-- The ports of a die go down with it (R25): those of an offlined die too read STATE 2 with REASON 2, and a CXL port has no capacity left
(R17, R26; log entry 57). -/
def portsDown (s : State) (d : Nat) : State :=
  ((List.range 2).map Link.host ++ (List.range 32).map Link.cxl ++ (List.range 32).map Link.peer).foldl (fun s l =>
    if linkDie l = d then
      let s1 := setLink s l (BitVec.ofNat 32 (2 * 2 ^ 30 + 2))
      match l with | .cxl k => { s1 with cxlCap := mset s1.cxlCap k 0 } | .host _ | .peer _ | .mesh _ _ => s1
    else s) s

/-! ### Memory at rest (R326) -/

/-- The runs of physical bytes that a page takes. -/
def Page.runs (p : Page) : List (Nat × Nat) :=
  let n := if p.il then 2 ^ p.ilw else 1
  (List.range n).map fun i => (p.frame * 65536 + i * 0x400000000, p.size / n)
/-- The runs of a resident vault's frames, each with the vault's memory key. -/
def vaultRuns (s : State) : List (List Nat × Nat × Nat) :=
  (s.ctxs.filter fun e => e.2.vault && e.2.cst != 0).flatMap fun e =>
    ((mappedPages s e.1).flatMap fun p => p.2.runs).map fun r => (e.2.vkeys.getD 0 [], r.1, r.2)
/-- A granule as its memory holds it: 256 bytes encrypted under a key, the physical address the tweak. -/
def sealedGranule (s : State) (key : List Nat) (a : Nat) : List Byte :=
  let c := Config.xts key a ((Memory.readN s.mem a 256).map (·.toNat))
  (List.range 256).map fun i => BitVec.ofNat 8 (c.getD i 0)
/-- The bytes of runs as memory holds them. `State.mem` is what the dies see, which is clear (R326; log entry 59). -/
def atRest (s : State) (rs : List (List Nat × Nat × Nat)) : List Host.Cell :=
  rs.foldl (fun m r => (List.range (r.2.2 / 256)).foldl (fun m i => Memory.writeN m (r.2.1 + 256 * i) (sealedGranule s r.1 (r.2.1 + 256 * i))) m) s.mem

/-! ### Power-on (R38) -/

/-- The external links of the panel with their places. -/
def allLinks : List (Link × Nat) :=
  ((List.range 2).map fun h => (.host h, h)) ++ ((List.range 32).map fun k => (.cxl k, 2 + k)) ++ (List.range 32).map fun k => (.peer k, 34 + k)
/-- One link trained at bring-up (R21, R22, R26): up, disabled where a CXL port meets no Type-3 expander, failed, or down with nothing
attached. -/
def trainLink (s : State) (l : Link × Nat) : State :=
  let x := Config.training s.free l.2
  let wide := if x / 4 % 2 = 0 then 16 else 8
  let fast := if x / 8 % 2 = 0 then 128 else 64
  match x % 4, l.1 with
  | 0, .host _ => linkStateChange s l.1 1 wide fast 0 0
  | 0, .cxl _ => linkStateChange s l.1 1 wide 64 0 (x / 16)
  | 0, .peer _ => linkStateChange s l.1 1 16 224 0 0
  | 1, .cxl _ => linkStateChange s l.1 2 0 0 1 0
  | 2, _ => linkStateChange s l.1 0 0 0 3 0
  | _, _ => linkStateChange s l.1 0 0 0 0 0
/-- Stage 6: every external link trains. -/
def trainLinks (s : State) : State := allLinks.foldl trainLink s
/-- POWER_ON (R38): stages 1 to 7 in one event. `lost` are the dies that fail stage 2, `down` the links that fail stage 3, as die × 4 + edge.
What outlives the power is the harvest log in its flash, the fuses, and the CXL tier with its checkpoints. What comes of each link's
training is open (log entries 25, 57). The harvest log is applied, and later appended to, also when memory-die index 0, through which R36 has it
reached, is lost: the spec is silent (log entry 51). -/
def powerOn (s : State) (lost down : List Nat) : State :=
  let lost := dedup (lost.filter fun d => decide (d < 384))
  let down := down.flatMap fun x => downEnds (x / 4) (x % 4)
  let again := s.ready || s.frozen
  let s0 := { State.reset with
    grade := s.grade, sites := s.sites, harvest := s.harvest, ckpts := s.ckpts, fw := s.fw, inputs := s.inputs, free := s.free
    nextUid := s.nextUid, hostData := s.hostData, msix := s.msix, fwMeas := Config.sha3 (s.fw.map (·.toNat))
    mem := (atRest s (vaultRuns s)).filter fun c => decide (cxlBase ≤ c.1) && decide (c.1 < 2 ^ 52)
    irqReady := if again then State.reset.irqReady else s.irqReady, irqPower := if again then State.reset.irqPower else s.irqPower
    irqPgreq := if again then State.reset.irqPgreq else s.irqPgreq, irqLink := if again then State.reset.irqLink else s.irqLink
    lostDies := lost, lostd := min lost.length 255, downLinks := down, reports := s.harvest.filter harvestIgnored }
  let s0 := lost.foldl portsDown s0
  if !connected lost [] then { s0 with stage := 2 }
  else if !connected lost down then { s0 with stage := 3 }
  else
    let s1 := (s.harvest.filterMap harvestUnit).foldl retireUnit s0
    let t := trainLinks s1
    raiseVector { s1 with links := t.links, cxlCap := t.cxlCap, peers := t.peers, msix := t.msix, stage := 7, ready := true } s1.irqReady
/-- POWER_ON (R38). -/
def execPowerOn (lost down : List Nat) (s : State) : Out := .next (powerOn s lost down)

/-! ### Power (R27-R31) -/

/-- What stands in a region's queue still has a start to come: a launch with a block to place, a queued phase (R29). -/
def startLeft (s : State) (x : Nat) : Bool :=
  match mget s.grids x with
  | some gr => decide (gr.started.length < gr.size)
  | none => match mget s.blocks x with | some b => b.st == .queued || (b.st == .saved && !b.record.isEmpty) | none => false
/-- The queue of a region at a step boundary (R29): what has no start to come leaves it, and the launches whose offset has run by now join it,
behind all others. -/
def regionQueue (s : State) (n steps : Nat) (r : Region) : List Nat :=
  let q := r.queue.filter (startLeft s)
  q ++ (s.grids.filter fun e => startLeft s e.1 && !q.contains e.1 && e.2.startAt.any fun p => p.1 == n && decide (p.2 ≤ steps)).map (·.1)
/-- The starts in a region's queue that limits have held back, at a step boundary (R29): those of a step whose gate is full, and those held
before, while they wait (log entry 45). -/
def regionHeld (s : State) (n : Nat) (r : Region) : List Nat :=
  let full := !((List.range 384).any fun d => regionOfDie d == n && gateOpen s d)
  r.queue.filter fun x => (full || r.held.contains x) && startWaits s n x
/-- POWER_STEP (R28, R29): a step boundary of a region: pending writes take effect, the input current is sampled, the gate starts anew. -/
def powerStep (s : State) (n cur : Nat) : State :=
  if 16 ≤ n then s
  else modRegion s n fun r =>
    { r with
      cstep := r.pendCstep.getD r.cstep, clk := r.pendClk.getD r.clk, pendCstep := none, pendClk := none
      latch := r.latch && !(r.pendDroop && !r.alarm), pendDroop := false, steps := r.steps + 1, current := cur, admitted := 0
      queue := regionQueue s n (r.steps + 1) r, held := regionHeld s n r }
/-- POWER_STEP (R29). -/
def execPowerStep (region current : Nat) (s : State) : Out := .next (powerStep s region current)
/-- DROOP_ALARM (R30, R31): the alarm sets, its latch with it; a rising alarm raises the power interrupt. -/
def droopAlarm (s : State) (n : Nat) : State :=
  if 16 ≤ n || (regionOf s n).alarm then s
  else raiseVector (modRegion s n fun r => { r with alarm := true, latch := true }) s.irqPower
/-- DROOP_ALARM (R30). -/
def execDroopAlarm (region : Nat) (s : State) : Out := .next (droopAlarm s region)
/-- DROOP_ALARM_CLEAR (R30): the alarm clears and the HOLD count starts. -/
def droopClear (s : State) (n : Nat) : State :=
  if 16 ≤ n || !(regionOf s n).alarm then s
  else modRegion s n fun r => { r with alarm := false, hold := r.clk.toNat / 2 ^ 8 % 256 }
/-- DROOP_ALARM_CLEAR (R30). -/
def execDroopAlarmClear (region : Nat) (s : State) : Out := .next (droopClear s region)
/-- SLOW_HOLD_EXPIRE (R30): HOLD steps after the alarm cleared, the slowing ends. -/
def slowHoldExpire (s : State) (n : Nat) : State :=
  if 16 ≤ n || (regionOf s n).alarm then s else modRegion s n fun r => { r with hold := 0 }
/-- SLOW_HOLD_EXPIRE (R30). -/
def execSlowHoldExpire (region : Nat) (s : State) : Out := .next (slowHoldExpire s region)
/-- The clocks of a region run slowed (R30). -/
def slowed (r : Region) : Bool := r.alarm || decide (0 < r.hold) || r.clk.getLsbD 16
/-- PWR_DROOP_WRITE (R28, R31): ones ask for latches to clear, at each region's next step boundary. -/
def pwrDroopWrite (s : State) (v : Nat) : State :=
  (List.range 16).foldl (fun s n => if bit v (16 + n) then modRegion s n fun r => { r with pendDroop := true } else s) s
/-- PWR_DROOP_WRITE (R31). -/
def execPwrDroopWrite (v : Nat) (s : State) : Out := hostReg s fun s => pwrDroopWrite s v

/-! ### Peer flits (R23, R24) -/

/-- A credit-only flit (R24): credits for the four channels and the replay word. -/
def creditFlit (dp sp : Nat) (cred : List Nat) (rpl seq ack : Nat) : List Nat :=
  let head := ((leBytes 2 dp ++ leBytes 2 sp ++ leBytes 1 4 ++ leBytes 1 0 ++ leBytes 2 10).map (·.toNat))
  let pay := (((List.range 4).flatMap fun i => leBytes 2 (cred.getD i 0)) ++ leBytes 2 rpl).map (·.toNat)
  let body := head ++ pay ++ List.replicate 230 0
  body ++ ((leBytes 4 (crc32 body) ++ leBytes 2 seq ++ leBytes 2 ack).map (·.toNat))
/-- A link sends a credit-only flit, while its window has room (R23, R24). -/
def PeerLink.send (p : PeerLink) (dp sp : Nat) (cred : List Nat) (rpl : Nat) : PeerLink :=
  if 2048 ≤ p.window.length then p
  else
    let f := creditFlit dp sp cred rpl p.sendSeq ((p.recvSeq + 4095) % 4096)
    { p with sendSeq := (p.sendSeq + 1) % 4096, window := p.window ++ [(p.sendSeq, f)], out := p.out ++ [f] }
/-- The link asks for a replay from a sequence number on (R24); a full window keeps the request waiting. -/
def PeerLink.askReplay (p : PeerLink) (dp sp rs : Nat) : PeerLink :=
  if 2048 ≤ p.window.length then { p with ask := some rs } else { p.send dp sp [0, 0, 0, 0] (2 ^ 15 + rs) with ask := none }
/-- A flit with any other SEQ than the expected one (R24): the first after a gap asks for a replay from the expected number. -/
def PeerLink.outOfOrder (p : PeerLink) (dp sp : Nat) : PeerLink :=
  if !p.gap then { p with gap := true }.askReplay dp sp p.recvSeq
  else match p.ask with
    | some rs => p.askReplay dp sp rs
    | none => p
/-- A flit that fails its CRC check (R23): the request names the flit's own SEQ. Where that is the expected one, a gap is met with it, so that the
flits which follow ask for nothing more. -/
def PeerLink.badCrc (p : PeerLink) (dp sp seq : Nat) : PeerLink := { p with gap := p.gap || seq == p.recvSeq }.askReplay dp sp seq
/-- An ACK read against the window (R24): flits up to it leave; one that names no flit is ignored. -/
def PeerLink.acked (p : PeerLink) (a : Nat) : PeerLink :=
  match p.window.findIdx? fun w => w.1 == a with
  | some i =>
    let rest := p.window.drop (i + 1)
    { p with window := rest, replays := p.replays.filter fun r => rest.any fun w => w.1 == r.1 }
  | none => p
/-- Credits owed are returned in one credit-only flit (R24). -/
def PeerLink.payBack (p : PeerLink) (dp sp : Nat) : PeerLink :=
  if p.owed.all (· == 0) || 2048 ≤ p.window.length then p else { p.send dp sp p.owed 0 with owed := [0, 0, 0, 0] }
/-- A credit-only flit received (R24): credits come back; a replay request sends the window again from its number. A request whose RS names no
flit of the window sends nothing again, and is no replay of any flit: the spec is silent (log entry 57). -/
def PeerLink.credit (p : PeerLink) (b : List Byte) : PeerLink :=
  let p1 := { p with credits := (List.range 4).map fun i => p.credits.getD i 0 + leAt b (8 + 2 * i) 2 }
  let rpl := leAt b 16 2
  if rpl < 2 ^ 15 then p1
  else
    let again := match p1.window.findIdx? fun w => w.1 == rpl % 4096 with | some i => p1.window.drop i | none => []
    { p1 with replays := again.foldl (fun m w => mset m w.1 (mgetD m w.1 0 + 1)) p1.replays, out := p1.out ++ again.map (·.2) }
/-- One of the link's flits has been replayed 16 times, and none of them was acknowledged (R23). -/
def PeerLink.worn (p : PeerLink) : Bool := p.replays.any fun r => decide (16 ≤ r.2)
/-- The posts of a signal flit (R23, R362). -/
def signalPosts (s : State) (port : Nat) (b : List Byte) (len : Nat) : State :=
  let v (i : Nat) : Nat := leAt b (8 + 16 * i) 16
  if len % 16 != 0 then (let c := fld (v 0) 93 88; if (ctxOf s c).cst = 0 then s else count s c cPOSTBAD 1)
  else (List.range (len / 16)).foldl (fun s i => takePost s (2 * (port + 2) + 1) (v i)) s
/-- PEER_FLIT_RECEIVE (R23, R24): the CRC, then the sequence, then the contents. The ACK of a flit that only its sequence number discards is
read too; a flit of KIND 0 to 3 whose contents are discarded still returns a credit on its channel, one of KIND 5 to 255 returns none; the
credits and the replay word of a KIND 4 flit whose VCH is not 0 or whose LEN is not 10 are discarded (log entry 57). -/
def peerFlit (s : State) (port : Nat) (flit : List Nat) : State :=
  if (linkStatus s (.peer port)).toNat / 2 ^ 30 != 1 || flit.length != 256 then s
  else match mget s.peers port with
    | none => s
    | some p =>
      let b := asBytes flit
      let put (s : State) (p : PeerLink) : State := { s with peers := mset s.peers port p }
      let dp := leAt b 2 2
      let sp := leAt b 0 2
      if leAt b 248 4 != crc32 (flit.take 248) then put s (p.badCrc dp sp (leAt b 252 2 % 4096))
      else if leAt b 252 2 % 4096 != p.recvSeq then
        put s ((p.acked (leAt b 254 2 % 4096)).outOfOrder dp sp)
      else
        let p1 := { p.acked (leAt b 254 2 % 4096) with recvSeq := (p.recvSeq + 1) % 4096, gap := false, ask := none }
        let kind := leAt b 4 1
        let vch := leAt b 5 1
        let len := leAt b 6 2
        if kind = 4 then put s ((if vch = 0 && len = 10 then p1.credit b else p1).payBack dp sp)
        else if 4 < kind then put s p1
        else
          let p2 := { p1 with owed := if vch < 4 then p1.owed.set vch (p1.owed.getD vch 0 + 1) else p1.owed }
          let s1 := put s (p2.payBack dp sp)
          if kind = 3 && vch = 3 && len ≤ 240 then signalPosts s1 port b len else s1
/-- PEER_FLIT_RECEIVE (R24). -/
def execPeerFlitReceive (port : Nat) (flit : List Nat) (s : State) : Out := .next (peerFlit s port flit)
/-- PEER_LINK_RETRAIN (R23, R24): after 16 replays of one flit: fresh credits, every unacknowledged flit again, and the event. R26 does not
say whether STATE passes through 3 meanwhile: the model leaves it at 1, and no link interrupt is raised (log entry 57). -/
def peerRetrain (s : State) (port : Nat) : Option State :=
  match mget s.peers port with
  | some p => if !p.worn || (linkStatus s (.peer port)).toNat / 2 ^ 30 != 1 then none else some (trainPeer s port)
  | none => none
/-- PEER_LINK_RETRAIN (R23). -/
def execPeerLinkRetrain (port : Nat) (s : State) : Out := .next ((peerRetrain s port).getD s)

/-! ### BAR2 (R18, R325) -/

/-- The physical address of a BAR2 offset that reaches memory (R18): not a reserve, not an unmapped byte. -/
def bar2Addr (s : State) (o : Nat) : Option Nat :=
  let pa := if o < dramEnd then o else if 0x200000000000 ≤ o ∧ o < 0x200000000000 + 2 ^ 44 then cxlBase + (o - 0x200000000000) else 2 ^ 52
  if pa < 2 ^ 52 && physMapped s pa && !inReserve pa then some pa else none
/-- A byte that the host reads (R18, R325); poisoned bytes read as 0xFF (log entry 35). -/
def hostByte (s : State) (o : Nat) : Byte :=
  match bar2Addr s o with
  | some pa => if vaultFrame s pa none || poisoned s pa then 0xFF else Memory.read s.mem pa
  | none => 0xFF
/-- BAR2_READ (R18): what the host reads lies in `hostData`. -/
def bar2Read (s : State) (off len : Nat) : State :=
  { s with hostData := (List.range len).map fun i => if s.ready && !s.frozen then hostByte s (off + i) else 0xFF }
/-- BAR2_READ (R18). -/
def execBar2Read (off len : Nat) (s : State) : Out := .next (bar2Read s off len)
/-- REFUSED of `SEC_STATUS` raised by one, saturating (R329). -/
def refused1 (s : State) : State := { s with secRefused := min 0xFFFF (s.secRefused + 1) }
/-- A byte that the host writes (R18, R238): a store of the host at `.sys`, for each byte its own unit. R21 orders the arrivals of two writes of
one link; whether this orders them also for a group that polls and acquires neither is open: such a group may miss the earlier one (log entry 51). -/
def hostStore (s : State) (o : Nat) (b : Byte) : State :=
  match bar2Addr s o with
  | some pa => if vaultFrame s pa none || poisoned s pa then s else putUnit s hostAgent 64 pa none [b] false []
  | none => s
/-- BAR2_WRITE (R18, R325): a write that meets a vault frame is discarded there, and counted. -/
def bar2Write (s : State) (off : Nat) (bytes : List Nat) : State :=
  let vault := (List.range bytes.length).any fun i => match bar2Addr s (off + i) with | some pa => vaultFrame s pa none | none => false
  let s1 := ((List.range bytes.length).zip bytes).foldl (fun s p => hostStore s (off + p.1) (BitVec.ofNat 8 p.2)) s
  if vault then refused1 s1 else s1
/-- BAR2_WRITE (R18). -/
def execBar2Write (off : Nat) (bytes : List Nat) (s : State) : Out := hostReg s fun s => bar2Write s off bytes

/-! ### Monitors (R332) -/

/-- A monitor nobody has set: the bins have no reset value in the spec (log entry 3). -/
def Monitor.idle : Monitor := { ctl := 0, min := 0xFFFFFFFF, max := 0, bins := List.replicate 32 0 }
/-- A monitor by die × 16 + number. -/
def monitorOf (s : State) (n : Nat) : Monitor := mgetD s.monitors n Monitor.idle
/-- MON_CLEAR (R332). -/
def monClear (s : State) (die mon : Nat) : State :=
  if 384 ≤ die || 16 ≤ mon then s
  else { s with monitors := mset s.monitors (die * 16 + mon) { monitorOf s (die * 16 + mon) with min := 0xFFFFFFFF, max := 0, bins := List.replicate 32 0 } }
/-- MON_CLEAR (R332). -/
def execMonClear (die mon : Nat) (s : State) : Out := hostReg s fun s => monClear s die mon

/-! ### Alarms and the freeze (R329, R330) -/

/-- The keys of every resident vault erased. -/
def eraseKeys (s : State) : State := { s with ctxs := s.ctxs.map fun (e : Nat × Ctx) => if e.2.vault then (e.1, { e.2 with keys := false, vkeys := [] }) else e }
/-- The resident vaults that are not killed yet. -/
def liveVaults (s : State) : List Nat := (s.ctxs.filter fun e => e.2.vault && (e.2.cst == 1 || e.2.cst == 2)).map (·.1)
/-- SECURITY_ALARM (R329): the latch sets; by policy the keys of the vaults go and the vaults are killed with cause 0x16. -/
def securityAlarm (s : State) (src : Nat) : State :=
  if 5 ≤ src then s
  else
    let s1 := { s with secAlarm := s.secAlarm ||| BitVec.ofNat 32 (2 ^ src), secAsserted := union s.secAsserted [src] }
    if s.secPolicy.getLsbD src then (liveVaults s1).foldl (fun s c => kill s c 0x16) (eraseKeys s1) else s1
/-- SECURITY_ALARM (R329). -/
def execSecurityAlarm (src : Nat) (s : State) : Out := .next (securityAlarm s src)
/-- ALARM_SOURCE_END (R329). -/
def execAlarmSourceEnd (src : Nat) (s : State) : Out := .next { s with secAsserted := s.secAsserted.filter (· != src) }
/-- SEC_STATUS_WRITE (R329): ones clear latches whose source has ended; CLRCNT clears REFUSED. -/
def secStatusWrite (s : State) (v : Nat) : State :=
  let clr := (List.range 5).foldl (fun m i => if bit v i && !s.secAsserted.contains i then m + 2 ^ i else m) 0
  { s with secAlarm := s.secAlarm &&& ~~~(BitVec.ofNat 32 clr), secRefused := if bit v 15 then 0 else s.secRefused }
/-- SEC_STATUS_WRITE (R329). -/
def execSecStatusWrite (v : Nat) (s : State) : Out := hostReg s fun s => secStatusWrite s v
/-- The freeze (R330): the keys of every resident vault go, then every clock stops. -/
def freeze (s : State) : State := { eraseKeys s with frozen := true }
/-- SEC_FREEZE (R330). -/
def execSecFreeze (s : State) : Out := hostReg s freeze
/-- FREEZE_LINE (R330). -/
def execFreezeLine (s : State) : Out := .next (freeze s)

end Sys2Proof.Machine
end

