-- ==== Sys2Proof/Machine/Dies.lean ====
section
/-!
DEFINITION. Dies as fault domains (R319-R323, R36, R37, R364): die loss, planned offlining, corrected errors and harvesting.
-/
namespace Sys2Proof.Machine

/-! ### Page-table entries of an evacuation (R323) -/

/-- The entries of a large page (R210). -/
def Page.entries (p : Page) : Nat := if p.size = 2 ^ 30 then 4 else if p.size = 2 ^ 21 then 32 else 1
/-- The addresses of a page's entries, from its first. -/
def entryAddrs (e : Nat × Page) : List Nat := (List.range e.2.entries).map fun i => e.1 + 8 * i
/-- An entry has its W bit. -/
def entryW (s : State) (a : Nat) : Bool := (readPte s a).w
/-- The W bit of an entry set or cleared. -/
def setEntryW (s : State) (a : Nat) (w : Bool) : State :=
  let b := Memory.read s.mem (a + 7) &&& 0xEF
  { s with mem := Memory.write s.mem (a + 7) (if w then b ||| 0x10 else b) }
/-- Every access that a context has made through a translation performs (R215). -/
def performCtx (s : State) (c : Nat) : State :=
  { s with
    log := s.log.map fun e => if e.ctx == c && e.va.isSome && e.perf.isNone then { e with perf := some s.nextUid } else e
    nextUid := s.nextUid + 1 }
/-- A context's translations are invalidated (R215): its generation rises, no TLB entry and no earlier translation is left, and what used
one has performed; only changes from now on leave a choice again. -/
def invalidate (s : State) (c : Nat) : State :=
  let s1 := modCtx (performCtx s c) c fun x => { x with xgen := (x.xgen + 1) % 2 ^ 32, xinv := s.nextUid, pages := [] }
  { s1 with cores := s1.cores.map fun k => (k.1, { k.2 with tlb := k.2.tlb.filter fun e => e.ctx != c }) }
/-- The pages that have a byte on a memory die: context, first entry, page (R323). -/
def diePages (s : State) (d : Nat) : List (Nat × Nat × Page) :=
  (residents s).flatMap fun c => ((mappedPages s c).filter fun e => onDie e.2 d).map fun e => (c, e)

/-! ### The escrow slice of a die that goes (R364) -/

/-- A slice's episodes and orphans go where R347 now sends their keys, and a learner queue there to the next die. -/
def moveSlice (s : State) (m : Nat) : State :=
  let x := sliceOf s m
  let s1 := { s with slices := mdel s.slices m }
  let s2 := x.episodes.foldl (fun s e =>
    let h := homeOf s e.key
    touchDie (modSlice s h fun y => { y with episodes := y.episodes ++ [e] }) e.ctx (memDie h)) s1
  let s3 := x.orphans.foldl (fun s o =>
    let h := homeOf s o.key
    touchDie (modSlice s h fun y => { y with orphans := y.orphans ++ [o] }) o.ctx (memDie h)) s2
  (residents s3).foldl (fun s c =>
    let n := nextSlice s 192 ((m + 1) % 192)
    if (ctxOf s c).esc.lqhome = m then touchDie (modCtx s c fun y => { y with esc := { y.esc with lqhome := n } }) c (memDie n) else s) s3

/-! ### Planned offlining (R323) -/

/-- The value of `DIE_OFFLINE`. -/
def offStatus (st d : Nat) : Word := BitVec.ofNat 32 (st * 2 ^ 28 + d)
/-- The evacuation starts: the slice moves, W is cleared in every entry of a page with a byte on the die, and translations go. -/
def startEvac (s : State) (d : Nat) : State :=
  let s1 := moveSlice { s with offCtl := offStatus 1 d } (memIndex d)
  let ps := diePages s1 d
  let es := dedup ((ps.flatMap fun p => entryAddrs p.2).filter (entryW s1))
  let s2 := es.foldl (fun s a => setEntryW s a false) { s1 with evac := es }
  (dedup (ps.map (·.1))).foldl invalidate s2
/-- DIE_OFFLINE (R323): ignored while an evacuation runs; refused for a core die, a lost die and the host-link dies, and for a number that
names no die (log entry 28). -/
def dieOffline (s : State) (v : Nat) : State :=
  let d := v % 512
  if evacuating s then s
  else if !isMemDie d || s.lostDies.contains d || d == 168 || d == 215 then { s with offCtl := offStatus 4 d }
  else startEvac s d
/-- DIE_OFFLINE (R323). -/
def execDieOffline (v : Nat) (s : State) : Out := hostReg s fun s => dieOffline s v

/-- The frames that the handlers of a context's groups hold between the pool and an entry (R219). -/
def heldFrames (s : State) (c : Nat) : List Nat :=
  s.groups.filterMap fun e => if e.2.ctx != c then none else match e.2.park with
    | some (.install _ _ f _) | some (.giveBack f) => some f
    | _ => none
/-- The frames in use as ranges of physical bytes: mapped pages, page tables, frames in a pool or on the way from it (log entry 36). -/
def usedRanges (s : State) : List (Nat × Nat) :=
  (residents s).flatMap fun c =>
    let x := ctxOf s c
    let tabs := x.ptroot :: (tableEntries s x.ptroot).flatMap fun e1 =>
      if e1.2.sz != 0 then [] else (e1.2.frame * 65536) :: (tableEntries s (e1.2.frame * 65536)).flatMap fun e2 =>
        if e2.2.sz != 0 then [] else [e2.2.frame * 65536]
    let pages := (mappedPages s c).flatMap fun e =>
      let p := e.2
      let n := if p.il then 2 ^ p.ilw else 1
      (List.range n).map fun i => (p.frame * 65536 + i * 0x400000000, p.frame * 65536 + i * 0x400000000 + p.size / n)
    let rd (va : Nat) : Nat := match schedRead s c va 8 with | some bs => leNat bs | none => 0
    let pool := if x.fpool = 0 then [] else (List.range (min (rd x.fpool.toNat) 65536)).map fun i => rd (x.fpool.toNat + 32 + 8 * i)
    (tabs.map fun t => (t, t + 32768)) ++ pages ++ (pool ++ heldFrames s c).map fun f => (f, f + 65536)
/-- The lowest place for n aligned bytes in a range of addresses that meets no range in use. -/
def freePlace (used : List (Nat × Nat)) (lo hi n : Nat) : Option Nat :=
  let up (a : Nat) : Nat := (a + n - 1) / n * n
  let cand := sortAsc (dedup ((lo :: (used.filter fun r => decide (lo < r.2) && decide (r.2 < hi)).map (·.2)).map up))
  cand.find? fun a => decide (a + n ≤ hi) && used.all fun r => !(decide (a < r.2) && decide (r.1 < a + n))
/-- The dies in order of mesh hops from those of a frontier, each layer ascending, in at most n layers. -/
def hopOrder (lost : List Nat) (down : List (Nat × Nat)) : Nat → List Nat → List Nat
  | 0, l => l
  | n + 1, l =>
    let m := spread lost down l
    if m.length = l.length then l else hopOrder lost down n (l ++ sortAsc (m.drop l.length))
/-- A memory die that gives frames: in service and not degraded (R323). -/
def givesFrames (s : State) (d e : Nat) : Bool :=
  e != d && isMemDie e && !s.lostDies.contains e && !s.offDies.contains e && !s.degraded.contains e
/-- The destination of a page of n bytes that leaves a die (R323): memory dies by hops, then CXL ports in ascending order. -/
def destination (s : State) (d n : Nat) : Option Nat :=
  let used := usedRanges s
  let dies := (hopOrder s.lostDies s.downLinks 384 [d]).filter (givesFrames s d)
  match dies.findSome? fun e => freePlace used (windowBase (memIndex e)) (reserveBase (memIndex e)) n with
  | some a => some a
  | none => (List.range 32).findSome? fun k =>
      let lo := cxlBase + k * 0x8000000000
      freePlace used lo (lo + mgetD s.cxlCap k 0) n
/-- Single bytes of writes named by a moved location. -/
def moveVis (f : Nat → Nat) (l : List Vis) : List Vis := l.map fun v => (v.1, v.2.map f)
/-- The bytes of what was published moved. -/
def movePubs (f : Nat → Nat) (l : List Published) : List Published := l.map fun p => { p with ids := moveVis f p.ids }
/-- A buffer moved. -/
def moveBuf (f : Nat → Nat) (l : List RoundByte) : List RoundByte := l.map fun r => { r with loc := f r.loc }
/-- A log entry moved. -/
def LogEntry.move (f : Nat → Nat) (e : LogEntry) : LogEntry :=
  { e with
    loc := f e.loc, seenAt := e.seenAt.map fun p => (p.1, f p.2)
    readAt := e.readAt.map fun p => (p.1, f p.2.1, p.2.2), pub := movePubs f e.pub }
/-- A group's parks, snapshots and views moved. -/
def Group.move (f : Nat → Nat) (g : Group) : Group :=
  { g with
    pfSnap := g.pfSnap.map fun p => (p.1, moveBuf f p.2), seen := moveVis f g.seen, waited := moveVis f g.waited
    compl := g.compl.map fun p => (p.1, moveVis f p.2), pub := movePubs f g.pub, got := movePubs f g.got
    park := match g.park with
      | some (.bwt a ph sm) => some (.bwt (f a) ph sm)
      | some (.wadr a xd sm w) => some (.wadr (f a) xd sm w)
      | q => q }
/-- A grid's round and views moved. -/
def Grid.move (f : Nat → Nat) (g : Grid) : Grid :=
  { g with
    roundOld := g.roundOld.map fun p => (f p.1, p.2)
    oldBufs := g.oldBufs.map fun p => (p.1, p.2.1, moveBuf f p.2.2)
    acq := moveVis f g.acq, rels := g.rels.map fun p => (p.1, moveVis f p.2), more := moveVis f g.more }
/-- A graph's views moved. -/
def Graph.move (f : Nat → Nat) (g : Graph) : Graph :=
  let sg (x : StageGraph) : StageGraph := { x with done := x.done.map fun d => (d.1, d.2.1, moveVis f d.2.2), acq := moveVis f x.acq }
  { g with
    trigs := g.trigs.map fun t => { t with acq := moveVis f t.acq }
    run := g.run.map fun r => { r with sg := r.sg.map fun p => (p.1, sg p.2), acq := moveVis f r.acq, rel := r.rel.map fun p => (p.1, moveVis f p.2) } }
/-- Every place that the state names moved by a map of physical bytes: the log, objects, parks, buffers, communicators. -/
def relocate (s : State) (f : Nat → Nat) : State :=
  { s with
    log := s.log.map (LogEntry.move f)
    bound := movePubs f s.bound, fenceLog := movePubs f s.fenceLog
    groups := s.groups.map fun e => (e.1, e.2.move f)
    blocks := s.blocks.map fun e => (e.1, { e.2 with rbuf := moveBuf f e.2.rbuf, acq := moveVis f e.2.acq })
    grids := s.grids.map fun e => (e.1, e.2.move f)
    graphs := s.graphs.map fun e => (e.1, e.2.move f)
    cmds := s.cmds.map fun e => (e.1, { e.2 with ordered := moveBuf f e.2.ordered, comm := f e.2.comm, writes := moveVis f e.2.writes }) }
/-- The bytes of a page moved to a die-homed place, with everything that names them; a vault's old frame is zeroed. -/
def movePageBytes (s : State) (p : Page) (vault : Bool) (to_ : Nat) : State :=
  let f (a : Nat) : Nat := if isPhys a && p.holds a then to_ + p.offset a else a
  let cells := s.mem.filter fun c => isPhys c.1 && p.holds c.1
  let m0 := Memory.clear s.mem to_ (to_ + p.size)
  let m1 := if vault then m0.filter fun c => !(isPhys c.1 && p.holds c.1) else m0
  relocate { s with
    mem := cells.foldl (fun m c => Memory.write m (f c.1) c.2) m1
    log := s.log.filter fun e => !(decide (to_ < e.loc + e.old.length) && decide (e.loc < to_ + p.size)) } f
/-- The entries of a page installed anew for a die-homed place, with the rights they had (R323, R210). -/
def installAt (s : State) (e : Nat × Page) (to_ : Nat) : State :=
  let n := e.2.entries
  let step := e.2.size / n
  (List.range n).foldl (fun (s : State) i =>
    let a := e.1 + 8 * i
    let old := leNat (Memory.readN s.mem a 8)
    let v := old - fld old 57 53 * 2 ^ 53 - fld old 51 16 * 2 ^ 16 + (to_ + i * step) / 65536 * 65536
    { s with mem := Memory.writeN s.mem a (leBytes 8 v) }) s
/-- The pages of a die moved one after another, pages that share a frame together; how many are left. -/
def movePages (d : Nat) : Nat → State → List (Nat × Nat × Page) → State × Nat
  | 0, s, ps => (s, ps.length)
  | _ + 1, s, [] => (s, 0)
  | n + 1, s, q :: ps =>
    let p := q.2.2
    let same := (q :: ps).filter fun r => r.2.2.frame == p.frame && r.2.2.size == p.size && r.2.2.il == p.il && r.2.2.ilw == p.ilw
    let rest := (q :: ps).filter fun r => !(r.2.2.frame == p.frame && r.2.2.size == p.size && r.2.2.il == p.il && r.2.2.ilw == p.ilw)
    match destination s d p.size with
    | none => let r := movePages d n s rest; (r.1, r.2 + same.length)
    | some a =>
      let s1 := movePageBytes s p ((ctxOf s q.1).vault) a
      movePages d n (same.foldl (fun s r => installAt s r.2 a) s1) rest
/-- OFFLINE_DONE (R323, R364): the pages move, W comes back, translations go; the die is offline, or the offlining is deferred. A die that is lost
during its evacuation ends deferred (log entry 51). -/
def offlineDone (s0 : State) : Option State :=
  if !evacuating s0 then none
  else
    let s := endEvacuation s0
    let d := s.offCtl.toNat % 512
    let ps := diePages s d
    let r := if s.lostDies.contains d then (s, 1) else movePages d ps.length s ps
    let s1 := { r.1.evac.foldl (fun s a => setEntryW s a true) r.1 with evac := [] }
    let s2 := (dedup (ps.map (·.1))).foldl invalidate s1
    some (if r.2 = 0 then postAll (portsDown { s2 with offCtl := offStatus 2 d, offDies := union s2.offDies [d] } d) 7 d 0 0
      else postAll { s2 with offCtl := offStatus 3 d, degraded := union s2.degraded [d] } 6 d 0 0)
/-- OFFLINE_DONE (R323). -/
def execOfflineDone (s : State) : Out := .next ((offlineDone s).getD s)

/-! ### Die loss (R320, R321, R364) -/

/-- A context has a group that has not exited, or a command. -/
def hasWork (s : State) (c : Nat) : Bool := (s.groups.any fun e => e.2.ctx == c && !e.2.exited) || s.cmds.any fun e => e.2.ctx == c
/-- A group whose lanes lie on a die. -/
def groupOnDie (s : State) (g : Group) (d : Nat) : Bool :=
  match mget s.blocks g.block with | some b => dieOf b.core == d && (b.st == .running || b.st == .queued) | none => false
/-- The groups of a context on a lost die end without a handler; their blocks stay behind and never retire. -/
def endGroups (s : State) (c d : Nat) : State :=
  let s1 : State := { s with groups := s.groups.map fun (e : Nat × Group) =>
    if e.2.ctx = c && groupOnDie s e.2 d then (e.1, { e.2 with exited := true, halted := true, park := none, causes := [] }) else e }
  { s1 with blocks := s1.blocks.map fun (e : Nat × Block) => if e.2.ctx = c && dieOf e.2.core = d && e.2.st = BlockSt.queued then (e.1, { e.2 with st := BlockSt.running, phase := none }) else e }
/-- Every command of a context is abandoned and takes engine cause 0x11, which its group takes (R250, R320); a copy node's command fails. -/
def loseCommands (s : State) (c : Nat) : State :=
  (s.cmds.filter fun e => e.2.ctx == c).foldl (fun s e =>
    match mget s.cmds e.1 with
    | some d =>
      if d.grp = 0 then { s with cmds := mset s.cmds e.1 { d with fail := some 0x11 } }
      else addCause (abandonCmd s e.1 d) d.grp { cause := 0x11, token := d.token, va := none, write := false, cmd := none }
    | none => s) s
/-- A context that a lost die touches (R320): cause 0x11 at every group and command, or the kill when no group has a handler. A group with
commands in flight takes theirs, and no further one of its own (log entry 37). -/
def loseFor (s : State) (d c : Nat) : State :=
  let x := ctxOf s c
  if !(x.cst == 1 || x.cst == 2) || !x.touched.contains d || !hasWork s c then s
  else
    let s1 := endGroups (loseCommands s c) c d
    let live := s1.groups.filter fun e => e.2.ctx == c && !e.2.exited
    if live.all fun e => e.2.uhnd == 0xFFFFFFFF then kill s1 c 0x11
    else
      let idle := live.filter fun e => (groupCmds s e.1).isEmpty
      modCtx (idle.foldl (fun s e => addCause s e.1 { cause := 0x11, token := 0, va := none, write := false, cmd := none, own := true }) s1) c
        fun x => { x with lost := true }
/-- A context that has taken cause 0x11 is killed when no group of it remains outside a user handler (R320). -/
def lossSettle (s : State) : State :=
  (residents s).foldl (fun s c =>
    if (ctxOf s c).lost && s.groups.all fun e => e.2.ctx != c || e.2.exited || e.2.inUser then kill s c 0x11 else s) s
/-- DIE_LOSS (R320, R364): the die is never used again; its slice's contents are lost, and the contexts that it touches take the cause. -/
def dieLoss (s : State) (d : Nat) : State :=
  if !s.ready || s.frozen || decide (384 ≤ d) || s.lostDies.contains d then s
  else
    let s1 := portsDown { s with lostDies := d :: s.lostDies, lostd := min 255 (s.lostd + 1) } d
    let s2 := if isMemDie d then { s1 with slices := mdel s1.slices (memIndex d) } else s1
    let s3 := (residents s2).foldl (fun s c =>
      if isMemDie d && (ctxOf s c).esc.lqhome = memIndex d then modCtx s c fun x => { x with queue := [] } else s) s2
    lossSettle ((residents s3).foldl (fun s c => loseFor s d c) (postAll s3 3 d 0 0))
/-- DIE_LOSS (R320). -/
def execDieLoss (die : Nat) (s : State) : Out := .next (dieLoss s die)

/-! ### Harvesting (R36, R37, R322) -/

/-- THRESH and the window of `HARV_CTL`. -/
def harvThresh (s : State) : Nat := max 1 (s.harvCtl.toNat / 2 ^ 16 % 256)
def harvWindow (s : State) : Nat := 2 ^ min 40 (s.harvCtl.toNat % 64)
/-- The cycles at which a unit's corrected errors were counted, latest first. -/
def errorsOf (s : State) (u : Nat × Nat × Nat) : List Nat :=
  (s.errors.filter fun e => e.1 == u.1 && e.2.1 == u.2.1 && e.2.2.1 == u.2.2).map fun e => e.2.2.2
/-- CORRECTED_ERROR (R322): the error is counted; the THRESH-th within the window marks its unit. -/
def correctedError (s : State) (die kind unit cycle : Nat) : State :=
  if !s.ready || s.frozen || !s.harvCtl.msb || !unitThere die kind unit then s
  else
    let s1 := { s with errors := (die, kind, unit, cycle) :: s.errors }
    let last := (errorsOf s1 (die, kind, unit)).take (harvThresh s)
    let hit := last.length == harvThresh s && decide (cycle - last.foldl min cycle ≤ harvWindow s)
    let n := ((errorsOf s1 (die, kind, unit)).filter fun c => decide (cycle - c ≤ harvWindow s)).length
    if hit && !(s.marked.any fun m => m.1 == die && m.2.1 == kind && m.2.2.1 == unit) then { s1 with marked := s1.marked ++ [(die, kind, unit, n)] } else s1
/-- CORRECTED_ERROR (R322). -/
def execCorrectedError (die kind unit cycle : Nat) (s : State) : Out := .next (correctedError s die kind unit cycle)
/-- A context could use a unit (R322): a core or an engine of its partition, a cache slice or a mesh link of the panel. -/
def couldUse (s : State) (u : Nat × Nat × Nat) (c : Nat) : Bool := u.2.1 == 1 || u.2.1 == 2 || (ctxOf s c).part.contains u.1
/-- Every resident context that could use a unit has been drained. -/
def drainedFor (s : State) (u : Nat × Nat × Nat) : Bool := (residents s).all fun c => !couldUse s u c || (ctxOf s c).cst != 1
/-- A harvest record (R36). -/
def harvestRecord (seqn : Nat) (u : Nat × Nat × Nat) (n : Nat) : List Nat :=
  let b := (leBytes 4 seqn ++ leBytes 2 u.1 ++ leBytes 1 u.2.1 ++ leBytes 1 0 ++ leBytes 2 u.2.2 ++ leBytes 2 (min n 65535)).map (·.toNat)
  b ++ (leBytes 4 (crc32 b)).map (·.toNat)
/-- A unit that is to be retired could be used by a context: none of its drained contexts resumes before that (R322). -/
def harvestHolds (s : State) (c : Nat) : Bool := s.marked.any fun m => couldUse s (m.1, m.2.1, m.2.2.1) c
/-- The contexts that wait for a retirement to resume do so, once nothing holds them (R322). -/
def resumeHeld (s : State) : State :=
  (residents s).foldl (fun s c =>
    if (ctxOf s c).resuming && !harvestHolds s c then modCtx s c fun x => { x with cst := 1, resuming := false } else s) s
/-- HARVEST_RETIRE (R36, R322): a marked unit is retired after the last drain, with its record, or without one when the log is full. -/
def harvestNow (s : State) (u : Nat × Nat × Nat) : Option State :=
  match s.marked.find? fun m => (m.1, m.2.1, m.2.2.1) == u with
  | none => none
  | some m =>
    if !drainedFor s u then none
    else
      let s1 := retireUnit { s with
        marked := s.marked.filter (fun x => (x.1, x.2.1, x.2.2.1) != u), errors := s.errors.filter fun e => !(e.1 == u.1 && e.2.1 == u.2.1 && e.2.2.1 == u.2.2) } u
      let s2 := if s1.harvest.length < 4096 then { s1 with harvest := s1.harvest ++ [harvestRecord (s1.harvest.length + 1) u m.2.2.2] }
        else postAll { s1 with volatileRet := s1.volatileRet ++ [u] } 4 u.1 0 0
      some (resumeHeld (postAll s2 8 u.1 (u.2.1 * 2 ^ 16 + u.2.2) 0))
/-- HARVEST_RETIRE (R36). -/
def execHarvestRetire (die kind unit : Nat) (s : State) : Out := .next ((harvestNow s (die, kind, unit)).getD s)

end Sys2Proof.Machine
end

