-- ==== Sys2Proof/Machine/Trace.lean ====
section
/-!
DEFINITION. Trace (R331): the records of a step, found by comparing the states before and after it, and the rings they go to.
-/
namespace Sys2Proof.Machine

/-! ### Rings -/

/-- An unused ring of a die. -/
def Ring.empty (die : Nat) : Ring := { die := die, pos := 0, used := 0, dropped := 0, block := [], seq := 0 }
/-- The ring of a context on a die. -/
def ringOf (x : Ctx) (die : Nat) : Ring := (x.rings.find? fun r => r.die == die).getD (Ring.empty die)
/-- A ring replaced. -/
def putRing (s : State) (c : Nat) (r : Ring) : State := modCtx s c fun x => { x with rings := r :: x.rings.filter fun q => q.die != r.die }
/-- The virtual address of a die's ring: base + rank of the die in the partition × size. -/
def ringBase (x : Ctx) (die : Nat) : Nat := x.trbase + ((sortAsc x.part).findIdx fun d => d == die) * 2 ^ x.trlog
/-- Bytes of a record as they go to memory: through the context's tables, a byte that no page takes is lost. -/
def ringBytes (s : State) (c va : Nat) : List Nat → State
  | [] => s
  | b :: bs =>
    let s1 := match resolve s c va 1 with
      | .ok pa => putUnit (touchPa s c pa) hostAgent c pa (some va) [BitVec.ofNat 8 b] false []
      | .error _ => s
    ringBytes s1 c (va + 1) bs
/-- A record of 16 bytes. -/
def traceBytes (kind flags die site slot cyc data : Nat) : List Nat :=
  (leBytes 1 kind ++ leBytes 1 flags ++ leBytes 2 die ++ leBytes 2 site ++ leBytes 1 slot ++ leBytes 1 0 ++ leBytes 4 cyc ++ leBytes 4 data).map (·.toNat)
/-- A record written where the ring has room, else dropped and counted. A vault's records are sealed by fifteens. -/
def ringPut (s : State) (c die : Nat) (rec : List Nat) : State :=
  let x := ctxOf s c
  let r := ringOf x die
  let size := 2 ^ x.trlog
  let base := ringBase x die
  if !x.vault then
    if size < r.used + 16 then putRing s c { r with dropped := r.dropped + 1 }
    else ringBytes (putRing s c { r with pos := (r.pos + 16) % size, used := r.used + 16 }) c (base + r.pos) rec
  else if r.block.isEmpty && decide (size < r.used + 256) then putRing s c { r with dropped := r.dropped + 1 }
  else if r.block.length < 224 then putRing s c { r with block := r.block ++ rec }
  else
    let sealed := Config.traceSeal (c * 2 ^ 32 + x.cgen.toNat) die r.seq (r.block ++ rec)
    ringBytes (putRing s c { r with pos := (r.pos + 256) % size, used := r.used + 256, block := [], seq := r.seq + 1 }) c (base + r.pos)
      ((List.range 256).map fun i => sealed.getD i 0)
/-- A context traces records of a kind on a die. -/
def traces (x : Ctx) (kind die : Nat) : Bool := x.trbase != 0 && x.part.contains die && (kind == 9 || bit x.trmask kind)
/-- A record of a group: kind, group as it stood, data. -/
def traceGroup (s0 : State) (s : State) (g : Group) (kind data : Nat) : State :=
  let core := coreOfGroup s0 g
  if traces (ctxOf s g.ctx) kind (dieOf core) then
    ringPut s g.ctx (dieOf core) (traceBytes kind (if g.sup then 1 else 0) (dieOf core) (siteOf core) g.slot ((Config.clock s0.free).toNat % 2 ^ 32) data)
  else s

/-! ### The records of a step -/

/-- A branch word that is taken by the group as it stands. -/
def takes (s : State) (g : Group) (i : Instr) : Bool :=
  match i with
  | .br _ c _ => condHolds s g c
  | .shortBr _ _ c => condHolds s g ((Cond.ofCode c).getD .al)
  | .call _ c _ => condHolds s g c
  | .callr _ _ => true
  | .jmpr _ _ => true
  | .ret _ => true
  | _ => false
/-- The number of a safe-point word. -/
def safePoint (i : Instr) : Option Nat :=
  match i with
  | .spt _ n => some n
  | .shortSpt a b => some (a * 16 + b)
  | _ => none
/-- The kinds 1 and 2 of the word that a group executed. -/
def traceWord (s0 s : State) (u : Nat) (i : Instr) : State :=
  match mget s0.groups u, mget s.groups u with
  | some g, some h =>
    if g.icnt == h.icnt then s
    else
      let s1 := if takes s0 g i then traceGroup s0 s g 1 h.pc else s
      match safePoint i with | some n => traceGroup s0 s1 g 2 n | none => s1
  | _, _ => s
/-- The kinds 3, 6, 7 and 8 of one group that both states hold. A transfer stands where the group is after the step: as a phase resumes, on the core
that takes it. -/
def traceChange (s0 s : State) (u : Nat) (g h : Group) : State :=
  let st (t : State) : Option BlockSt := (mget t.blocks g.block).map (·.st)
  let out (b : Option BlockSt) : Bool := b == some .saved || b == some .suspended
  let s1 := if st s0 == some .running && st s == some .queued && !g.exited then
      (match (mget s.blocks g.block).bind fun b => b.record.find? fun r => r.group == u with
       | some r => traceGroup s0 s g 3 r.carry
       | none => s) else s
  let s2 := if (g.xreq.isSome && h.xreq.isNone && !h.exited) || g.ver != h.ver then traceGroup s s1 h 6 h.xstat.toNat else s1
  let s3 := if g.hstack.isNone && h.hstack.isSome then traceGroup s0 s2 g 7 h.scause.toNat else s2
  if !out (st s0) && out (st s) && !g.exited then traceGroup s0 s3 g 8 (g.icnt.toNat % 2 ^ 32) else s3
/-- A group's next phase has resumed in a step. -/
def phaseBegan (s0 s : State) (g : Group) : Bool :=
  (mget s0.blocks g.block).any (fun b => !b.record.isEmpty) && (mget s.blocks g.block).any fun b => b.record.isEmpty
/-- The tokens of the commands that a group issued in a step: each issue moves the counter of its class on (R245). A phase that resumes starts its
counters anew and issues nothing. -/
def issuedTokens (s0 s : State) (g h : Group) : List Nat :=
  if phaseBegan s0 s g then [] else
  ([0, 1, 2].filter fun c => mgetD g.cnt c 0 != mgetD h.cnt c 0).map fun c => c * 2 ^ 30 + mgetD h.cnt c 0
/-- A command of a group, by its token, is outstanding. -/
def cmdHeld (s : State) (u t : Nat) : Bool := s.cmds.any fun e => e.2.grp == u && e.2.token.toNat == t
/-- The kinds 4 and 5: the commands that a group of both states issued in the step, and those of its commands that completed in it, one
that issued and completed at once among them (R264). -/
def traceCmds (s0 s : State) : State :=
  s0.groups.foldl (fun t e =>
    match mget s.groups e.1 with
    | some h =>
      let came := issuedTokens s0 s e.2 h
      let went := (s0.cmds.filter fun d => d.2.grp == e.1 && (mget s.cmds d.1).isNone).map fun d => d.2.token.toNat
      (went ++ came.filter fun n => !cmdHeld s e.1 n).foldl (fun t n => traceGroup s0 t e.2 5 n) (came.foldl (fun t n => traceGroup s0 t e.2 4 n) t)
    | none => t) s
/-- Some context traces. -/
def anyTrace (s : State) : Bool := s.ctxs.any fun e => e.2.trbase != 0
/-- The state after a step with its trace records written (R331): `u` and `i` are the group that executed a word and the word. -/
def traceStep (s0 s : State) (word : Option (Nat × Instr)) : State :=
  if !anyTrace s then s
  else
    let s1 := match word with | some (u, i) => traceWord s0 s u i | none => s
    traceCmds s0 (s0.groups.foldl (fun s e => match mget s.groups e.1 with | some h => traceChange s0 s e.1 e.2 h | none => s) s1)
/-- TRACE_OVERFLOW_RECORD (R331): the reader has made room in a die's ring; what was dropped is told by one record. -/
def traceOverflow (s : State) (c die : Nat) : State :=
  let x := ctxOf s c
  if !traces x 9 die then s
  else
    let r := ringOf x die
    let s1 := putRing s c { r with used := 0, dropped := 0 }
    if r.dropped = 0 then s1 else ringPut s1 c die (traceBytes 9 0 die 0 0 ((Config.clock s.free).toNat % 2 ^ 32) r.dropped)
/-- TRACE_OVERFLOW_RECORD (R331). -/
def execTraceOverflowRecord (c die : Nat) (s : State) : Out := .next (traceOverflow s c die)

end Sys2Proof.Machine
end

