-- ==== Sys2Proof/Machine/Monitors.lean ====
section
/-!
DEFINITION. What the monitors sample (R332): like trace records, samples are found by comparing the states before and after a step. How long
something took, and how full a link is, is timing: those values are free (log entry 24).
-/
namespace Sys2Proof.Machine

/-- The bin that a sample v falls into. -/
def sampleBin (m : Monitor) (v : Nat) : Nat := min 31 (v / 2 ^ (m.ctl.toNat % 32))
/-- A count of 32 bits one higher, saturating. -/
def satInc (w : Word) : Word := if w = 0xFFFFFFFF then w else w + 1
/-- One sample taken (R332). -/
def addSample (m : Monitor) (v : Nat) : Monitor :=
  { m with
    min := BitVec.ofNat 32 (min m.min.toNat v), max := BitVec.ofNat 32 (max m.max.toNat (min v 0xFFFFFFFF))
    bins := m.bins.set (sampleBin m v) (satInc (m.bins.getD (sampleBin m v) 0)) }
/-- The source of a monitor. -/
def sampleSrc (m : Monitor) : Nat := m.ctl.toNat / 2 ^ 8 % 16
/-- A group's work may be sampled: it is no vault's (R332). -/
def sampled (s : State) (c : Nat) : Bool := !(ctxOf s c).vault
/-- A group's core is on a die. -/
def onThisDie (s : State) (die : Nat) (g : Group) : Bool := sampled s g.ctx && dieOf (coreOfGroup s g) == die
/-- The groups on a die that a step took out of a park. -/
def leftPark (s0 s : State) (die : Nat) (p : Park → Bool) : Nat :=
  (s0.groups.filter fun e => onThisDie s0 die e.2 && e.2.park.any p &&
    match mget s.groups e.1 with | some h => !h.park.any p | none => false).length
/-- The word is a lane load. -/
def isLaneLoad (i : Instr) : Bool :=
  match i with
  | .vld _ _ _ _ _ _ _ => true
  | .lld _ _ _ _ _ _ => true
  | _ => false
/-- A group on a die executed a lane load, and it retired. -/
def laneLoaded (s0 s : State) (die : Nat) (word : Option (Nat × Instr)) : Bool :=
  match word with
  | some (u, i) =>
    isLaneLoad i && (match mget s0.groups u, mget s.groups u with | some g, some h => onThisDie s0 die g && g.icnt != h.icnt | _, _ => false)
  | none => false
/-- The walks of a step on a die: the translations that its cores' TLBs hold anew (R216). -/
def walked (s0 s : State) (die : Nat) : Nat :=
  ((s.cores.filter fun k => dieOf k.1 == die).map fun k => (k.2.tlb.filter fun t => sampled s t.ctx && !(coreOf s0 k.1).tlb.contains t).length).foldl (· + ·) 0
/-- The commands of groups on a die that a state holds and another does not. -/
def newCmds (a b : State) (die : Nat) : List Cmd := (b.cmds.filter fun e => (mget a.cmds e.1).isNone && e.2.grp != 0 && sampled b e.2.ctx && dieOf e.2.core == die).map (·.2)
/-- n samples of a quantity that is timing alone. -/
def timed (s0 : State) (mon n : Nat) : List Nat := (List.range n).map fun i => Config.timing s0.free (mon * 1024 + i)
/-- The depth of the queue of a matrix command's slot (R274). -/
def queueDepth (s : State) (d : Cmd) : Nat := (mgetD (clusterOf s (clusterNum d.core)).queues d.slot []).length
/-- The samples that a step gives to a monitor (R332). -/
def samplesOf (s0 s : State) (word : Option (Nat × Instr)) (mon : Nat) (m : Monitor) : List Nat :=
  let die := mon / 16
  match sampleSrc m with
  | 0 => timed s0 mon (if laneLoaded s0 s die word then 1 else 0)
  | 1 => timed s0 mon (leftPark s0 s die fun p => match p with | .presence _ => true | _ => false)
  | 2 => timed s0 mon (walked s0 s die)
  | 4 => ((newCmds s0 s die).filter fun d => d.cls == 2).map (queueDepth s)
  | 5 => timed s0 mon (leftPark s0 s die fun p => match p with | .answer _ => true | _ => false)
  | 7 => timed s0 mon (newCmds s s0 die).length
  | 3 | 6 => timed s0 mon (Config.timing s0.free mon % 2)
  | _ => []
/-- The state after a step with the samples taken. -/
def sampleStep (s0 s : State) (word : Option (Nat × Instr)) : State :=
  if s.monitors.all fun e => !e.2.ctl.msb then s
  else { s with monitors := s.monitors.map fun e => if e.2.ctl.msb then (e.1, (samplesOf s0 s word e.1 e.2).foldl addSample e.2) else e }

end Sys2Proof.Machine
end

