-- ==== Sys2Proof/Machine/Contexts.lean ====
section
/-!
DEFINITION. Contexts as the host sees them (R215, R220, R221, R308-R313, R324, R327): page requests, invalidations, creation, destruction,
pre-emption, event tasks and imports.
-/
namespace Sys2Proof.Machine

/-! ### Page requests (R220, R221) -/

/-- PAGE_REQUEST_FORWARD (R220): the host interface forwards the next valid slot and raises the page-request vector. -/
def requestForward (s : State) (c : Nat) : Option State :=
  match (ctxOf s c).forward with
  | [] => none
  | _ :: rest => some (raiseVector (modCtx s c fun x => { x with forward := rest }) s.irqPgreq)
/-- PAGE_REQUEST_FORWARD (R220). -/
def execPageRequestForward (c : Nat) (s : State) : Out := .next ((requestForward s c).getD s)
/-- A field of n bytes of a context's space read by the panel. -/
def ctxField (s : State) (c va n : Nat) : Option Nat := (schedRead s c va n).map leNat
/-- What `PG_ANSWER` holds after a write: the reserved bits [9:8] read zero (R9, R221). -/
def answerReg (v : Nat) : DWord := BitVec.ofNat 64 v &&& ~~~0x300
/-- PG_ANSWER (R221): the register takes the value; an answer that matches a live pending request writes ANS with a strong store at `.sys`; any
other counts as stale, and so does, by the model's choice (log entry 51), one that passes R221's checks while ANS can no longer be written. -/
def pgAnswer (s0 : State) (v : Nat) : State :=
  let s := { s0 with pgAnswer := answerReg v }
  let c := fld v 15 10
  let reqid := fld v 31 16
  let slot := (ctxOf s c).rqtab.toNat + 32 * (reqid % 256)
  let good := ctxAlive s c && (ctxOf s c).cgen.toNat == fld v 63 32 && ctxField s c (slot + 16) 2 == some reqid && ctxField s c (slot + 20) 4 == some 0
  let stale := { s with pgStale := min 0xFFFFFFFF (s.pgStale + 1) }
  if !good then stale
  else match resolve s c (slot + 20) 1 with
    | .ok pa => putUnit s hostAgent c pa (some (slot + 20)) (leBytes 4 (if v % 256 = 0 then 1 else 2)) true []
    | .error _ => stale
/-- PG_ANSWER (R221). -/
def execPgAnswer (v : Nat) (s : State) : Out := hostReg s fun s => pgAnswer s v
/-- PG_STALE_CLEAR (R221). -/
def execPgStaleClear (s : State) : Out := hostReg s fun s => { s with pgStale := 0 }

/-! ### Invalidation (R215) -/

/-- The value of `XLAT_INV` while a context is invalidated, and after. -/
def xlatStatus (busy : Bool) (c : Nat) : Word := BitVec.ofNat 32 ((if busy then 2 ^ 31 else 0) + c)
/-- XLAT_INV (R215): an invalidation begins, or waits for the one in progress. -/
def xlatInv (s : State) (v : Nat) : State :=
  if s.xlatInv.msb then { s with xlatHeld := s.xlatHeld ++ [v % 64] } else { s with xlatInv := xlatStatus true (v % 64) }
/-- XLAT_INV (R215). -/
def execXlatInv (v : Nat) (s : State) : Out := hostReg s fun s => xlatInv s v
/-- What a read of `XLAT_INV` gives: the last id written, a held one included. -/
def xlatView (s : State) : Word := match s.xlatHeld.getLast? with | some c => xlatStatus true c | none => s.xlatInv
/-- No plain store of a context waits in a round buffer: what used an earlier translation there has been merged into memory (R215, R336). -/
def buffersEmpty (s : State) (c : Nat) : Bool :=
  (s.blocks.all fun e => e.2.ctx != c || e.2.rbuf.isEmpty) && s.grids.all fun e => e.2.ctx != c || e.2.oldBufs.isEmpty
/-- XLAT_INV_COMPLETE (R215): once every access of the context that used an earlier translation can perform, the generation rises, no TLB keeps a
translation of the context, the next held write begins. -/
def xlatInvComplete (s : State) : Option State :=
  let c := s.xlatInv.toNat % 64
  if !s.xlatInv.msb || !buffersEmpty s c then none
  else
    let s1 := if (ctxOf s c).cst = 0 then s else invalidate s c
    some (match s1.xlatHeld with
      | [] => { s1 with xlatInv := xlatStatus false c }
      | n :: rest => { s1 with xlatInv := xlatStatus true n, xlatHeld := rest })
/-- XLAT_INV_COMPLETE (R215). -/
def execXlatInvComplete (s : State) : Out := .next ((xlatInvComplete s).getD s)

/-! ### Creation (R309, R325-R328) -/

/-- The read view of `CTX_CREATE`. -/
def createStatus (st c reason : Nat) : Word := BitVec.ofNat 32 (st * 2 ^ 30 + c * 2 ^ 8 + reason)
/-- CTX_CREATE (R309): a creation begins, or waits for the one in progress. -/
def ctxCreateWrite (s : State) (v : Nat) : State :=
  if s.creating.isSome then { s with createHeld := s.createHeld ++ [v] } else { s with creating := some v, ctxCreate := createStatus 1 (v % 64) 0 }
/-- CTX_CREATE (R309). -/
def execCtxCreate (v : Nat) (s : State) : Out := hostReg s fun s => ctxCreateWrite s v
/-- Bytes of DRAM from an address lie outside every firmware reserve (R18). -/
def dramRange (a n : Nat) : Bool := decide (a + n ≤ dramEnd) && decide (0 < n) && a / 0x400000000 == (a + n - 1) / 0x400000000 && decide (a % 0x400000000 + n ≤ 0x3C0000000)
/-- The fields of a descriptor lie in their ranges (R309, R333). -/
def descriptorOk (v : Nat) (b : List Byte) : Bool :=
  let f (o n : Nat) : Nat := leAt b o n
  let rbufg := f 4 4
  let pinq := f 40 4
  fld v 63 52 == 0 && f 0 4 / 4 == 0 && (rbufg == 0 || decide (256 ≤ rbufg ∧ rbufg ≤ 262144))
    && f 16 8 % 65536 == 0 && tableOk (f 16 8)
    && f 24 8 % 32 == 0 && decide (f 24 8 < 2 ^ 52) && f 32 8 % 32 == 0 && decide (f 32 8 < 2 ^ 52)
    && (pinq == 0xFFFFFFFF || (pinq % 128 == 0 && decide (pinq ≤ 16384)))
    && decide (1 ≤ f 52 4 ∧ f 52 4 ≤ 65536)
    && (f 56 8 == 2 ^ 64 - 1 || f 60 4 == 0)
    && (f 64 8 == 0 || decide (16 ≤ f 72 1 ∧ f 72 1 ≤ 30)) && decide (f 64 8 < 2 ^ 52)
    && f 73 1 == 0 && f 76 4 == 0 && (List.range 152).all fun i => f (104 + i) 1 == 0
/-- The partition that bits 0 to 191 name (R33, R309). -/
def partitionOf (bits : Nat) : List Nat := ((List.range 192).filter (bit bits)).map coreDie
/-- The context that a descriptor gives, in the slot of `old`, at a moment `now` (R309): every part of R313 is clear; a core's rotation pointer is
kept with the blocks and starts with the first block on a core that the context finds idle (`joinRot`). -/
def newCtx (now c : Nat) (old : Ctx) (b : List Byte) : Ctx :=
  let f (o n : Nat) : Nat := leAt b o n
  let vault := bit (f 0 4) 1
  let evk := f 56 8
  let pinq := f 40 4
  { Ctx.free with
    cst := 1, dbg := old.dbg && !vault, cgen := old.cgen + 1, det := bit (f 0 4) 0, vault := vault, keys := vault
    vkeys := if vault then (List.range 3).map fun i => Config.newKey (now * 64 + c) i else []
    meas := if vault then extendMeas (List.replicate 32 0) (b.map (·.toNat)) else []
    rbufg := if f 4 4 = 0 then 4096 else f 4 4, seed := BitVec.ofNat 64 (f 8 8), ptroot := f 16 8, fpool := BitVec.ofNat 64 (f 24 8)
    rqtab := BitVec.ofNat 64 (f 32 8), pinq := if pinq = 0xFFFFFFFF then 4096 else pinq, epq := f 44 4, stq := f 48 4, lqcap := f 52 4
    evk := if evk = 2 ^ 64 - 1 then none else some (evk / 2 ^ 16 % 2 ^ 16, evk % 2 ^ 16)
    trbase := f 64 8, trlog := f 72 1, trmask := f 74 2, part := partitionOf (f 80 24) }
/-- The reason that refuses a creation, or none; the reasons are tried in the order of their numbers. -/
def createRefusal (s : State) (v : Nat) (b : List Byte) : Nat :=
  let a := fld v 51 6 * 64
  let x := newCtx s.free (v % 64) Ctx.free b
  if (ctxOf s (v % 64)).cst != 0 then 1
  else if !dramRange a 256 || !descriptorOk v b then 2
  else if x.vault && decide (8 ≤ (s.ctxs.filter fun e => e.2.vault && e.2.cst != 0).length) then 3
  else if x.part.isEmpty || x.part.any s.lostDies.contains then 4
  else if 65536 < x.epq || 16777216 < x.stq then 5
  else 0
/-- CONTEXT_CREATION_END (R309): the descriptor is read and checked, the context created or refused, the next held write begins. -/
def creationEnd (s : State) : Option State :=
  s.creating.map fun v =>
    let c := v % 64
    let b := Memory.readN s.mem (fld v 51 6 * 64) 256
    let r := createRefusal s v b
    let s1 := if r = 0 then { s with ctxs := mset s.ctxs c { newCtx s.free c (ctxOf s c) b with xinv := s.nextUid }, ctxCreate := createStatus 2 c 0 }
      else { s with ctxCreate := createStatus 3 c r }
    match s1.createHeld with
    | [] => { s1 with creating := none }
    | n :: rest => { s1 with creating := some n, createHeld := rest, ctxCreate := createStatus 1 (n % 64) 0 }
/-- CONTEXT_CREATION_END (R309). -/
def execContextCreationEnd (s : State) : Out := .next ((creationEnd s).getD s)

/-! ### Control (R308, R310-R313) -/

/-- CTX_DBG (R308): a write of 1 is ignored for a vault. -/
def ctxDbg (s : State) (c : Nat) (on : Bool) : State :=
  if 64 ≤ c || (on && (ctxOf s c).vault) then s else modCtx s c fun x => { x with dbg := on }
/-- CTX_DBG (R308). -/
def execCtxDbg (c : Nat) (on : Bool) (s : State) : Out := hostReg s fun s => ctxDbg s c on
/-- CTX_KILL (R312): a context that is running or pre-empted is killed. -/
def ctxKill (s : State) (c : Nat) : State := if ctxAlive s c then kill s c 0 else s
/-- CTX_KILL (R312). -/
def execCtxKill (c : Nat) (s : State) : Out := hostReg s fun s => ctxKill s c
/-- The killed runs of a context's graphs get their records (R369), in at most n. -/
def killedRecords : Nat → State → Nat → State
  | 0, s, _ => s
  | n + 1, s, gid =>
    match mget s.graphs gid with
    | some g => if g.killed.isSome then killedRecords n ((graphRunComplete s gid).getD s) gid else s
    | none => s
/-- Every frame that a vault's tables map is zero-filled (R310). -/
def zeroVault (s : State) (c : Nat) : State :=
  (mappedPages s c).foldl (fun s e =>
    { s with
      mem := s.mem.filter fun k => !(isPhys k.1 && e.2.holds k.1)
      log := s.log.filter fun k => !(isPhys k.loc && e.2.holds k.loc) }) s
/-- CTX_DESTROY (R310). -/
def ctxDestroy (s : State) (c : Nat) : State :=
  let x := ctxOf s c
  if x.cst = 0 then s
  else
    let s1 := ctxKill s c
    let mine := (s1.graphs.filter fun e => e.2.ctx == c).map (·.1)
    let s2 := mine.foldl (fun s gid => killedRecords 8 s gid) s1
    let s3 := if x.vault then zeroVault s2 c else s2
    { s3 with
      graphs := s3.graphs.filter fun e => e.2.ctx != c
      cores := s3.cores.map fun k => (k.1, { k.2 with tlb := k.2.tlb.filter fun e => e.ctx != c, pins := k.2.pins.filter fun p => p.1 != c })
      mint := s3.mint.map fun m => { m with waiting := m.waiting.filter fun w => w.1 != c }
      slices := s3.slices.map fun m => (m.1, { m.2 with episodes := m.2.episodes.filter fun e => e.ctx != c, orphans := m.2.orphans.filter fun o => o.ctx != c })
      posts := s3.posts.filter fun p => p.2.ctx != c
      bound := s3.bound.filter fun p => p.ctx != c
      fenceLog := s3.fenceLog.filter fun p => p.ctx != c
      ctxs := mset s3.ctxs c { Ctx.free with cgen := x.cgen, dbg := x.dbg } }
/-- CTX_DESTROY (R310). -/
def execCtxDestroy (c : Nat) (s : State) : Out := hostReg s fun s => ctxDestroy s c
/-- CTX_RESUME (R308): every group stopped at `brk` goes on. -/
def ctxResume (s : State) (c : Nat) : State :=
  (s.groups.filter fun e => e.2.ctx == c && e.2.park == some .brk).foldl (fun s e =>
    match mget s.groups e.1 with | some g => resumeBrk s e.1 g | none => s) s
/-- CTX_RESUME (R308). -/
def execCtxResume (c : Nat) (s : State) : Out := hostReg s fun s => ctxResume s c
/-- A drain of a running context begins (R311). -/
def startDrain (s : State) (c : Nat) : State := if (ctxOf s c).cst = 1 then modCtx s c fun x => { x with draining := true } else s
/-- CTX_PREEMPT (R308, R311). -/
def execCtxPreempt (c : Nat) (s : State) : Out := hostReg s fun s => startDrain s c
/-- SCHEDULER_DRAIN (R311). -/
def execSchedulerDrain (c : Nat) (s : State) : Out := .next (startDrain s c)
/-- A command may be pre-empted where it stands (R251, R311): at one of its points, where a fault holds it too (R250); a collective before its
round has gathered, since such a round runs on to completion (log entry 55). -/
def mayCut (s : State) (d : Cmd) : Bool := if d.cls = 1 then d.prog == 0 && !gathered s d else d.save
/-- A drain can end: every command of the context stands where it may be pre-empted, and every register result is written (R95, R251, R311). -/
def drained (s : State) (c : Nat) : Bool :=
  (s.cmds.all fun e => e.2.ctx != c || mayCut s e.2) && s.groups.all fun e => e.2.ctx != c || (e.2.words.isEmpty && e.2.trapping.isNone)
/-- DRAIN_COMPLETE (R311, R313): every block is saved at an instruction boundary with its groups and commands; STATE reads 2. -/
def drainComplete (s : State) (c : Nat) : Option State :=
  if (ctxOf s c).cst != 1 || !(ctxOf s c).draining || !drained s c then none
  else
    let s1 := (s.blocks.filter fun e => e.2.ctx == c && (e.2.st == .running || e.2.st == .queued)).foldl (fun s e => saveBlock s e.1 .saved) s
    some (modCtx s1 c fun x => { x with cst := 2, draining := false })
/-- DRAIN_COMPLETE (R311). -/
def execDrainComplete (c : Nat) (s : State) : Out := .next ((drainComplete s c).getD s)
/-- CTX_UNPREEMPT (R308): a pre-empted context goes on; one that could use a unit to be retired does so only after the retirement (R322). -/
def ctxUnpreempt (s : State) (c : Nat) : State :=
  if (ctxOf s c).cst != 2 then s
  else
    let s1 := s.marked.foldl (fun s m => (harvestNow s (m.1, m.2.1, m.2.2.1)).getD s) s
    if harvestHolds s1 c then modCtx s1 c fun x => { x with resuming := true } else modCtx s1 c fun x => { x with cst := 1, resuming := false }
/-- CTX_UNPREEMPT (R308). -/
def execCtxUnpreempt (c : Nat) (s : State) : Out := hostReg s fun s => ctxUnpreempt s c

/-- A write to `CTX_CTL` (R308): DBG takes its value; then DESTROY, else KILL, else PREEMPT and RESUME. -/
def ctxCtl (s0 : State) (c v : Nat) : State :=
  let s := ctxDbg s0 c (bit v 7)
  if bit v 3 then ctxDestroy s c
  else if bit v 2 then ctxKill s c
  else
    let s1 := if !bit v 0 then s else if (ctxOf s c).cst = 2 then ctxUnpreempt s c else startDrain s c
    if bit v 1 then ctxResume s1 c else s1
/-- What a read of `CTX_CTL` gives (R308). -/
def ctxCtlView (s : State) (c : Nat) : Word :=
  let x := ctxOf s c
  BitVec.ofNat 32 (x.cst * 2 ^ 30 + x.cause % 256 * 2 ^ 16 + if x.dbg then 2 ^ 7 else 0)

/-! ### Event tasks (R324) -/

/-- The launch values of an event task: one 8-lane group; `extra` bytes behind the kernel's allocation hold the record (log entry 38). -/
def eventArgs (img kern lmem : Nat) : LaunchArgs :=
  { img := img, kern := kern, gdx := 1, gdy := 1, gdz := 1, ngrp := 1, gwid := 8, cls := 0, lmem := lmem, sets := 0, ways := 1, gran := 0, param := 0
    uhnd := 0xFFFFFFFF, deps := [] }
/-- The core on which an event task starts: the lowest of the partition with room. Its start waits for no OFFSET, and its block becomes ready as
the record is taken: the model's choices (R29, R45; log entry 45). -/
def eventCore (s : State) (grid : Nat) (gr : Grid) : Option Nat :=
  (gridCores s gr).find? fun c => gateLets s (dieOf c) grid && fits s c grid gr none
/-- The record's copy put behind the allocation of the new block, and its address into x2:x3; the group is in supervisor mode. -/
def giveRecord (s : State) (grid off : Nat) (rec : List Nat) : State :=
  match s.blocks.find? fun e => e.2.grid == grid with
  | none => s
  | some (blk, b) =>
    let a := 0xFFFFFFFFFFE00000 + coreNum b.core * 2 ^ 19 + off
    let row (v : Nat) : List Word := List.replicate 8 (BitVec.ofNat 32 v)
    let s1 := { s with mem := Memory.writeN s.mem (localLoc blk off) (asBytes rec) }
    b.groups.foldl (fun s u => modGroup s u fun g => { g with sup := true, x := mset (mset g.x 2 (row a)) 3 (row (a / 2 ^ 32)) }) s1
/-- EVENT_TASK (R324): the next record runs as a supervisor block of the event kernel; a record whose kernel is gone is dropped. -/
def eventTask (s : State) (c : Nat) : Option State :=
  let x := ctxOf s c
  match x.events with
  | [] => none
  | rec :: rest =>
    if x.cst != 1 || x.draining || x.evRun.isSome || (x.det && x.evDue == 0) then none
    else
      let s1 := modCtx s c fun x => { x with events := rest, evDue := x.evDue - 1 }
      match x.evk.bind fun e => (kernelOf s c e.1 e.2).map fun k => (e, k) with
      | none => some (modCtx s1 c fun x => { x with drops := x.drops + 1 })
      | some (e, k) =>
        if !runnable k then some (modCtx s1 c fun x => { x with drops := x.drops + 1 })
        else
          let off := min ((k.lmem + 127) / 128 * 128) 360320
          let n := newGrid s1 c (eventArgs e.1 e.2 (off + 128)) 0 0 []
          let gr := { n.2.1 with event := some rec }
          match eventCore n.2.2 n.1 gr with
          | none => none
          | some core =>
            let s2 := modCtx { n.2.2 with grids := mset n.2.2.grids n.1 gr } c fun x => { x with evRun := some n.1 }
            if liveGrids s c < 4096 && !gridBefore s n.1 && !firingBefore s n.1 then some (giveRecord (placeNew s2 n.1 core 0 gr) n.1 off rec) else none
/-- EVENT_TASK (R324). -/
def execEventTask (c : Nat) (s : State) : Out := .next ((eventTask s c).getD s)

/-! ### Imports into a vault (R327) -/

/-- VAULT_IMPORT (R327): an import begins, or waits for the one in progress. -/
def vaultImport (s : State) (v : Nat) : State :=
  if s.importing.isSome then { s with importHeld := s.importHeld ++ [v] } else { s with importing := some v, importStat := 0 }
/-- VAULT_IMPORT (R327). -/
def execVaultImport (v : Nat) (s : State) : Out := hostReg s fun s => vaultImport s v
/-- A run of bytes within one memory die's window meets a page (R211). -/
def Page.meets (p : Page) (a n : Nat) : Bool := p.runs.any fun r => decide (a < r.1 + r.2) && decide (r.1 < a + n)
/-- Bytes that an import may read: mappable DRAM outside every vault's frames (R327). -/
def importRange (s : State) (a n : Nat) : Bool := dramRange a n && !s.ctxs.any fun e =>
  e.2.vault && e.2.cst != 0 && (mappedPages s e.1).any fun p => p.2.meets a n
/-- An import done, or nothing where it is refused. -/
def importOne (s : State) (v : Nat) : Option State :=
  let b := Memory.readN s.mem v 64
  let f (o n : Nat) : Nat := leAt b o n
  let c := f 0 2
  let len := f 4 4
  let x := ctxOf s c
  let ok := v % 64 == 0 && dramRange v 64 && decide (c < 64) && ctxAlive s c && x.vault && f 2 2 == 0 && f 28 4 == 0 && f 48 8 == 0 && f 56 8 == 0
    && decide (17 ≤ len ∧ len ≤ 2 ^ 30 + 16) && importRange s (f 8 8) 1088 && importRange s (f 32 8) len
    && schedWritable s c (f 40 8) (len - 16) && x.keys
  if !ok then none
  else
    let bytes (a n : Nat) : List Nat := (Memory.readN s.mem a n).map (·.toNat)
    (Config.importOpen (c * 2 ^ 32 + x.cgen.toNat) (bytes (f 8 8) 1088) ((List.range 12).map fun i => f (16 + i) 1) (bytes (f 32 8) len)).map fun plain =>
      loadBytes s c (f 40 8) ((List.range (len - 16)).map fun i => BitVec.ofNat 8 (plain.getD i 0))
/-- A vault's attestation report (R328), for a host nonce of 32 bytes: version, context id and generation, nonce, the two measurements, the
vault's encapsulation key, serial number and grade, and the panel's signature over them. The spec gives no request for it: no row delivers it. -/
def attestationReport (s : State) (c : Nat) (nonce : List Nat) : List Nat :=
  let x := ctxOf s c
  let nat (n v : Nat) : List Nat := (leBytes n v).map (·.toNat)
  let sized (n : Nat) (l : List Nat) : List Nat := (List.range n).map fun i => l.getD i 0 % 256
  let body := nat 4 1 ++ nat 2 c ++ nat 2 x.cgen.toNat ++ sized 32 nonce ++ sized 32 s.fwMeas ++ sized 32 x.meas
    ++ sized 1184 (Config.encapKey (c * 2 ^ 32 + x.cgen.toNat)) ++ (List.range 16).map (fun i => (Config.serial i).toNat) ++ nat 4 s.grade
  body ++ sized 2420 (Config.signature body)
/-- IMPORT_END (R327): the import is done or refused, the next held write begins. -/
def importEnd (s : State) : Option State :=
  s.importing.map fun v =>
    let s1 := match importOne s v with
      | some t => { t with importStat := 0x80000000 }
      | none => { s with importStat := 0xC0000000 }
    match s1.importHeld with
    | [] => { s1 with importing := none }
    | n :: rest => { s1 with importing := some n, importHeld := rest, importStat := 0 }
/-- IMPORT_END (R327). -/
def execImportEnd (s : State) : Out := .next ((importEnd s).getD s)

end Sys2Proof.Machine
end

