-- ==== Sys2Proof/Machine/Checkpoint.lean ====
section
/-!
DEFINITION. Checkpoints (R317, R318): the area in the CXL tier, its header and tables as R318 lays them out, and the restore. The bytes of a
context's part are not in the spec: they are free bytes, and what they stand for is kept with the area's digest in `ckpts`.
-/
namespace Sys2Proof.Machine

/-! ### The area -/

/-- The value of `CKPT_CTL`. -/
def ckptStatus (busy fail : Bool) (reason : Nat) : Word := BitVec.ofNat 32 ((if busy then 2 ^ 31 else 0) + (if fail then 2 ^ 30 else 0) + reason * 16)
/-- A run of bytes lies within present CXL windows (R17, R318). -/
def cxlRange (s : State) (a n : Nat) : Bool :=
  decide (cxlBase ≤ a) && decide (a + n ≤ cxlBase + 32 * 0x8000000000) && (List.range 32).all fun k =>
    let w := cxlBase + k * 0x8000000000
    !(decide (a < w + 0x8000000000) && decide (w < a + n)) || decide (min (a + n) (w + 0x8000000000) ≤ w + mgetD s.cxlCap k 0)
/-- The DRAM of a context: the runs of its pages and its page tables (R317). -/
def ctxRanges (s : State) (c : Nat) : List (Nat × Nat) :=
  let x := ctxOf s c
  let tabs := x.ptroot :: (tableEntries s x.ptroot).flatMap fun e1 =>
    if e1.2.sz != 0 then [] else (e1.2.frame * 65536) :: (tableEntries s (e1.2.frame * 65536)).flatMap fun e2 =>
      if e2.2.sz != 0 then [] else [e2.2.frame * 65536]
  (tabs.map fun t => (t, 32768)) ++ (mappedPages s c).flatMap fun e =>
    let p := e.2
    let n := if p.il then 2 ^ p.ilw else 1
    if p.frame * 65536 < dramEnd then (List.range n).map fun i => (p.frame * 65536 + i * 0x400000000, p.size / n) else []
/-- Runs without repeats, keeping first places. -/
def dedupRuns : List (Nat × Nat) → List (Nat × Nat)
  | [] => []
  | a :: l => a :: (dedupRuns l).filter fun b => b != a
/-- The runs that a checkpoint of the resident contexts writes. -/
def ckptRanges (s : State) : List (Nat × Nat) := dedupRuns ((residents s).flatMap (ctxRanges s))
/-- The bytes of a context's part: free ones, and behind them a vault's three keys, wrapped (R317). -/
def ctxPart (s : State) (c : Nat) : List Nat :=
  Config.recordBytes (s.free * 64 + c) ++ if (ctxOf s c).vault then Config.keyWrap (ctxOf s c).vkeys.flatten else []
/-- The offsets of the contents and of the parts in the area, and its length: tables, contents in order, parts in order (log entry 39). -/
def ckptDataOff (nr nc : Nat) : Nat := 4096 + 16 * nr + 32 * nc
def ckptTotal (s : State) : Nat :=
  let rs := ckptRanges s
  ckptDataOff rs.length (residents s).length + (rs.map (·.2)).foldl (· + ·) 0 + ((residents s).map fun c => (ctxPart s c).length).foldl (· + ·) 0
/-- The bytes of a checkpoint's context table (R318); `off` is where the next part begins. -/
def ctxTable (s : State) : Nat → List Nat → List Byte
  | _, [] => []
  | off, c :: cs =>
    let x := ctxOf s c
    let n := (ctxPart s c).length
    leBytes 2 c ++ leBytes 4 x.cgen.toNat ++ leBytes 2 ((if x.det then 1 else 0) + (if x.vault then 2 else 0)) ++ leBytes 8 off ++ leBytes 8 n ++ leBytes 8 0
      ++ ctxTable s (off + n) cs
/-- Listed bytes of memory moved to an area: runs one after another from `off`. -/
def copyRuns (base : Nat) : Nat → List (Nat × Nat) → List Host.Cell → List Host.Cell → List Host.Cell
  | _, [], _, m => m
  | off, r :: rs, src, m =>
    let cells := src.filter fun c => decide (r.1 ≤ c.1) && decide (c.1 < r.1 + r.2)
    copyRuns base (off + r.2) rs src (cells.foldl (fun m c => Memory.write m (base + off + (c.1 - r.1)) c.2) m)
/-- The digest of an area: over bytes 4,096 to TOTAL − 1 (R318). -/
def areaDigest (m : List Host.Cell) (base total : Nat) : List Nat :=
  let h := Config.sha3 ((Memory.readN m (base + 4096) (total - 4096)).map (·.toNat))
  (List.range 32).map fun i => h.getD i 0 % 256
/-- The serial number's bytes (R328). -/
def serialBytes : List Byte := (List.range 16).map Config.serial
/-- The area written (R317, R318): memory after it, with its digest. A vault's frames go there as its memory holds them, encrypted (R326). -/
def writeArea (s : State) : List Host.Cell × List Nat :=
  let base := s.ckptBase.toNat
  let rs := ckptRanges s
  let cs := residents s
  let total := ckptTotal s
  let doff := ckptDataOff rs.length cs.length
  let poff := doff + (rs.map (·.2)).foldl (· + ·) 0
  let m0 := Memory.clear s.mem base (base + total)
  let m1 := Memory.writeN m0 (base + 4096) (rs.flatMap fun r => leBytes 8 r.1 ++ leBytes 8 r.2)
  let m2 := Memory.writeN m1 (base + 4096 + 16 * rs.length) (ctxTable s poff cs)
  let m3 := copyRuns base doff rs (atRest s (vaultRuns s)) m2
  let m4 := Memory.writeN m3 (base + poff) (asBytes (cs.flatMap (ctxPart s)))
  let dg := areaDigest m4 base total
  let head := leBytes 4 0x4B435A4C ++ leBytes 4 1 ++ serialBytes ++ leBytes 8 total ++ leBytes 4 cs.length ++ leBytes 4 rs.length ++ asBytes dg
    ++ leBytes 8 4096 ++ leBytes 8 (4096 + 16 * rs.length)
  (Memory.writeN m4 base head, dg)
/-- What a checkpoint keeps of the resident contexts (R313, R317): their escrow state in every slice, and their posts that are still on the way,
which their grids' counters count, are part of it. -/
def snapshot (s : State) (dg : List Nat) : Checkpoint :=
  let cs := residents s
  let mine (c : Nat) : Bool := cs.contains c
  { digest := dg
    ctxs := cs.map fun c => (c, ctxOf s c)
    grids := s.grids.filter fun e => mine e.2.ctx
    blocks := s.blocks.filter fun e => mine e.2.ctx
    groups := s.groups.filter fun e => mine e.2.ctx
    cmds := s.cmds.filter fun e => mine e.2.ctx
    clusters := s.clusters
    graphs := s.graphs.filter fun e => mine e.2.ctx
    slices := s.slices
    posts := s.posts.filter fun e => mine e.2.ctx
    localMem := s.mem.filter fun c => decide (2 ^ 52 ≤ c.1)
    vaultMem := s.mem.filter fun c => (vaultRuns s).any fun r => decide (r.2.1 ≤ c.1) && decide (c.1 < r.2.1 + r.2.2) }
/-- A checkpoint or a restore runs. -/
def ckptRunning (s : State) : Bool := s.ckptCtl.msb
/-- CKPT_START (R317): ignored while BUSY; refused where the area does not fit; else every running context drains. -/
def ckptStart (s : State) : State :=
  if ckptRunning s then s
  else if !cxlRange s s.ckptBase.toNat (ckptTotal s) then { s with ckptCtl := ckptStatus false true 1 }
  else (residents s).foldl startDrain { s with ckptCtl := ckptStatus true false 0, ckptBusy := some false }
/-- CKPT_START (R317). -/
def execCkptStart (s : State) : Out := hostReg s ckptStart

/-! ### The restore (R318) -/

/-- A field of the header at CKPT_BASE. -/
def headField (s : State) (o n : Nat) : Nat := leNat (Memory.readN s.mem (s.ckptBase.toNat + o) n)
/-- The context table's entries: id, generation, flags. -/
def tableCtxs (s : State) : List (Nat × Nat × Nat) :=
  (List.range (min (headField s 32 4) 64)).map fun i =>
    let o := headField s 80 8 + 32 * i
    (headField s o 2, headField s (o + 2) 4, headField s (o + 6) 2)
/-- The range table's entries. -/
def tableRanges (s : State) : List (Nat × Nat) :=
  (List.range (headField s 36 4)).map fun i => (headField s (headField s 72 8 + 16 * i) 8, headField s (headField s 72 8 + 16 * i + 8) 8)
/-- The checkpoint that an area holds, known by its digest. -/
def heldCkpt (s : State) : Option Checkpoint :=
  let dg := (Memory.readN s.mem (s.ckptBase.toNat + 40) 32).map (·.toNat)
  s.ckpts.find? fun k => k.digest == dg
/-- A range of DRAM lies outside the reserves and off the lost dies. -/
def restorable1 (s : State) (r : Nat × Nat) : Bool := dramRange r.1 r.2 && !poisoned s r.1
/-- The first check of a restore that fails (R318), or 0. The range table is read once the header is known to be right. -/
def restoreRefusal (s : State) : Nat :=
  let base := s.ckptBase.toNat
  let total := headField s 24 8
  if (tableCtxs s).any fun e => decide (64 ≤ e.1) || (ctxOf s e.1).cst != 0 then 4
  else if headField s 0 4 != 0x4B435A4C || headField s 4 4 != 1 || decide (64 < headField s 32 4)
      || !((List.range 4008).all fun i => headField s (88 + i) 1 == 0)
      || !((List.range (min (headField s 32 4) 64)).all fun i => headField s (headField s 80 8 + 32 * i + 24) 8 == 0) then 2
  else if Memory.readN s.mem (base + 8) 16 != serialBytes then 5
  else if !cxlRange s base total || !(tableRanges s).all (restorable1 s)
      || (match heldCkpt s with | some k => k.ctxs.any fun (e : Nat × Ctx) => e.2.part.any s.lostDies.contains | none => false) then 1
  else if areaDigest s.mem base total != (Memory.readN s.mem (base + 40) 32).map (·.toNat) then 3
  else 0
/-- The ranges written back from the area (R318, step 1). -/
def writeBack (base : Nat) : Nat → List (Nat × Nat) → List Host.Cell → List Host.Cell → List Host.Cell
  | _, [], _, m => m
  | off, r :: rs, src, m =>
    let cells := src.filter fun c => decide (base + off ≤ c.1) && decide (c.1 < base + off + r.2)
    writeBack base (off + r.2) rs src (cells.foldl (fun m c => Memory.write m (r.1 + (c.1 - base - off)) c.2) (Memory.clear m r.1 (r.1 + r.2)))
/-- A restored context's slot (R318, steps 2 and 4): CTXID, CGEN and attributes from the table, the rest as it was held. -/
def restoredCtx (s : State) (k : Option Checkpoint) (e : Nat × Nat × Nat) : Ctx :=
  let x := match k with | some k => mgetD k.ctxs e.1 Ctx.free | none => Ctx.free
  { x with cst := 2, cause := 0, draining := false, xinv := s.nextUid, pages := [], cgen := BitVec.ofNat 32 e.2.1, det := bit e.2.2 0, vault := bit e.2.2 1, dbg := (ctxOf s e.1).dbg && !bit e.2.2 1 }
/-- Entries that a map does not list added to it. -/
def addNew {α : Type} (m extra : AMap α) : AMap α := m ++ extra.filter fun e => (mget m e.1).isNone
/-- Memory with the ciphertext of restored vaults' frames gone: what the dies see there is what the unwrapped keys make clear, the bytes that the
checkpoint keeps (R318, R326). -/
def clearVaults (s : State) (k : Checkpoint) : List Host.Cell :=
  ((k.ctxs.filter fun e => e.2.vault).flatMap fun e => (mappedPages s e.1).flatMap fun p => p.2.runs).foldl (fun m r => Memory.clear m r.1 (r.1 + r.2)) s.mem
/-- The allocations of the blocks that a checkpoint holds emptied: nothing stored there since is left (R318). -/
def clearLocals (s : State) (k : Checkpoint) : State :=
  k.blocks.foldl (fun t b => { t with
    mem := Memory.clear t.mem (localLoc b.1 0) (localLoc b.1 (2 ^ 20))
    log := t.log.filter fun e => !(decide (localLoc b.1 0 ≤ e.loc) && decide (e.loc < localLoc b.1 (2 ^ 20))) }) s
/-- Everything that a checkpoint holds of its contexts added to the panel: blocks with their rotation, groups with their trap frames, the vaults'
keys and bytes among it. -/
def addHeld (s0 : State) (k : Checkpoint) : State :=
  let s := clearLocals s0 k
  { s with
    grids := addNew s.grids k.grids, blocks := addNew s.blocks k.blocks, groups := addNew s.groups k.groups, cmds := addNew s.cmds k.cmds
    graphs := addNew s.graphs k.graphs, posts := addNew s.posts k.posts
    clusters := k.clusters.foldl (fun m e =>
      let c := mgetD m e.1 Cluster.idle
      mset m e.1 { c with latches := c.latches ++ e.2.latches.filter fun l => k.ctxs.any fun x => x.1 == l.ctx }) s.clusters
    slices := k.slices.foldl (fun m e =>
      let x := mgetD m e.1 Slice.empty
      mset m e.1 { x with
        episodes := x.episodes ++ e.2.episodes.filter fun p => k.ctxs.any fun y => y.1 == p.ctx
        orphans := x.orphans ++ e.2.orphans.filter fun p => k.ctxs.any fun y => y.1 == p.ctx }) s.slices
    mem := k.localMem.foldl (fun m c => Memory.write m c.1 c.2)
      (k.vaultMem.foldl (fun m c => Memory.write m c.1 c.2) (clearVaults s k)) }
/-- CKPT_RESTORE (R318): ignored while BUSY; the checks in order, then the restore; BUSY clears at its last write. -/
def ckptRestore (s : State) : State :=
  if ckptRunning s then s
  else
    let r := restoreRefusal s
    if r != 0 then { s with ckptCtl := ckptStatus false true r }
    else
      let rs := tableRanges s
      let k := heldCkpt s
      let m := writeBack s.ckptBase.toNat (ckptDataOff rs.length (headField s 32 4)) rs s.mem s.mem
      let inR (a : Nat) : Bool := rs.any fun r => decide (r.1 ≤ a) && decide (a < r.1 + r.2)
      let s1 := (tableCtxs s).foldl (fun t e => { t with ctxs := mset t.ctxs e.1 (restoredCtx s k e) })
        { s with mem := m, log := s.log.filter fun e => !inR e.loc, ckptCtl := ckptStatus true false 0, ckptBusy := some true }
      match k with | some k => addHeld s1 k | none => s1
/-- CKPT_RESTORE (R318). -/
def execCkptRestore (s : State) : Out := hostReg s ckptRestore
/-- CKPT_DONE (R317, R318): once every context is drained the area is written and flushed; a restore's last write is done. -/
def ckptDone (s : State) : Option State :=
  match s.ckptBusy with
  | none => none
  | some true => some { s with ckptCtl := ckptStatus false false 0, ckptBusy := none }
  | some false =>
    if (residents s).any fun c => (ctxOf s c).cst == 1 then none
    else if !cxlRange s s.ckptBase.toNat (ckptTotal s) then some { s with ckptCtl := ckptStatus false true 1, ckptBusy := none }
    else
      let w := writeArea s
      let lo := s.ckptBase.toNat
      some { s with mem := w.1, log := s.log.filter fun e => !(decide (lo < e.loc + e.old.length) && decide (e.loc < lo + ckptTotal s)), ckpts := snapshot s w.2 :: s.ckpts, ckptCtl := ckptStatus false false 0, ckptBusy := none }
/-- CKPT_DONE (R317). -/
def execCkptDone (s : State) : Out := .next ((ckptDone s).getD s)

end Sys2Proof.Machine
end

