-- ==== Sys2Proof/Machine/Bar0.lean ====
section
/-!
DEFINITION. BAR0 (R26, R28-R32, R38 and the registers of the other chapters): the writes that one row of the table makes to plain registers,
and what a read of each register gives. Registers whose writes have rows of their own have their meanings where their rules stand.
-/
namespace Sys2Proof.Machine

/-! ### Writes -/

/-- A vault is resident (R325). -/
def vaultResident (s : State) : Bool := s.ctxs.any fun e => e.2.vault && e.2.cst != 0
/-- A word cut to the bits a register has. -/
def regBits (v m : Nat) : Word := BitVec.ofNat 32 v &&& BitVec.ofNat 32 m
/-- REGISTER_WRITE (R28, R32): a register with no behaviour of its own stores its value, and a write to `CTX_CTL` acts by its bits (R308); the
interrupt registers answer before READY too (R38); an offset that names no such register changes nothing. -/
def registerWrite (s : State) (off v : Nat) : State :=
  let irq := regBits v 0x800007FF
  if s.frozen then s
  else if off = 0x20 then { s with irqReady := irq }
  else if off = 0x24 then { s with irqPower := irq }
  else if off = 0x28 then { s with irqPgreq := irq }
  else if off = 0x2C then { s with irqLink := irq }
  else if !s.ready then s
  else if 0x8000 ≤ off ∧ off < 0x8040 ∧ off % 4 = 0 then
    modRegion s ((off - 0x8000) / 4) fun r => { r with pendCstep := some (regBits v 0xFFFF0FFF) }
  else if 0x8040 ≤ off ∧ off < 0x8080 ∧ off % 4 = 0 then
    modRegion s ((off - 0x8040) / 4) fun r => { r with pendClk := some (regBits v 0x0001FFFF) }
  else if off = 0x1800 then { s with mintCtl := regBits v 0x800FFFFF }
  else if off = 0x2400 then { s with harvCtl := regBits v 0x80FF003F }
  else if off = 0x2108 then { s with ckptBase := BitVec.ofNat 64 (v % 2 ^ 64 / 4096 * 4096) }
  else if off = 0x2800 then (if vaultResident s then s else { s with secPolicy := regBits v 0x1F })
  else if 0x2000 ≤ off ∧ off < 0x2100 ∧ off % 4 = 0 then ctxCtl s ((off - 0x2000) / 4) v
  else if 0x01000000 ≤ off ∧ off < 0x01000000 + 384 * 0x1000 ∧ off % 0x100 = 0 then
    let o := off - 0x01000000
    let n := o / 0x1000 * 16 + o % 0x1000 / 0x100
    let s1 := { s with monitors := mset s.monitors n { monitorOf s n with ctl := regBits v 0x8000FF1F } }
    if bit v 30 then monClear s1 (n / 16) (n % 16) else s1
  else s
/-- REGISTER_WRITE (R28). -/
def execRegisterWrite (off v : Nat) (s : State) : Out := .next (registerWrite s off v)

/-! ### Reads (R38) -/

/-- `PANEL_STATUS` (R38). -/
def panelStatus (s : State) : Word :=
  BitVec.ofNat 32 (min 255 s.lostd * 2 ^ 16 + s.grade % 16 * 2 ^ 8 + s.stage % 16 * 2 ^ 4 + if s.ready then 1 else 0)
/-- The link whose `LINK_STATUS` lies at an offset (R26). -/
def linkAt (off : Nat) : Option Link :=
  if off % 4 != 0 then none
  else if 0x40 ≤ off ∧ off < 0x48 then some (.host ((off - 0x40) / 4))
  else if 0x100 ≤ off ∧ off < 0x180 then some (.cxl ((off - 0x100) / 4))
  else if 0x200 ≤ off ∧ off < 0x280 then some (.peer ((off - 0x200) / 4))
  else none
/-- `PWR_DROOP` (R31). -/
def pwrDroop (s : State) : Word :=
  BitVec.ofNat 32 ((List.range 16).foldl (fun m n => m + (if (regionOf s n).alarm then 2 ^ n else 0) + if (regionOf s n).latch then 2 ^ (16 + n) else 0) 0)
/-- `SEC_STATUS` (R329). -/
def secStatus (s : State) : Word := BitVec.ofNat 32 (min 0xFFFF s.secRefused * 2 ^ 16) ||| (s.secAlarm &&& 0x1F)
/-- A word of a monitor (R332). -/
def monitorRead (m : Monitor) (o : Nat) : Word :=
  if o = 0 then m.ctl &&& 0x8000FF1F else if o = 4 then m.min else if o = 8 then m.max
  else if 0x10 ≤ o ∧ o < 0x90 ∧ o % 4 = 0 then m.bins.getD ((o - 0x10) / 4) 0 else 0
/-- The high half of a 64-bit register. -/
def highHalf (v : DWord) : Word := (v >>> 32).setWidth 32
/-- A register that answers reads before READY too: `PANEL_STATUS`, the interrupt registers and every `LINK_STATUS` (R38). -/
def earlyRead (s : State) (off : Nat) : Option Word :=
  if off = 0 then some (panelStatus s)
  else if off = 0x20 then some s.irqReady
  else if off = 0x24 then some s.irqPower
  else if off = 0x28 then some s.irqPgreq
  else if off = 0x2C then some s.irqLink
  else (linkAt off).map (linkStatus s)
/-- The registers that answer once READY is set; a 64-bit register answers by halves, and what names no readable register reads 0 (log entry
60). -/
def readyRead (s : State) (off : Nat) : Word :=
  if off = 0x1010 then s.gload
  else if off = 0x1018 then s.graphStat
  else if off = 0x1020 then s.sgRebind
  else if off = 0x1400 then xlatView s
  else if off = 0x1408 then s.pgAnswer.setWidth 32
  else if off = 0x140C then highHalf s.pgAnswer
  else if off = 0x1410 then BitVec.ofNat 32 s.pgStale
  else if off = 0x1800 then s.mintCtl
  else if off = 0x1804 then s.mintStat
  else if 0x2000 ≤ off ∧ off < 0x2100 ∧ off % 4 = 0 then ctxCtlView s ((off - 0x2000) / 4)
  else if off = 0x2100 then s.ckptCtl
  else if off = 0x2108 then s.ckptBase.setWidth 32
  else if off = 0x210C then highHalf s.ckptBase
  else if off = 0x2200 then s.ctxCreate
  else if off = 0x2400 then s.harvCtl
  else if off = 0x2408 then s.offCtl
  else if off = 0x2800 then s.secPolicy
  else if off = 0x2808 then secStatus s
  else if off = 0x2810 then s.importStat
  else if 0x8000 ≤ off ∧ off < 0x8040 ∧ off % 4 = 0 then (regionOf s ((off - 0x8000) / 4)).cstep
  else if 0x8040 ≤ off ∧ off < 0x8080 ∧ off % 4 = 0 then (regionOf s ((off - 0x8040) / 4)).clk
  else if off = 0x8080 then pwrDroop s
  else if 0x01000000 ≤ off ∧ off < 0x01000000 + 384 * 0x1000 then
    monitorRead (monitorOf s ((off - 0x01000000) / 0x1000 * 16 + (off - 0x01000000) % 0x1000 / 0x100)) (off % 0x100)
  else 0
/-- What a 32-bit read of BAR0 gives (R38): before READY every register but the early ones reads 0 (log entry 60). The table has no row for a read of BAR0:
it changes nothing. -/
def bar0Read (s : State) (off : Nat) : Word :=
  match earlyRead s off with
  | some w => w
  | none => if s.ready then readyRead s off else 0

end Sys2Proof.Machine
end

