-- ==== Sys2Proof/Machine/Dispatch.lean ====
section
/-!
DEFINITION. One arm for each constructor of `Instr`: its meaning.
-/
namespace Sys2Proof.Machine

/-- What an instruction does to a state. -/
def exec (i : Instr) (s : State) : Host.Outcome State Fault Refusal :=
  match i with
  | .vadd sm xd xa xb kp => Sys2Proof.Machine.execVadd sm xd xa xb kp s
  | .vsub sm xd xa xb kp => Sys2Proof.Machine.execVsub sm xd xa xb kp s
  | .vmul sm xd xa xb kp => Sys2Proof.Machine.execVmul sm xd xa xb kp s
  | .vmulh sm xd xa xb kp => Sys2Proof.Machine.execVmulh sm xd xa xb kp s
  | .vmulhu sm xd xa xb kp => Sys2Proof.Machine.execVmulhu sm xd xa xb kp s
  | .vmad sm xd xa xb kp => Sys2Proof.Machine.execVmad sm xd xa xb kp s
  | .vmin sm xd xa xb kp => Sys2Proof.Machine.execVmin sm xd xa xb kp s
  | .vminu sm xd xa xb kp => Sys2Proof.Machine.execVminu sm xd xa xb kp s
  | .vmax sm xd xa xb kp => Sys2Proof.Machine.execVmax sm xd xa xb kp s
  | .vmaxu sm xd xa xb kp => Sys2Proof.Machine.execVmaxu sm xd xa xb kp s
  | .vand sm xd xa xb kp => Sys2Proof.Machine.execVand sm xd xa xb kp s
  | .vor sm xd xa xb kp => Sys2Proof.Machine.execVor sm xd xa xb kp s
  | .vxor sm xd xa xb kp => Sys2Proof.Machine.execVxor sm xd xa xb kp s
  | .vshl sm xd xa xb kp => Sys2Proof.Machine.execVshl sm xd xa xb kp s
  | .vshr sm xd xa xb kp => Sys2Proof.Machine.execVshr sm xd xa xb kp s
  | .vsra sm xd xa xb kp => Sys2Proof.Machine.execVsra sm xd xa xb kp s
  | .vaddi sm xd xa imm => Sys2Proof.Machine.execVaddi sm xd xa imm s
  | .vandi sm xd xa imm => Sys2Proof.Machine.execVandi sm xd xa imm s
  | .vori sm xd xa imm => Sys2Proof.Machine.execVori sm xd xa imm s
  | .vxori sm xd xa imm => Sys2Proof.Machine.execVxori sm xd xa imm s
  | .vshli sm xd xa amt => Sys2Proof.Machine.execVshli sm xd xa amt s
  | .vshri sm xd xa amt => Sys2Proof.Machine.execVshri sm xd xa amt s
  | .vsrai sm xd xa amt => Sys2Proof.Machine.execVsrai sm xd xa amt s
  | .vmovi sm xd imm => Sys2Proof.Machine.execVmovi sm xd imm s
  | .vlui sm xd imm => Sys2Proof.Machine.execVlui sm xd imm s
  | .vbfx sm xd xa xb kp => Sys2Proof.Machine.execVbfx sm xd xa xb kp s
  | .vbfi sm xd xa xb kp => Sys2Proof.Machine.execVbfi sm xd xa xb kp s
  | .vsel sm xd xa xb kp => Sys2Proof.Machine.execVsel sm xd xa xb kp s
  | .vmov sm xd xa kp => Sys2Proof.Machine.execVmov sm xd xa kp s
  | .vneg sm xd xa kp => Sys2Proof.Machine.execVneg sm xd xa kp s
  | .vabs sm xd xa kp => Sys2Proof.Machine.execVabs sm xd xa kp s
  | .vnot sm xd xa kp => Sys2Proof.Machine.execVnot sm xd xa kp s
  | .vpopc sm xd xa kp => Sys2Proof.Machine.execVpopc sm xd xa kp s
  | .vclz sm xd xa kp => Sys2Proof.Machine.execVclz sm xd xa kp s
  | .vbrev sm xd xa kp => Sys2Proof.Machine.execVbrev sm xd xa kp s
  | .vlid sm xd kp => Sys2Proof.Machine.execVlid sm xd kp s
  | .vcmp sm cc kd xa xb kp => Sys2Proof.Machine.execVcmp sm cc kd xa xb kp s
  | .vfcmp sm cc kd xa xb kp => Sys2Proof.Machine.execVfcmp sm cc kd xa xb kp s
  | .vfadd sm xd xa xb kp => Sys2Proof.Machine.execVfadd sm xd xa xb kp s
  | .vfsub sm xd xa xb kp => Sys2Proof.Machine.execVfsub sm xd xa xb kp s
  | .vfmul sm xd xa xb kp => Sys2Proof.Machine.execVfmul sm xd xa xb kp s
  | .vfma sm xd xa xb kp => Sys2Proof.Machine.execVfma sm xd xa xb kp s
  | .vfms sm xd xa xb kp => Sys2Proof.Machine.execVfms sm xd xa xb kp s
  | .vfmin sm xd xa xb kp => Sys2Proof.Machine.execVfmin sm xd xa xb kp s
  | .vfmax sm xd xa xb kp => Sys2Proof.Machine.execVfmax sm xd xa xb kp s
  | .vfabs sm xd xa kp => Sys2Proof.Machine.execVfabs sm xd xa kp s
  | .vfneg sm xd xa kp => Sys2Proof.Machine.execVfneg sm xd xa kp s
  | .vfrnd sm md xd xa kp => Sys2Proof.Machine.execVfrnd sm md xd xa kp s
  | .vfclass sm xd xa kp => Sys2Proof.Machine.execVfclass sm xd xa kp s
  | .vrcp sm md xd xa kp => Sys2Proof.Machine.execVrcp sm md xd xa kp s
  | .vrsq sm xd xa kp => Sys2Proof.Machine.execVrsq sm xd xa kp s
  | .vsqrt sm md xd xa kp => Sys2Proof.Machine.execVsqrt sm md xd xa kp s
  | .vexp2 sm xd xa kp => Sys2Proof.Machine.execVexp2 sm xd xa kp s
  | .vlog2 sm xd xa kp => Sys2Proof.Machine.execVlog2 sm xd xa kp s
  | .vsin sm xd xa kp => Sys2Proof.Machine.execVsin sm xd xa kp s
  | .vcos sm xd xa kp => Sys2Proof.Machine.execVcos sm xd xa kp s
  | .vtanh sm xd xa kp => Sys2Proof.Machine.execVtanh sm xd xa kp s
  | .vpadd sm ty xd xa xb => Sys2Proof.Machine.execVpadd sm ty xd xa xb s
  | .vpmul sm ty xd xa xb => Sys2Proof.Machine.execVpmul sm ty xd xa xb s
  | .vpfma sm ty xd xa xb => Sys2Proof.Machine.execVpfma sm ty xd xa xb s
  | .vcvt sm kind md xd xa kp => Sys2Proof.Machine.execVcvt sm kind md xd xa kp s
  | .vquant sm fmt xd xa kd kp => Sys2Proof.Machine.execVquant sm fmt xd xa kd kp s
  | .vdot4 sm sa sb st xd xa xb => Sys2Proof.Machine.execVdot4 sm sa sb st xd xa xb s
  | .vdot8 sm sa sb st xd xa xb => Sys2Proof.Machine.execVdot8 sm sa sb st xd xa xb s
  | .vshfl sm xd xa xb kp => Sys2Proof.Machine.execVshfl sm xd xa xb kp s
  | .vbcast sm xd xa lane => Sys2Proof.Machine.execVbcast sm xd xa lane s
  | .vrot sm xd xa rot => Sys2Proof.Machine.execVrot sm xd xa rot s
  | .vred sm fn md xd xa kp => Sys2Proof.Machine.execVred sm fn md xd xa kp s
  | .vscan sm fn md xd xa kp => Sys2Proof.Machine.execVscan sm fn md xd xa kp s
  | .vld sm sz strong xt xo aw kp => Sys2Proof.Machine.execVld sm sz strong xt xo aw kp s
  | .vst sm sz strong xt xo aw kp => Sys2Proof.Machine.execVst sm sz strong xt xo aw kp s
  | .vatom sm aop xt xo aw kp => Sys2Proof.Machine.execVatom sm aop xt xo aw kp s
  | .lld sm sz xt xo disp kp => Sys2Proof.Machine.execLld sm sz xt xo disp kp s
  | .lst sm sz xt xo disp kp => Sys2Proof.Machine.execLst sm sz xt xo disp kp s
  | .latom sm aop xt xo kp => Sys2Proof.Machine.execLatom sm aop xt xo kp s
  | .vltag sm xd xa kp => Sys2Proof.Machine.execVltag sm xd xa kp s
  | .sadd sm w xd xa xb => Sys2Proof.Machine.execSadd sm w xd xa xb s
  | .ssub sm w xd xa xb => Sys2Proof.Machine.execSsub sm w xd xa xb s
  | .smul sm w xd xa xb => Sys2Proof.Machine.execSmul sm w xd xa xb s
  | .smulh sm w xd xa xb => Sys2Proof.Machine.execSmulh sm w xd xa xb s
  | .sand sm w xd xa xb => Sys2Proof.Machine.execSand sm w xd xa xb s
  | .sor sm w xd xa xb => Sys2Proof.Machine.execSor sm w xd xa xb s
  | .sxor sm w xd xa xb => Sys2Proof.Machine.execSxor sm w xd xa xb s
  | .smulhu sm w xd xa xb => Sys2Proof.Machine.execSmulhu sm w xd xa xb s
  | .sshl sm w xd xa xb => Sys2Proof.Machine.execSshl sm w xd xa xb s
  | .sshr sm w xd xa xb => Sys2Proof.Machine.execSshr sm w xd xa xb s
  | .ssra sm w xd xa xb => Sys2Proof.Machine.execSsra sm w xd xa xb s
  | .sandn sm w xd xa xb => Sys2Proof.Machine.execSandn sm w xd xa xb s
  | .smin sm w xd xa xb => Sys2Proof.Machine.execSmin sm w xd xa xb s
  | .smax sm w xd xa xb => Sys2Proof.Machine.execSmax sm w xd xa xb s
  | .sminu sm w xd xa xb => Sys2Proof.Machine.execSminu sm w xd xa xb s
  | .smaxu sm w xd xa xb => Sys2Proof.Machine.execSmaxu sm w xd xa xb s
  | .sdiv sm w xd xa xb => Sys2Proof.Machine.execSdiv sm w xd xa xb s
  | .sdivu sm w xd xa xb => Sys2Proof.Machine.execSdivu sm w xd xa xb s
  | .srem sm w xd xa xb => Sys2Proof.Machine.execSrem sm w xd xa xb s
  | .sremu sm w xd xa xb => Sys2Proof.Machine.execSremu sm w xd xa xb s
  | .scmp sm w xa xb => Sys2Proof.Machine.execScmp sm w xa xb s
  | .sfcmp sm xa xb => Sys2Proof.Machine.execSfcmp sm xa xb s
  | .spopc sm w xd xa => Sys2Proof.Machine.execSpopc sm w xd xa s
  | .sclz sm w xd xa => Sys2Proof.Machine.execSclz sm w xd xa s
  | .sfadd sm xd xa xb => Sys2Proof.Machine.execSfadd sm xd xa xb s
  | .sfsub sm xd xa xb => Sys2Proof.Machine.execSfsub sm xd xa xb s
  | .sfmul sm xd xa xb => Sys2Proof.Machine.execSfmul sm xd xa xb s
  | .sfma sm xd xa xb => Sys2Proof.Machine.execSfma sm xd xa xb s
  | .ssel sm cnd xd xa xb => Sys2Proof.Machine.execSsel sm cnd xd xa xb s
  | .saddi sm xd xa imm => Sys2Proof.Machine.execSaddi sm xd xa imm s
  | .sandi sm xd xa imm => Sys2Proof.Machine.execSandi sm xd xa imm s
  | .sori sm xd xa imm => Sys2Proof.Machine.execSori sm xd xa imm s
  | .sxori sm xd xa imm => Sys2Proof.Machine.execSxori sm xd xa imm s
  | .sshli sm w xd xa amt => Sys2Proof.Machine.execSshli sm w xd xa amt s
  | .sshri sm w xd xa amt => Sys2Proof.Machine.execSshri sm w xd xa amt s
  | .ssrai sm w xd xa amt => Sys2Proof.Machine.execSsrai sm w xd xa amt s
  | .scmpi sm xa imm => Sys2Proof.Machine.execScmpi sm xa imm s
  | .smovi sm xd imm => Sys2Proof.Machine.execSmovi sm xd imm s
  | .slui sm xd imm => Sys2Proof.Machine.execSlui sm xd imm s
  | .smovl sm xd imm => Sys2Proof.Machine.execSmovl sm xd imm s
  | .scvt sm kind xd xa => Sys2Proof.Machine.execScvt sm kind xd xa s
  | .sget sm xd xa xb => Sys2Proof.Machine.execSget sm xd xa xb s
  | .sset sm xd xa xb => Sys2Proof.Machine.execSset sm xd xa xb s
  | .br sm cnd off => Sys2Proof.Machine.execBr sm cnd off s
  | .call sm cnd off => Sys2Proof.Machine.execCall sm cnd off s
  | .jmpr sm xa => Sys2Proof.Machine.execJmpr sm xa s
  | .ret sm => Sys2Proof.Machine.execRet sm s
  | .callr sm xa => Sys2Proof.Machine.execCallr sm xa s
  | .dif sm kc off => Sys2Proof.Machine.execDif sm kc off s
  | .delse sm off => Sys2Proof.Machine.execDelse sm off s
  | .dend sm => Sys2Proof.Machine.execDend sm s
  | .dloop sm kc off => Sys2Proof.Machine.execDloop sm kc off s
  | .dbrk sm kc off => Sys2Proof.Machine.execDbrk sm kc off s
  | .kand sm kd ka kb => Sys2Proof.Machine.execKand sm kd ka kb s
  | .kor sm kd ka kb => Sys2Proof.Machine.execKor sm kd ka kb s
  | .kxor sm kd ka kb => Sys2Proof.Machine.execKxor sm kd ka kb s
  | .kandn sm kd ka kb => Sys2Proof.Machine.execKandn sm kd ka kb s
  | .knot sm kd ka => Sys2Proof.Machine.execKnot sm kd ka s
  | .kmov sm kd ka => Sys2Proof.Machine.execKmov sm kd ka s
  | .kpopc sm xa ka => Sys2Proof.Machine.execKpopc sm xa ka s
  | .kfirst sm xa ka => Sys2Proof.Machine.execKfirst sm xa ka s
  | .kset sm kd => Sys2Proof.Machine.execKset sm kd s
  | .kget sm xa ka => Sys2Proof.Machine.execKget sm xa ka s
  | .kfrom sm kd xa => Sys2Proof.Machine.execKfrom sm kd xa s
  | .sld sm sz xd xa disp => Sys2Proof.Machine.execSld sm sz xd xa disp s
  | .sst sm sz xd xa disp => Sys2Proof.Machine.execSst sm sz xd xa disp s
  | .satomAdd sm w xd xa xb => Sys2Proof.Machine.execSatomAdd sm w xd xa xb s
  | .satomMin sm w xd xa xb => Sys2Proof.Machine.execSatomMin sm w xd xa xb s
  | .satomMax sm w xd xa xb => Sys2Proof.Machine.execSatomMax sm w xd xa xb s
  | .satomSwp sm w xd xa xb => Sys2Proof.Machine.execSatomSwp sm w xd xa xb s
  | .satomAnd sm w xd xa xb => Sys2Proof.Machine.execSatomAnd sm w xd xa xb s
  | .satomOr sm w xd xa xb => Sys2Proof.Machine.execSatomOr sm w xd xa xb s
  | .satomXor sm w xd xa xb => Sys2Proof.Machine.execSatomXor sm w xd xa xb s
  | .satomCas sm w xd xa xb => Sys2Proof.Machine.execSatomCas sm w xd xa xb s
  | .bar sm id => Sys2Proof.Machine.execBar sm id s
  | .barph sm id idx => Sys2Proof.Machine.execBarph sm id idx s
  | .bwinit sm xa xb => Sys2Proof.Machine.execBwinit sm xa xb s
  | .barv sm xd xa => Sys2Proof.Machine.execBarv sm xd xa s
  | .bwt sm xa xb => Sys2Proof.Machine.execBwt sm xa xb s
  | .wait sm cls count => Sys2Proof.Machine.execWait sm cls count s
  | .wtok sm xa => Sys2Proof.Machine.execWtok sm xa s
  | .wadr sm xd xa xb => Sys2Proof.Machine.execWadr sm xd xa xb s
  | .wake sm xd xa xb => Sys2Proof.Machine.execWake sm xd xa xb s
  | .fenceAcq sm sc => Sys2Proof.Machine.execFenceAcq sm sc s
  | .fenceRel sm sc => Sys2Proof.Machine.execFenceRel sm sc s
  | .fenceAr sm sc => Sys2Proof.Machine.execFenceAr sm sc s
  | .fenceSc sm sc => Sys2Proof.Machine.execFenceSc sm sc s
  | .pfence sm sc frm dst => Sys2Proof.Machine.execPfence sm sc frm dst s
  | .acq sm xa => Sys2Proof.Machine.execAcq sm xa s
  | .rel sm xa => Sys2Proof.Machine.execRel sm xa s
  | .bind sm xd xa xb => Sys2Proof.Machine.execBind sm xd xa xb s
  | .unbind sm xd xa xb => Sys2Proof.Machine.execUnbind sm xd xa xb s
  | .ifence sm => Sys2Proof.Machine.execIfence sm s
  | .cpy sm arv xd xa => Sys2Proof.Machine.execCpy sm arv xd xa s
  | .cpy2d sm arv xd xa => Sys2Proof.Machine.execCpy2d sm arv xd xa s
  | .gath sm scl arv xd xa => Sys2Proof.Machine.execGath sm scl arv xd xa s
  | .scat sm scl arv xd xa => Sys2Proof.Machine.execScat sm scl arv xd xa s
  | .cpyl sm arv xd xa => Sys2Proof.Machine.execCpyl sm arv xd xa s
  | .fill sm arv xd xa => Sys2Proof.Machine.execFill sm arv xd xa s
  | .allred sm bf op arv xd xa => Sys2Proof.Machine.execAllred sm bf op arv xd xa s
  | .allgath sm arv xd xa => Sys2Proof.Machine.execAllgath sm arv xd xa s
  | .redscat sm bf op arv xd xa => Sys2Proof.Machine.execRedscat sm bf op arv xd xa s
  | .bcast sm arv xd xa => Sys2Proof.Machine.execBcast sm arv xd xa s
  | .mxres sm xd xa => Sys2Proof.Machine.execMxres sm xd xa s
  | .mxrel sm xd xa => Sys2Proof.Machine.execMxrel sm xd xa s
  | .mxld sm xd xa => Sys2Proof.Machine.execMxld sm xd xa s
  | .mxmm sm xd xa => Sys2Proof.Machine.execMxmm sm xd xa s
  | .mxmmg sm xd xa => Sys2Proof.Machine.execMxmmg sm xd xa s
  | .launch sm arv xd xa => Sys2Proof.Machine.execLaunch sm arv xd xa s
  | .gtrig sm xd xa => Sys2Proof.Machine.execGtrig sm xd xa s
  | .fdone sm xd => Sys2Proof.Machine.execFdone sm xd s
  | .coinw sm => Sys2Proof.Machine.execCoinw sm s
  | .coinp sm => Sys2Proof.Machine.execCoinp sm s
  | .rnd sm => Sys2Proof.Machine.execRnd sm s
  | .spt sm n => Sys2Proof.Machine.execSpt sm n s
  | .xfer sm xd xa => Sys2Proof.Machine.execXfer sm xd xa s
  | .epopen sm xd xa => Sys2Proof.Machine.execEpopen sm xd xa s
  | .epstep sm xd xa => Sys2Proof.Machine.execEpstep sm xd xa s
  | .epclose sm xd xa => Sys2Proof.Machine.execEpclose sm xd xa s
  | .rwpost sm xd xa => Sys2Proof.Machine.execRwpost sm xd xa s
  | .lqpop sm xd xa => Sys2Proof.Machine.execLqpop sm xd xa s
  | .escfg sm xd xa => Sys2Proof.Machine.execEscfg sm xd xa s
  | .nop sm => Sys2Proof.Machine.execNop sm s
  | .brk sm => Sys2Proof.Machine.execBrk sm s
  | .sret sm => Sys2Proof.Machine.execSret sm s
  | .halt sm => Sys2Proof.Machine.execHalt sm s
  | .trap sm n => Sys2Proof.Machine.execTrap sm n s
  | .srd sm xd num => Sys2Proof.Machine.execSrd sm xd num s
  | .swr sm xa num => Sys2Proof.Machine.execSwr sm xa num s
  | .topo sm xd xa sel => Sys2Proof.Machine.execTopo sm xd xa sel s
  | .capq sm xd xa sel => Sys2Proof.Machine.execCapq sm xd xa sel s
  | .ltag sm xd xa => Sys2Proof.Machine.execLtag sm xd xa s
  | .tagset sm xd xa xb => Sys2Proof.Machine.execTagset sm xd xa xb s
  | .tagclr sm xd xa xb => Sys2Proof.Machine.execTagclr sm xd xa xb s
  | .xacq sm n => Sys2Proof.Machine.execXacq sm n s
  | .xrel sm => Sys2Proof.Machine.execXrel sm s
  | .awin sm aw xa => Sys2Proof.Machine.execAwin sm aw xa s
  | .pref sm xa xb => Sys2Proof.Machine.execPref sm xa xb s
  | .prefT sm xa xb => Sys2Proof.Machine.execPrefT sm xa xb s
  | .shortVadd a b => Sys2Proof.Machine.execShortVadd a b s
  | .shortVsub a b => Sys2Proof.Machine.execShortVsub a b s
  | .shortVmul a b => Sys2Proof.Machine.execShortVmul a b s
  | .shortVfadd a b => Sys2Proof.Machine.execShortVfadd a b s
  | .shortVfmul a b => Sys2Proof.Machine.execShortVfmul a b s
  | .shortVfma a b c => Sys2Proof.Machine.execShortVfma a b c s
  | .shortVmov a b => Sys2Proof.Machine.execShortVmov a b s
  | .shortVaddi a b => Sys2Proof.Machine.execShortVaddi a b s
  | .shortVld a b => Sys2Proof.Machine.execShortVld a b s
  | .shortVst a b => Sys2Proof.Machine.execShortVst a b s
  | .shortLld a b c => Sys2Proof.Machine.execShortLld a b c s
  | .shortLst a b c => Sys2Proof.Machine.execShortLst a b c s
  | .shortVand a b => Sys2Proof.Machine.execShortVand a b s
  | .shortVor a b => Sys2Proof.Machine.execShortVor a b s
  | .shortVshli a b c => Sys2Proof.Machine.execShortVshli a b c s
  | .shortVcmp a b c => Sys2Proof.Machine.execShortVcmp a b c s
  | .shortSadd a b => Sys2Proof.Machine.execShortSadd a b s
  | .shortSsub a b => Sys2Proof.Machine.execShortSsub a b s
  | .shortSaddi a b => Sys2Proof.Machine.execShortSaddi a b s
  | .shortSmov a b => Sys2Proof.Machine.execShortSmov a b s
  | .shortScmp a b => Sys2Proof.Machine.execShortScmp a b s
  | .shortSld a b c => Sys2Proof.Machine.execShortSld a b c s
  | .shortSst a b c => Sys2Proof.Machine.execShortSst a b c s
  | .shortSshli a b c => Sys2Proof.Machine.execShortSshli a b c s
  | .shortBr a b c => Sys2Proof.Machine.execShortBr a b c s
  | .shortDend => Sys2Proof.Machine.execShortDend s
  | .shortSpt a b => Sys2Proof.Machine.execShortSpt a b s
  | .shortWait a b => Sys2Proof.Machine.execShortWait a b s
  | .shortBar a => Sys2Proof.Machine.execShortBar a s
  | .shortNop => Sys2Proof.Machine.execShortNop s
  | .xacqGrant core => Sys2Proof.Machine.execXacqGrant core s
  | .bwtWake g => Sys2Proof.Machine.execBwtWake g s
  | .wadrWake g => Sys2Proof.Machine.execWadrWake g s
  | .engineCause g => Sys2Proof.Machine.execEngineCause g s
  | .groupExit g => Sys2Proof.Machine.execGroupExit g s
  | .blockPlace grid core => Sys2Proof.Machine.execBlockPlace grid core s
  | .phaseEnd blk => Sys2Proof.Machine.execPhaseEnd blk s
  | .phaseResume blk core => Sys2Proof.Machine.execPhaseResume blk core s
  | .blockRetire blk => Sys2Proof.Machine.execBlockRetire blk s
  | .gridComplete grid => Sys2Proof.Machine.execGridComplete grid s
  | .copyComplete cmd => Sys2Proof.Machine.execCopyComplete cmd s
  | .cpylLineLand cmd => Sys2Proof.Machine.execCpylLineLand cmd s
  | .collectiveRound cmd => Sys2Proof.Machine.execCollectiveRound cmd s
  | .matrixUnit cluster => Sys2Proof.Machine.execMatrixUnit cluster s
  | .powerOn lost down => Sys2Proof.Machine.execPowerOn lost down s
  | .powerStep region current => Sys2Proof.Machine.execPowerStep region current s
  | .droopAlarm region => Sys2Proof.Machine.execDroopAlarm region s
  | .droopAlarmClear region => Sys2Proof.Machine.execDroopAlarmClear region s
  | .slowHoldExpire region => Sys2Proof.Machine.execSlowHoldExpire region s
  | .pwrDroopWrite v => Sys2Proof.Machine.execPwrDroopWrite v s
  | .linkStateChange link st width rate reason cap => Sys2Proof.Machine.execLinkStateChange link st width rate reason cap s
  | .peerFlitReceive port flit => Sys2Proof.Machine.execPeerFlitReceive port flit s
  | .peerLinkRetrain port => Sys2Proof.Machine.execPeerLinkRetrain port s
  | .bar2Read off len => Sys2Proof.Machine.execBar2Read off len s
  | .bar2Write off bytes => Sys2Proof.Machine.execBar2Write off bytes s
  | .registerWrite off v => Sys2Proof.Machine.execRegisterWrite off v s
  | .pageRequestForward c => Sys2Proof.Machine.execPageRequestForward c s
  | .pgAnswer v => Sys2Proof.Machine.execPgAnswer v s
  | .pgStaleClear => Sys2Proof.Machine.execPgStaleClear s
  | .xlatInv v => Sys2Proof.Machine.execXlatInv v s
  | .xlatInvComplete => Sys2Proof.Machine.execXlatInvComplete s
  | .ctxCreate v => Sys2Proof.Machine.execCtxCreate v s
  | .ctxDbg c on => Sys2Proof.Machine.execCtxDbg c on s
  | .ctxDestroy c => Sys2Proof.Machine.execCtxDestroy c s
  | .ctxKill c => Sys2Proof.Machine.execCtxKill c s
  | .ctxResume c => Sys2Proof.Machine.execCtxResume c s
  | .ctxPreempt c => Sys2Proof.Machine.execCtxPreempt c s
  | .ctxUnpreempt c => Sys2Proof.Machine.execCtxUnpreempt c s
  | .schedulerDrain c => Sys2Proof.Machine.execSchedulerDrain c s
  | .drainComplete c => Sys2Proof.Machine.execDrainComplete c s
  | .ckptStart => Sys2Proof.Machine.execCkptStart s
  | .ckptRestore => Sys2Proof.Machine.execCkptRestore s
  | .ckptDone => Sys2Proof.Machine.execCkptDone s
  | .dieOffline v => Sys2Proof.Machine.execDieOffline v s
  | .offlineDone => Sys2Proof.Machine.execOfflineDone s
  | .dieLoss die => Sys2Proof.Machine.execDieLoss die s
  | .correctedError die kind unit cycle => Sys2Proof.Machine.execCorrectedError die kind unit cycle s
  | .harvestRetire die kind unit => Sys2Proof.Machine.execHarvestRetire die kind unit s
  | .vaultImport v => Sys2Proof.Machine.execVaultImport v s
  | .securityAlarm src => Sys2Proof.Machine.execSecurityAlarm src s
  | .secStatusWrite v => Sys2Proof.Machine.execSecStatusWrite v s
  | .secFreeze => Sys2Proof.Machine.execSecFreeze s
  | .freezeLine => Sys2Proof.Machine.execFreezeLine s
  | .monClear die mon => Sys2Proof.Machine.execMonClear die mon s
  | .mintStatClear => Sys2Proof.Machine.execMintStatClear s
  | .mintTrigger c img kern => Sys2Proof.Machine.execMintTrigger c img kern s
  | .mintBuildDone c img kern built => Sys2Proof.Machine.execMintBuildDone c img kern built s
  | .eventTask c => Sys2Proof.Machine.execEventTask c s
  | .traceOverflowRecord c die => Sys2Proof.Machine.execTraceOverflowRecord c die s
  | .roundClose grid => Sys2Proof.Machine.execRoundClose grid s
  | .coinWaitResume g => Sys2Proof.Machine.execCoinWaitResume g s
  | .blockSuspend blk => Sys2Proof.Machine.execBlockSuspend blk s
  | .rewardApply post => Sys2Proof.Machine.execRewardApply post s
  | .orphanExpire slice c key t => Sys2Proof.Machine.execOrphanExpire slice c key t s
  | .episodeTimeout slice c key => Sys2Proof.Machine.execEpisodeTimeout slice c key s
  | .discountEpisode slice => Sys2Proof.Machine.execDiscountEpisode slice s
  | .episodeRelease slice c => Sys2Proof.Machine.execEpisodeRelease slice c s
  | .escPost size v => Sys2Proof.Machine.execEscPost size v s
  | .gload v => Sys2Proof.Machine.execGload v s
  | .gtrigWrite v => Sys2Proof.Machine.execGtrigWrite v s
  | .graphStatClear => Sys2Proof.Machine.execGraphStatClear s
  | .graphRunStart gid => Sys2Proof.Machine.execGraphRunStart gid s
  | .graphNodeStart gid node => Sys2Proof.Machine.execGraphNodeStart gid node s
  | .graphRunComplete gid => Sys2Proof.Machine.execGraphRunComplete gid s
  | .firingDispatch gid node stage core => Sys2Proof.Machine.execFiringDispatch gid node stage core s
  | .governorMove gid node => Sys2Proof.Machine.execGovernorMove gid node s
  | .sgRebind v => Sys2Proof.Machine.execSgRebind v s
  | .sgRebindApply gid node => Sys2Proof.Machine.execSgRebindApply gid node s
  | .registerResultWritten g => Sys2Proof.Machine.execRegisterResultWritten g s
  | .contextCreationEnd => Sys2Proof.Machine.execContextCreationEnd s
  | .graphLoadEnd => Sys2Proof.Machine.execGraphLoadEnd s
  | .importEnd => Sys2Proof.Machine.execImportEnd s
  | .alarmSourceEnd src => Sys2Proof.Machine.execAlarmSourceEnd src s
  | .imageLoad c bytes bases syms => Sys2Proof.Machine.execImageLoad c bytes bases syms s

end Sys2Proof.Machine
end

