-- ==== Sys2Proof/Machine/Moves.lean ====
section
/-!
DEFINITION. What the machine can do next by itself: which groups can issue (R48, R49, R344, R345), what an issue begins with (R51, R102), which
events are due, and what follows every step.
-/
namespace Sys2Proof.Machine

/-- The events that the machine makes by itself, as the rows of the table name them. -/
inductive SelfEvent where
  | xacqGrant (core : Nat)
  | bwtWake (g : Nat)
  | wadrWake (g : Nat)
  | engineCause (g : Nat)
  | groupExit (g : Nat)
  | blockPlace (grid : Nat) (core : Nat)
  | phaseEnd (blk : Nat)
  | phaseResume (blk : Nat) (core : Nat)
  | blockRetire (blk : Nat)
  | gridComplete (grid : Nat)
  | copyComplete (cmd : Nat)
  | cpylLineLand (cmd : Nat)
  | collectiveRound (cmd : Nat)
  | matrixUnit (cluster : Nat)
  | peerLinkRetrain (port : Nat)
  | pageRequestForward (c : Nat)
  | xlatInvComplete
  | schedulerDrain (c : Nat)
  | drainComplete (c : Nat)
  | ckptDone
  | offlineDone
  | harvestRetire (die : Nat) (kind : Nat) (unit : Nat)
  | mintTrigger (c : Nat) (img : Nat) (kern : Nat)
  | eventTask (c : Nat)
  | roundClose (grid : Nat)
  | blockSuspend (blk : Nat)
  | rewardApply (post : Nat)
  | discountEpisode (slice : Nat)
  | episodeRelease (slice : Nat) (c : Nat)
  | graphRunStart (gid : Nat)
  | graphNodeStart (gid : Nat) (node : Nat)
  | graphRunComplete (gid : Nat)
  | firingDispatch (gid : Nat) (node : Nat) (stage : Nat) (core : Nat)
  | governorMove (gid : Nat) (node : Nat)
  | sgRebindApply (gid : Nat) (node : Nat)
  | registerResultWritten (g : Nat)
  | contextCreationEnd
  | graphLoadEnd
  | importEnd
  deriving DecidableEq, Repr
/-- What an event of the machine does: the meaning of its row. -/
def SelfEvent.run : SelfEvent → State → Out
  | .xacqGrant core, s => execXacqGrant core s
  | .bwtWake g, s => execBwtWake g s
  | .wadrWake g, s => execWadrWake g s
  | .engineCause g, s => execEngineCause g s
  | .groupExit g, s => execGroupExit g s
  | .blockPlace grid core, s => execBlockPlace grid core s
  | .phaseEnd blk, s => execPhaseEnd blk s
  | .phaseResume blk core, s => execPhaseResume blk core s
  | .blockRetire blk, s => execBlockRetire blk s
  | .gridComplete grid, s => execGridComplete grid s
  | .copyComplete cmd, s => execCopyComplete cmd s
  | .cpylLineLand cmd, s => execCpylLineLand cmd s
  | .collectiveRound cmd, s => execCollectiveRound cmd s
  | .matrixUnit cluster, s => execMatrixUnit cluster s
  | .peerLinkRetrain port, s => execPeerLinkRetrain port s
  | .pageRequestForward c, s => execPageRequestForward c s
  | .xlatInvComplete, s => execXlatInvComplete s
  | .schedulerDrain c, s => execSchedulerDrain c s
  | .drainComplete c, s => execDrainComplete c s
  | .ckptDone, s => execCkptDone s
  | .offlineDone, s => execOfflineDone s
  | .harvestRetire die kind unit, s => execHarvestRetire die kind unit s
  | .mintTrigger c img kern, s => execMintTrigger c img kern s
  | .eventTask c, s => execEventTask c s
  | .roundClose grid, s => execRoundClose grid s
  | .blockSuspend blk, s => execBlockSuspend blk s
  | .rewardApply post, s => execRewardApply post s
  | .discountEpisode slice, s => execDiscountEpisode slice s
  | .episodeRelease slice c, s => execEpisodeRelease slice c s
  | .graphRunStart gid, s => execGraphRunStart gid s
  | .graphNodeStart gid node, s => execGraphNodeStart gid node s
  | .graphRunComplete gid, s => execGraphRunComplete gid s
  | .firingDispatch gid node stage core, s => execFiringDispatch gid node stage core s
  | .governorMove gid node, s => execGovernorMove gid node s
  | .sgRebindApply gid node, s => execSgRebindApply gid node s
  | .registerResultWritten g, s => execRegisterResultWritten g s
  | .contextCreationEnd, s => execContextCreationEnd s
  | .graphLoadEnd, s => execGraphLoadEnd s
  | .importEnd, s => execImportEnd s
/-- A move of the machine: an event that is due, an issue of a group on a core, or an event that uses a group's turn there. -/
inductive Action where
  | event (e : SelfEvent)
  | issue (core u : Nat)
  | turn (core u : Nat) (e : SelfEvent)
  deriving DecidableEq, Repr

/-! ### Eligible groups (R48) -/

/-- The row is an instruction word, not an event. -/
def isWord (i : Instr) : Bool := (encode i).isSome
/-- A lane word (R47): bit 31 of a long word is 0, or one of the sixteen short lane forms (R100). -/
def isLaneWord (i : Instr) : Bool :=
  match encode i with
  | some w => if i.isShort then decide (w / 2 ^ 10 < 16) else !bit w 31
  | none => false
/-- What the park of a group waits for has come, so that its word executes again (R124, R198, R246-R248, R277, R341, R372-R374). -/
def parkOver (s : State) (u : Nat) (g : Group) : Bool :=
  match g.park with
  | none => true
  | some (.cls c n) => decide (classCount s u c ≤ n)
  | some (.token t) => !(groupCmds s u).any fun e => e.2.token == t
  | some (.presence ls) => ls.all (linePresent s)
  | some .gridRoom => decide (liveGrids s g.ctx < 4096)
  | some (.trigRoom gid) => (match mget s.graphs gid with | some gr => decide (gr.trigs.length < 4) | none => true)
  | some .latchRoom =>
    let c := clusterOf s (ownCluster s g)
    (match findLatch s (ownCluster s g) g with
     | some l => !l.issues.any fun q => q.1 == clusterSlot s g
     | none => decide (c.latches.length < 4))
  | some .commit => (groupCmds s u).isEmpty
  | some .result => g.words.isEmpty
  | some .coinw => (match mget s.grids g.grid with | some gr => decide (coinIdx s g ≤ gr.coinPos) | none => true)
  | _ => false
/-- A group whose context drains still has the handler to run for a command that a fault holds, since the command's gathered round runs on to
completion (R250, R311). -/
def owesRound (s : State) (g : Group) : Bool :=
  (g.hstack.isSome || g.replay.isSome) &&
    s.cmds.any fun e => e.2.cls == 1 && e.2.stalled && !mayCut s e.2 && (mget s.groups e.2.grp).map (fun h => (h.block, h.gidx)) == some (g.block, g.gidx)
/-- The context of a group runs and does not drain, but for a round that must complete, and its block lies on its core. -/
def atWork (s : State) (g : Group) : Bool :=
  (ctxOf s g.ctx).cst == 1 && (!(ctxOf s g.ctx).draining || owesRound s g)
    && (match mget s.blocks g.block with | some b => b.st == .running && coreEnabled s b.core | none => false)
/-- The group can issue its next word (R48); no engine cause is due to it (R250), and the blocks that its commands chose are back (R316).
R49 does not say how handler code is slotted: a service step or handler word of a group in trap handling takes a place of the cycle (log 49). -/
def canIssue (s : State) (u : Nat) (g : Group) : Bool :=
  !g.exited && atWork s g && !causeDue s g && g.trapping.isNone
    && (if inService s g then serviceReady s g else parkOver s u g)
    && (bindsOf s g.block).all fun d => (d.block :: d.chosen.map (·.2)).all (blockBack s)
/-- The next word of a group is a lane word. R49 gives a fetch that meets a cause no slot: it takes a uniform word's place (log 49). -/
def nextIsLane (s : State) (u : Nat) (g : Group) : Bool :=
  !inService s g && (match fetchAt s u g g.pc with | .instr i _ => isLaneWord i | .cause _ _ => false)

/-! ### The issue scan (R49) -/

/-- Insertion by a key. -/
def insertKey {α : Type} (key : α → Nat) (a : α) : List α → List α
  | [] => [a]
  | b :: l => if key a ≤ key b then a :: b :: l else b :: insertKey key a l
/-- The groups on a core in scan order: classes 3 to 0, slots in ascending order with wrap-around from the class's pointer. -/
def scanOrder (s : State) (core : Nat) (ptr : List Nat) : List (Nat × Group) :=
  let gs := groupsOn s core
  [3, 2, 1, 0].flatMap fun c =>
    (gs.filter fun e => blockClass s e.2.block == c).foldl (fun l e => insertKey (fun x => (x.2.slot + 32 - ptr.getD c 0) % 32) e l) []
/-- One slot of a cycle: groups taken in scan order while a test lets them in, at most n of them and 64 lanes when `lanes` counts. -/
def takeSlot (test : Nat × Group → Bool) (n : Nat) (lanes : Bool) : List (Nat × Group) → List (Nat × Group) → List (Nat × Group)
  | [], got => got
  | e :: l, got =>
    let used := (got.map (·.2.gwid)).foldl (· + ·) 0
    if decide (got.length < n) && (!lanes || decide (used + e.2.gwid ≤ 64)) && test e then takeSlot test n lanes l (got ++ [e]) else takeSlot test n lanes l got
/-- The pointers after a slot: past the last group taken of each class. -/
def movePtr (s : State) (ptr : List Nat) (got : List (Nat × Group)) : List Nat :=
  got.foldl (fun p e => p.set (blockClass s e.2.block) ((e.2.slot + 1) % 32)) ptr
/-- A core's next cycle: its lane slot of at most eight groups and 64 lanes, then up to two uniform words (R49). -/
def buildCycle (s : State) (core : Nat) (k : Core) : Core :=
  let ok (e : Nat × Group) : Bool := canIssue s e.1 e.2 && !k.odd.contains e.1
  let lane := takeSlot (fun e => ok e && nextIsLane s e.1 e.2) 8 true (scanOrder s core k.lanePtr) []
  let taken := lane.map (·.1)
  let uni := takeSlot (fun e => ok e && !taken.contains e.1 && !nextIsLane s e.1 e.2) 2 false (scanOrder s core k.uniPtr) []
  { k with lanePtr := movePtr s k.lanePtr lane, uniPtr := movePtr s k.uniPtr uni, cycle := taken ++ uni.map (·.1), odd := [], even := k.odd }
/-- The core with the groups of its cycle that can issue now: what is left of the cycle, else a new one; a cycle in which groups in
D-form code wait for their second cycle goes by without an issue (R48). -/
def coreCycle (s : State) (core : Nat) : Core :=
  let k := coreOf s core
  let left := k.cycle.filter fun u => match mget s.groups u with | some g => canIssue s u g | none => false
  if !left.isEmpty then { k with cycle := left }
  else
    let k1 := buildCycle s core k
    if !k1.cycle.isEmpty || k.odd.isEmpty then k1 else buildCycle s core { k with odd := [] }

/-! ### The rotation (R344, R345) -/

/-- A place of the rotation seen from its pointer: the places before the pointer follow after the wrap-around. -/
def turnPlace (rot k : Nat) : Nat := (if rot ≤ k then 0 else 2 ^ 128) + k
/-- When a group's turn comes, seen from the rotation pointer. A block that has come to the core while the rotation ran joins it at the place
where it left; its groups before that place have had their turns of that pass (R344, R346). -/
def turnOf (s : State) (rot : Nat) (g : Group) : Nat :=
  let k := turnKey s g
  match (mget s.blocks g.block).bind (·.enter) with
  | none => turnPlace rot k
  | some e => (if rot ≤ e then 0 else 2 ^ 128) + (if k < e then 2 ^ 128 else 0) + k
/-- The groups on a core in the order of their turns: ascending logical thread index with wrap-around from the rotation pointer. -/
def turnOrder (s : State) (core : Nat) : List (Nat × Group) :=
  let rot := (coreOf s core).rot
  (groupsOn s core).foldl (fun l e => insertKey (fun x => turnOf s rot x.2) e l) []
/-- A park that gives its turn up (R345). -/
def givesUp (p : Option Park) : Bool :=
  match p with
  | some (.bar _ _ _) | some (.barph _ _ _) | some (.xacq _ _) | some (.rnd _) | some .coinw | some .coinWait | some .halted
  | some (.bwt _ _ _) | some (.wadr _ _ _ _) => true
  | _ => false
/-- What a group does with its turn, but for holding it: an engine's cause is taken, a word issues, a watched word is read (R345). -/
def turnAction (s : State) (core u : Nat) (g : Group) : Option Action :=
  if (engineCause s u).isSome then some (.turn core u (.engineCause u))
  else if canIssue s u g then some (.issue core u)
  else if (bwtWake s u).isSome then some (.turn core u (.bwtWake u))
  else if (wadrWake s u).isSome then some (.turn core u (.wadrWake u))
  else none
/-- The group that has the turn on a core: the first in the rotation that uses the turn or holds it (R344). -/
def turnHolder (s : State) (core : Nat) : Option (Nat × Group) :=
  (turnOrder s core).find? fun e => atWork s e.2 && ((turnAction s core e.1 e.2).isSome || !givesUp e.2.park)
/-- The move that the core's rotation makes: none while the turn is held. -/
def turnMove (s : State) (core : Nat) : Option Action := (turnHolder s core).bind fun e => turnAction s core e.1 e.2
/-- The rotation of a core stands at a place, and so does that of the block whose turn it is (R344). -/
def setRot (s : State) (core blk k : Nat) : State := modBlock (modCore s core fun c => { c with rot := k }) blk fun b => { b with rot := k }
/-- The groups ahead of the turn's holder give the turn up: the rotation stands at the holder, and the blocks whose place it has reached have joined
it (R344). -/
def passTurn (s : State) (core : Nat) : State :=
  match turnHolder s core with
  | some e =>
    let rot := (coreOf s core).rot
    let here := turnOf s rot e.2
    let joined (b : Block) : Bool := match b.enter with | some p => b.core == core && b.st == .running && decide (turnPlace rot p ≤ here) | none => false
    setRot { s with blocks := s.blocks.map fun b => if joined b.2 then (b.1, { b.2 with enter := none }) else b } core e.2.block (turnKey s e.2)
  | none => s
/-- A core runs groups of a deterministic context. -/
def detCore (s : State) (core : Nat) : Bool := (groupsOn s core).any fun e => detOf s e.2
/-- The cores that hold groups. -/
def busyCores (s : State) : List Nat := dedup ((s.blocks.filter fun e => e.2.st == .running).map (·.2.core))
/-- The issues that may come next on a core. -/
def coreMoves (s : State) (core : Nat) : List Action :=
  if detCore s core then (turnMove s core).toList else (coreCycle s core).cycle.map fun u => .issue core u

/-! ### Events that are due -/

/-- An event, where it can happen. -/
def due (ok : Bool) (e : SelfEvent) : List Action := if ok then [.event e] else []
/-- The events of groups, blocks and grids. -/
def gridEvents (s : State) : List Action :=
  (s.groups.flatMap fun e =>
    let u := e.1
    due ((resultWritten s u).isSome && (ctxOf s e.2.ctx).cst == 1) (.registerResultWritten u)
      ++ due (!detOf s e.2 && (engineCause s u).isSome) (.engineCause u)
      ++ due (!detOf s e.2 && atWork s e.2 && (bwtWake s u).isSome) (.bwtWake u)
      ++ due (!detOf s e.2 && atWork s e.2 && (wadrWake s u).isSome) (.wadrWake u)
      ++ due (!detOf s e.2 && atWork s e.2 && (exitGroup s u).isSome) (.groupExit u))
  ++ (busyCores s).flatMap (fun c => due (!detCore s c && (xacqGrant s c).isSome) (.xacqGrant c))
  ++ (s.blocks.flatMap fun e =>
    due ((ctxOf s e.2.ctx).cst == 1 && (phaseEnd s e.1).isSome) (.phaseEnd e.1)
      ++ due (retireBlock s e.1).isSome (.blockRetire e.1)
      ++ due (blockSuspend s e.1).isSome (.blockSuspend e.1)
      ++ (if e.2.st == .queued || (e.2.st == .saved && !e.2.record.isEmpty) then
          (logicalCores s (ctxOf s e.2.ctx).part).flatMap fun c => due (phaseResume s e.1 c).isSome (.phaseResume e.1 c) else []))
  ++ (s.grids.flatMap fun e =>
    (if waits s e.1 e.2 && !earlierFits s e.1 e.2 then (gridCores s e.2).flatMap fun c => due (canPlace s e.1 c e.2) (.blockPlace e.1 c) else [])
      ++ due (roundClose s e.1).isSome (.roundClose e.1)
      ++ due (gridComplete s e.1).isSome (.gridComplete e.1))
/-- A copy command has a step to make: a piece, or its end (R249). -/
def copyDue (s : State) (d : Cmd) : Bool :=
  let go := d.cls == 0 && cmdRuns s d && !(d.kind == .cpyl && decide (d.prog < copyTotal d))
  match d.node with
  | none => go
  | some _ => d.fail.isSome || (if d.prog < copyTotal d || !cmdRuns s d then go else true)
/-- A `cpyl` has a line to land (R203). -/
def landDue (s : State) (d : Cmd) : Bool := d.kind == .cpyl && cmdRuns s d && decide (d.prog < copyTotal d)
/-- A collective has a step to make (R260). -/
def collDue (s : State) (id : Nat) (d : Cmd) : Bool :=
  d.cls == 1 && !d.stalled &&
    (if !d.started then cmdRuns s d && collTurn s id d else d.prog != 0 || (gathered s d && (roundOf s d).all fun m => cmdReady s m.2))
/-- The events of engines and of escrow. -/
def engineEvents (s : State) : List Action :=
  (s.cmds.flatMap fun e =>
    due (copyDue s e.2) (.copyComplete e.1) ++ due (landDue s e.2) (.cpylLineLand e.1) ++ due (collDue s e.1 e.2) (.collectiveRound e.1))
  ++ (s.clusters.flatMap fun e => due (nextSlot s e.1).isSome (.matrixUnit e.1))
  ++ (s.posts.flatMap fun e => due (rewardApply s e.1).isSome (.rewardApply e.1))
  ++ (s.slices.flatMap fun e =>
    due (discountEpisode s e.1).isSome (.discountEpisode e.1)
      ++ (dedup (e.2.episodes.map (·.ctx))).flatMap fun c => due (episodeRelease s e.1 c).isSome (.episodeRelease e.1 c))
/-- The events of graphs. -/
def graphEvents (s : State) : List Action :=
  s.graphs.flatMap fun e =>
    due (graphRunStart s e.1).isSome (.graphRunStart e.1)
      ++ due (graphRunComplete s e.1).isSome (.graphRunComplete e.1)
      ++ (match e.2.run with
        | none => []
        | some r =>
          ((List.range r.st.length).flatMap fun n => due (graphNodeStart s e.1 n).isSome (.graphNodeStart e.1 n))
            ++ r.sg.flatMap fun x =>
              due (governorMove s e.1 x.1).isSome (.governorMove e.1 x.1)
                ++ due (rebindApply s e.1 x.1).isSome (.sgRebindApply e.1 x.1)
                ++ (List.range x.2.stages.length).flatMap fun st =>
                  (logicalCores s (ctxOf s e.2.ctx).part).flatMap fun c => due (firingDispatch s e.1 x.1 st c).isSome (.firingDispatch e.1 x.1 st c))
/-- The drain that harvesting asks for next (R322): one context at a time. -/
def harvestDrain (s : State) : List Action :=
  if (residents s).any fun c => (ctxOf s c).draining then []
  else match (s.marked.flatMap fun m => (residents s).filter fun c => couldUse s (m.1, m.2.1, m.2.2.1) c && (ctxOf s c).cst == 1).head? with
    | some c => [.event (.schedulerDrain c)]
    | none => []
/-- Whether work of another running context waits that no core has room for now, of a class above that of every block in `mine`, which are those
context `c` runs, and which may take a core that one of them is on (R45, R59, R311). -/
def wantsRoom (s : State) (c : Nat) (mine : List (Nat × Block)) : Bool :=
  let above := fun ctx cls => ctx != c && (ctxOf s ctx).cst == 1 && mine.all fun e => decide (blockClass s e.1 < cls)
  let meets := fun cores : List Nat => mine.any fun e => cores.contains e.2.core
  (s.grids.any fun e =>
    above e.2.ctx e.2.cls && waits s e.1 e.2 && !(gridCores s e.2).any (roomFor s e.1 · e.2) && meets (gridCores s e.2))
  || s.blocks.any fun e =>
    let cs := logicalCores s (ctxOf s e.2.ctx).part
    above e.2.ctx (blockClass s e.1) && e.2.st == .queued && !(cs.any fun k => (phaseResume s e.1 k).isSome) && meets cs
/-- The drains by which the panel scheduler may make room for work of a higher class (R311): of a context that runs only lower classes on cores
which that work may take. When it does so is its own choice (log entry 29). -/
def roomDrains (s : State) : List Action :=
  (residents s).flatMap fun c =>
    let mine := s.blocks.filter fun e => e.2.ctx == c && e.2.st == .running
    due ((ctxOf s c).cst == 1 && !(ctxOf s c).draining && wantsRoom s c mine) (.schedulerDrain c)
/-- The events of firmware and of contexts. -/
def panelEvents (s : State) : List Action :=
  due (xlatInvComplete s).isSome .xlatInvComplete ++ due s.creating.isSome .contextCreationEnd ++ due s.loading.isSome .graphLoadEnd
    ++ due s.importing.isSome .importEnd ++ due (ckptDone s).isSome .ckptDone ++ due (evacuating s) .offlineDone
    ++ ((residents s).flatMap fun c =>
      due (!(ctxOf s c).forward.isEmpty) (.pageRequestForward c) ++ due (drainComplete s c).isSome (.drainComplete c)
        ++ due (eventTask s c).isSome (.eventTask c)
        ++ ((ctxOf s c).triggers.flatMap fun e =>
          let img := e.1 % 2 ^ 40 / 2 ^ 16
          let kern := e.1 % 2 ^ 16
          due (mintTrigger s c img kern).isSome (.mintTrigger c img kern)))
    ++ (s.marked.flatMap fun m => due (harvestNow s (m.1, m.2.1, m.2.2.1)).isSome (.harvestRetire m.1 m.2.1 m.2.2.1))
    ++ harvestDrain s ++ roomDrains s
    ++ (s.peers.flatMap fun e => due (peerRetrain s e.1).isSome (.peerLinkRetrain e.1))
/-- Everything that the machine can do next. -/
def moves (s : State) : List Action :=
  if !s.ready || s.frozen then []
  else (busyCores s).flatMap (coreMoves s) ++ gridEvents s ++ engineEvents s ++ graphEvents s ++ panelEvents s

/-! ### The beginning and the end of a step -/

/-- The core's record as a group of its cycle issues; a rotation moves on when the word is done (`noteTurn`). -/
def noteIssue (s : State) (core u : Nat) : State :=
  if detCore s core then s
  else
    let k := coreCycle s core
    let slow := match mget s.groups u with | some g => !nativeCode s g | none => false
    { s with cores := mset s.cores core { k with cycle := k.cycle.filter (· != u), odd := if slow then u :: k.odd else k.odd } }
/-- A park whose word has not issued yet: it executes, or goes on, when the park is over (R48, R345). -/
def again : Park → Bool
  | .bar _ _ _ | .barph _ _ _ | .xacq _ _ | .rnd _ | .coinWait | .halted | .bwt _ _ _ | .wadr _ _ _ _ | .marker => false
  | _ => true
/-- The word of a group issued: it retired, or parked with nothing of it to execute again. A word that traps has not (R110): it issues when it
replays (R218; log entry 51). -/
def didIssue (s0 s : State) (u : Nat) : Bool :=
  match mget s0.groups u, mget s.groups u with
  | some g, some h => h.icnt != g.icnt || (match h.park with | some p => !again p | none => false)
  | _, _ => true
/-- The state after an attempt of a word: pending paths have aged only if it issued (R51). -/
def noteAges (s0 : State) (u : Nat) (s : State) : State :=
  if didIssue s0 s u then s
  else match mget s0.groups u, mget s.groups u with
    | some g, some h => setGroup s u { h with table := g.table }
    | _, _ => s
/-- A core's rotation after a group has used its turn, or holds it on (R344, R345). -/
def noteTurn (s0 : State) (core u : Nat) (s : State) : State :=
  match mget s0.groups u with
  | some g =>
    if detCore s0 core then setRot s core g.block (turnKey s0 g + if didIssue s0 s u then 1 else 0) else s
  | none => s
/-- What an issue comes to: an instruction to execute, or a state that is reached without one. -/
inductive Issue where
  | run (i : Instr) (s : State)
  | done (s : State)
/-- A fetch that meets a cause (R102, R210): the trap. It names the instruction's own address also where a second parcel or `smovl`'s immediate
word is what lies outside the code (R102 and R305 leave which; log entry 51). -/
def fetchTrap (s : State) (u : Nat) (g : Group) (c : Nat) (va : Option Nat) : State :=
  let fs : List LaneFault := match va with | some a => [⟨0, a, 2, c⟩] | none => []
  let t := match va with | some a => touchVa s g.ctx a | none => s
  trapEntry t u g { cause := c, n := 0, engine := false, token := 0, faults := fs, fmask := 1, sepc := g.pc, kind := 2, cmd := none }
/-- The issue of a group's next word: the word is fetched (R102), its version's lines are pinned (R298), pending paths age, but not in trap
handling, which parks the group (R48, R51); a handler without code does its work (R303). -/
def issueBegin (s : State) (u : Nat) : Issue :=
  match mget s.groups u with
  | none => .done s
  | some g =>
    if inService s g then .done (service s u g)
    else
      let g1 := { g with park := none, table := if g.hstack.isNone then ageTable g.table else g.table }
      let s1 := pinFetch (setGroup s u g1) u g1
      match fetchAt s1 u g1 g1.pc with
      | .cause c va => .done (fetchTrap (setGroup s u { g with park := none }) u { g with park := none } c va)
      | .instr i n => .run i { noteFetch s1 u g1 g1.pc n with cur := some u }
/-- The requests of a core's grant queue granted in order as long as slabs are free (R60). -/
def grantAll : Nat → State → Nat → State
  | 0, s, _ => s
  | n + 1, s, core => match xacqGrant s core with | some t => grantAll n t core | none => s
/-- What happens by itself to groups of deterministic contexts, outside their turns and before the next one: exits, a coin wait that ends as the
coin comes to its group (R343), grants of register blocks, and turns given up (R60, R164, R344; log entry 61). -/
def detSettle (s : State) : State :=
  let s0 := s.groups.foldl (fun t e => if detOf t e.2 && atWork t e.2 then (exitGroup t e.1).getD t else t) s
  let s1 := s.groups.foldl (fun t e => if detOf t e.2 && atWork t e.2 then (coinResume t e.1).getD t else t) s0
  (busyCores s1).foldl (fun t c => if detCore t c then passTurn (grantAll (coreOf t c).grantQ.length t c) c else t) s1
/-- What follows every step: a context that a lost die has left without groups is killed (R320), pinned lines that no group uses are let go
(R298), trace records are written (R331) and samples taken (R332), nobody acts, and the counter of free values moves on. -/
def stepEnd (s0 : State) (word : Option (Nat × Instr)) (s : State) : State :=
  let t := unpin (detSettle (if (s.ctxs.any fun e => e.2.lost) then lossSettle s else s))
  let t1 := sampleStep s0 (traceStep s0 t word) word
  { t1 with cur := none, free := t1.free + 1 }

/-! ### A state in which a given word is the next to run (log entry 40) -/

/-- The code that holds an instruction: a parcel's 16 bits in D-form, else words in N-form, zeros behind them (R91, R98). -/
def wordCode (nbits w : Nat) : List Byte := leBytes 8 (w % 2 ^ nbits)
/-- A kernel whose one version is that code. -/
def wordKernel (nbits w : Nat) : Kernel :=
  { vers := [(0, { nform := !decide (nbits ≤ 16), mint := false, profile := if nbits ≤ 16 then 0 else 0x0101, code := wordCode nbits w, va := none, maps := [] })]
    entry := some 0, pin := false, nval := 0, lmem := 0, carry := [], pins := [] }
/-- A context of one die that runs it. -/
def wordCtx (nbits w : Nat) : Ctx := { Ctx.free with cst := 1, cgen := 1, rbufg := 4096, part := [0], images := [{ kernels := [wordKernel nbits w], exports := [], runs := [] }] }
/-- Its grid of one block. -/
def wordGrid : Grid :=
  { ctx := 0, gid := 1, img := 0, kern := 0, gdx := 1, gdy := 1, gdz := 1, ngrp := 1, gwid := 8, cls := 0, lmem := 128, sets := 0, ways := 1, gran := 0, param := 0
    uhnd := 0xFFFFFFFF, deps := [], depth := 0, parent := none, arv := none, node := none, firing := none, committed := false, event := none, cores := [0], engines := [0]
    startAt := [], started := [0], retired := [], ready := [], readyAt := [], out := [], round := 0, coinPos := 0, coinHeld := false, roundOld := [], oldBufs := [], acq := [], rels := [], more := [], closed := false }
/-- Its block on core 0, with one group in slot 0. -/
def wordBlock : Block :=
  { ctx := 0, grid := 1, bidx := 0, core := 0, st := .running, base := 0, lmem := 128, groups := [3], pend := [], bars := [], phase := none, record := [], rbuf := [], acq := [], recs := [], rot := 0, enter := none, susp := 0 }
/-- The state in which a word is the next to run: a panel that is ready, with this one context, and nothing else under way. -/
def wordState (s : State) (nbits w : Nat) : State :=
  { s with
    ready := true, frozen := false, inputs := [], cur := none, lostDies := [], retiredCores := []
    xlatInv := 0, xlatHeld := [], creating := none, loading := none, importing := none, ckptBusy := none, offCtl := 0, marked := [], peers := [], regions := []
    ctxs := [(0, wordCtx nbits w)], grids := [(1, wordGrid)], blocks := [(2, wordBlock)], groups := [(3, startGroup wordGrid 0 1 2 0 0 0 (.upTo .sys 3))]
    cores := [], clusters := [], cmds := [], slices := [], posts := [], graphs := [], fw := [], nextUid := max s.nextUid 4 }

end Sys2Proof.Machine
end

