-- ==== Sys2Proof/Machine/Step.lean ====
section
/-!
DEFINITION. One step of the panel, and the state in which an instruction is the next to run.
-/
namespace Sys2Proof.Machine

/-- An outcome with what follows every step. -/
def ending (s0 : State) (word : Option (Nat × Instr)) (o : Host.Outcome State Fault Refusal) : Host.Outcome State Fault Refusal :=
  match o with
  | .next s => .next (stepEnd s0 word s)
  | .fault f => .fault f
  | .refused r => .refused r
/-- An outcome with what a group's attempt on a core leaves behind: ages and the turn. -/
def attempted (s0 : State) (core u : Nat) (o : Host.Outcome State Fault Refusal) : Host.Outcome State Fault Refusal :=
  match o with
  | .next s => .next (noteTurn s0 core u (noteAges s0 u s))
  | .fault f => .fault f
  | .refused r => .refused r
/-- The step in which a group issues: what its word does, or what the issue came to without one. -/
def stepIssue (s0 : State) (core u : Nat) (a : Issue) : Host.Outcome State Fault Refusal :=
  match a with
  | .run i s => ending s0 (some (u, i)) (attempted s0 core u (exec i s))
  | .done s => .next (stepEnd s0 none (noteTurn s0 core u s))
/-- A move made. -/
def make (s : State) (m : Action) : Host.Outcome State Fault Refusal :=
  match m with
  | .event e => ending s none (e.run s)
  | .issue core u => stepIssue s core u (issueBegin (noteIssue s core u) u)
  | .turn core u e => ending s none (attempted s core u (e.run s))
/-- The panel moves by itself: one of the moves it can make; where the spec orders none of them, which one is a free value. -/
def stepSelf (s : State) : Host.Outcome State Fault Refusal :=
  match choose (Config.schedPick s.free) (moves s) with
  | some m => make s m
  | none => .next (stepEnd s none s)
/-- Something happens from outside: an event row. A frozen panel answers only a power-on (R330). -/
def stepInput (s : State) (i : Instr) : Host.Outcome State Fault Refusal :=
  if isWord i then .refused .notAnEvent
  else if s.frozen && !isPowerOn i then .next (stepEnd s none s)
  else ending s none (exec i s)
where
  /-- Power comes back. -/
  isPowerOn : Instr → Bool
    | .powerOn _ _ => true
    | _ => false
/-- One step: the next input of the tape (an event from outside, or none), and with an empty tape a move of the panel itself. -/
def step (s : State) : Host.Outcome State Fault Refusal :=
  match s.inputs with
  | some i :: rest => stepInput { s with inputs := rest } i
  | none :: rest => stepSelf { s with inputs := rest }
  | [] => stepSelf s

/-- The state in which the next step fetches and runs the instruction whose bits are `w` (log entry 40). -/
def State.withFetchWord (s : State) (nbits w : Nat) : State := wordState s nbits w

end Sys2Proof.Machine
end

