-- ==== Sys2Proof/Safety.lean ====
section
/-!
DEFINITION. What counts as a safe run, and the words in which claims are stated: which group acts, what a word leaves of its group, of the other
groups and of memory, and what it writes.
-/
namespace Sys2Proof.Machine

/-! ### Safe states -/

/-- Memory is in its canonical form: addresses rise strictly and no entry holds what an unlisted address reads as. -/
def MemoryCanonical (s : State) : Prop := Memory.wf s.mem = true

/-! ### Who acts -/

/-- Group u acts in s, as g. -/
def Acts (s : State) (u : Nat) (g : Group) : Prop := s.cur = some u ∧ mget s.groups u = some g
/-- The group holds every register of a list (R61). -/
def Held (g : Group) (rs : List Nat) : Prop := rs.all (held g) = true

/-- A word that names these registers can execute: the group holds them, and in code that checks every dependence no escrow word still owes
one of them (R61, R101, R350). -/
def Ready (s : State) (g : Group) (rs : List Nat) : Prop := Held g rs ∧ awaits s g rs = false

/-! ### What a word leaves -/

/-- Every byte of memory reads as before. -/
def MemorySame (s t : State) : Prop := ∀ a, Memory.read t.mem a = Memory.read s.mem a
/-- Every byte of memory outside [lo, lo + n) reads as before. -/
def MemorySameOutside (s t : State) (lo n : Nat) : Prop :=
  ∀ a, (a < lo ∨ lo + n ≤ a) → Memory.read t.mem a = Memory.read s.mem a
/-- Each of the bytes from lo on reads back. -/
def MemoryHolds (t : State) (lo : Nat) (bs : List Byte) : Prop :=
  ∀ i, i < bs.length → Memory.read t.mem (lo + i) = bs.getD i 0
/-- Of the state only the groups changed, and of them only u, which is h now. -/
def OnlyGroup (s t : State) (u : Nat) (h : Group) : Prop :=
  t = { s with groups := t.groups } ∧ mget t.groups u = some h ∧ ∀ v, v ≠ u → mget t.groups v = mget s.groups v
/-- Every other group is what it was but for its park: a write may wake it (R153, R154). -/
def OthersKeep (s t : State) (u : Nat) : Prop :=
  ∀ v, v ≠ u → (mget t.groups v).map (fun q => { q with park := none }) = (mget s.groups v).map fun q => { q with park := none }
/-- The park of a word that has retired: a marked one parks while a register result is outstanding (R48, R92). -/
def parkAfter (sm : Bool) (h : Group) : Option Park := if sm && outstanding h then some .marker else none
/-- A word executes and retires: it gives a next state in which the acting group is some h with P, no other group and nothing else of the
state has changed, and every byte of memory reads as before. -/
def Retires (i : Instr) (s : State) (u : Nat) (P : Group → Prop) : Prop :=
  ∃ t h, exec i s = .next t ∧ OnlyGroup s t u h ∧ MemorySame s t ∧ P h
/-- A word retires and the acting group is h afterwards. -/
def Becomes (i : Instr) (s : State) (u : Nat) (h : Group) : Prop := Retires i s u fun q => q = h
/-- A word raises a cause at its own address: the state is that of the trap entry (R304), nothing of the word issues (R110). -/
def Raises (i : Instr) (s : State) (u : Nat) (g : Group) (cause : Nat) : Prop := exec i s = .next (raise s u g cause)
/-- In code that checks every dependence, a word that names a register whose result an escrow word owes waits for it (R101, R350). -/
def WaitsFor (i : Instr) (s : State) (u : Nat) (g : Group) (rs : List Nat) : Prop :=
  Held g rs → awaits s g rs = true → exec i s = .next (setGroup s u { g with park := some .result })

/-- The group is g but for registers, pc, instruction count, replay mask and park. -/
def KeepsAllButX (g h : Group) (sm : Bool) (len : Nat) : Prop :=
  h = { g with x := h.x, histX := h.histX, pc := g.pc + len, icnt := g.icnt + 1, replay := none, park := parkAfter sm h }
/-- The group is g but for mask registers, pc, instruction count, replay mask and park. -/
def KeepsAllButK (g h : Group) (sm : Bool) (len : Nat) : Prop :=
  h = { g with k := h.k, histK := h.histK, pc := g.pc + len, icnt := g.icnt + 1, replay := none, park := parkAfter sm h }
/-- The group is g but for pc, instruction count, replay mask and park. -/
def KeepsAll (g h : Group) (sm : Bool) (len : Nat) : Prop :=
  h = { g with pc := g.pc + len, icnt := g.icnt + 1, replay := none, park := parkAfter sm g }

/-- The group g as a word that retires leaves it when control goes to pc. -/
def atPc (g : Group) (sm : Bool) (pc : Nat) : Group := { g with pc := pc, icnt := g.icnt + 1, replay := none, park := parkAfter sm g }

/-! ### What a word writes -/

/-- Register xd holds v in the lanes of X, x0 discards it, and every other register and lane holds what it held. -/
def WritesLanes (g h : Group) (xd : Nat) (X : Mask) (v : Nat → Word) : Prop :=
  ∀ r L, L < g.gwid → laneNow h r L = if r = xd ∧ r ≠ 0 ∧ X.getLsbD L = true then v L else laneNow g r L
/-- A 64-bit datum a lane lies in xd (low half) and xd + 1 in the lanes of X; every other register and lane holds what it held. -/
def WritesLanePair (g h : Group) (xd : Nat) (X : Mask) (v : Nat → Nat) : Prop :=
  ∀ r L, L < g.gwid → laneNow h r L =
    if r = xd + 1 ∧ X.getLsbD L = true then BitVec.ofNat 32 (v L / 2 ^ 32)
    else if r = xd ∧ r ≠ 0 ∧ X.getLsbD L = true then BitVec.ofNat 32 (v L) else laneNow g r L
/-- A mask register kd holds v, cut to the group's width; k0 discards it, and every other mask register holds what it held. -/
def WritesMask (g h : Group) (kd : Nat) (v : Mask) : Prop :=
  ∀ n, kNow h n = if n = kd ∧ n ≠ 0 then v &&& full g else kNow g n

/-- A datum of n bytes lies in every lane of xd, or for 8 bytes of the pair (R122, R146). -/
def WritesDatum (g h : Group) (xd n v : Nat) : Prop :=
  if n = 8 then WritesLanePair g h xd (full g) fun _ => v else WritesLanes g h xd (full g) fun _ => BitVec.ofNat 32 v
/-- A datum of n bytes a lane lies in xt, zero- or sign-extended, or for 8 bytes in the pair (R191). -/
def WritesLaneDatum (g h : Group) (xt n : Nat) (signed : Bool) (X : Mask) (v : Nat → Nat) : Prop :=
  if n = 8 then WritesLanePair g h xt X v else WritesLanes g h xt X fun L => widen n signed (v L)
/-- The bytes from which a list of writes is stored, one after another. -/
def storeAll (m : List Host.Cell) (l : List (Nat × List Byte)) : List Host.Cell := l.foldl (fun m e => Memory.writeN m e.1 e.2) m
/-- Every byte outside a list of writes reads as before. -/
def MemorySameOutsideAll (s t : State) (l : List (Nat × List Byte)) : Prop :=
  ∀ a, (∀ e ∈ l, a < e.1 ∨ e.1 + e.2.length ≤ a) → Memory.read t.mem a = Memory.read s.mem a
/-- Every other group is as it was. -/
def OthersSame (s t : State) (u : Nat) : Prop := ∀ v, v ≠ u → mget t.groups v = mget s.groups v

/-- A lane word (R166-R169): with its registers held it retires and writes v to xd in the lanes of X, and nothing else changes; with one not
held it raises cause 0x03. -/
def LaneWord (i : Instr) (len : Nat) (sm : Bool) (named : List Nat) (xd : Nat) (X : State → Group → Mask)
    (v : State → Group → Nat → Word) : Prop :=
  ∀ s u g, Acts s u g →
    (Ready s g named → Retires i s u fun h => KeepsAllButX g h sm len ∧ WritesLanes g h xd (X s g) (v s g)) ∧
    (¬ Held g named → Raises i s u g 0x03) ∧ WaitsFor i s u g named
/-- A uniform word with a 32-bit result (R122): v in every lane of xd, that is in the lanes of k0. -/
def UniWord (i : Instr) (len : Nat) (sm : Bool) (named : List Nat) (xd : Nat) (v : State → Group → Word) : Prop :=
  LaneWord i len sm named xd (fun _ g => full g) fun s g _ => v s g
/-- A uniform word with a 64-bit result (R6, R122): its halves in every lane of xd and xd + 1. -/
def PairWord (i : Instr) (len : Nat) (sm : Bool) (named : List Nat) (xd : Nat) (v : State → Group → Nat) : Prop :=
  ∀ s u g, Acts s u g →
    (Ready s g named → Retires i s u fun h => KeepsAllButX g h sm len ∧ WritesLanePair g h xd (full g) fun _ => v s g) ∧
    (¬ Held g named → Raises i s u g 0x03) ∧ WaitsFor i s u g named
/-- A word that writes a mask register (R145, R166). -/
def MaskWord (i : Instr) (len : Nat) (sm : Bool) (named : List Nat) (kd : Nat) (v : State → Group → Mask) : Prop :=
  ∀ s u g, Acts s u g →
    (Ready s g named → Retires i s u fun h => KeepsAllButK g h sm len ∧ WritesMask g h kd (v s g)) ∧
    (¬ Held g named → Raises i s u g 0x03) ∧ WaitsFor i s u g named
/-- A word that writes the flags (R130) and nothing else. -/
def FlagWord (i : Instr) (len : Nat) (sm : Bool) (named : List Nat) (v : State → Group → Flags) : Prop :=
  ∀ s u g, Acts s u g →
    (Ready s g named → Retires i s u fun h =>
      h = { g with flags := v s g, histF := h.histF, pc := g.pc + len, icnt := g.icnt + 1, replay := none, park := parkAfter sm h }) ∧
    (¬ Held g named → Raises i s u g 0x03) ∧ WaitsFor i s u g named

/-- A lane word that rounds under a mode (R76, R81, R168): as `LaneWord`, and `srx` rises by one when the mode is SR. -/
def RoundWord (i : Instr) (len : Nat) (sm : Bool) (named : List Nat) (xd : Nat) (X : State → Group → Mask) (mode : Group → RMode)
    (v : State → Group → Nat → Word) : Prop :=
  ∀ s u g, Acts s u g →
    (Ready s g named → Retires i s u fun h =>
      h = { g with x := h.x, histX := h.histX, srx := if mode g = .sr then g.srx + 1 else g.srx, pc := g.pc + len, icnt := g.icnt + 1, replay := none, park := parkAfter sm h } ∧
      WritesLanes g h xd (X s g) (v s g)) ∧
    (¬ Held g named → Raises i s u g 0x03) ∧ WaitsFor i s u g named
/-- A lane word on d, a and b, the lanes of xd, xa and xb, predicated by kp (R169). -/
def LaneBinary (c : Bool → Nat → Nat → Nat → Nat → Instr) (f : Word → Word → Word → Word) : Prop :=
  ∀ sm xd xa xb kp, LaneWord (c sm xd xa xb kp) 4 sm [xd, xa, xb] xd (fun s g => xmask s g kp)
    fun s g L => f (lane s g xd L) (lane s g xa L) (lane s g xb L)
/-- A lane word on one source, predicated by kp (R173). -/
def LaneUnary (c : Bool → Nat → Nat → Nat → Instr) (f : Word → Word) : Prop :=
  ∀ sm xd xa kp, LaneWord (c sm xd xa kp) 4 sm [xd, xa] xd (fun s g => xmask s g kp) fun s g L => f (lane s g xa L)
/-- A short lane form a, b: xd = xa = a (R100), under the active mask. -/
def ShortBinary (c : Nat → Nat → Instr) (f : Word → Word → Word → Word) : Prop :=
  ∀ a b, LaneWord (c a b) 2 false [a, a, b] a (fun s g => xmask s g 0) fun s g L => f (lane s g a L) (lane s g a L) (lane s g b L)
/-- A uniform word on 32 bits, or with w on the pairs (R122, R125). -/
def UniBinary (c : Bool → Bool → Nat → Nat → Nat → Instr) (f : (n : Nat) → BitVec n → BitVec n → BitVec n) : Prop :=
  ∀ sm xd xa xb,
    UniWord (c sm false xd xa xb) 4 sm [xd, xa, xb] xd (fun s g => f 32 (uni s g xa) (uni s g xb)) ∧
    PairWord (c sm true xd xa xb) 4 sm [xd, xd + 1, xa, xa + 1, xb, xb + 1] xd fun s g => (f 64 (pair64 s g xa) (pair64 s g xb)).toNat
/-- A uniform word on one source, with w on the pair. -/
def UniUnary (c : Bool → Bool → Nat → Nat → Instr) (f : (n : Nat) → BitVec n → BitVec n) : Prop :=
  ∀ sm xd xa,
    UniWord (c sm false xd xa) 4 sm [xd, xa] xd (fun s g => f 32 (uni s g xa)) ∧
    PairWord (c sm true xd xa) 4 sm [xd, xd + 1, xa, xa + 1] xd fun s g => (f 64 (pair64 s g xa)).toNat

/-- Every write of a list, or single byte of one, that the log still holds is visible to an agent. -/
def SeesAll (t : State) (a : Nat) (ids : List Vis) : Prop :=
  ∀ e ∈ t.log, ((e.id, none) ∈ ids → e.visibleTo a = true) ∧ ∀ b, (e.id, some b) ∈ ids → e.seenAtByte a b = true
/-- A list names each write of another, or the whole write where that names a byte. -/
def Covers (ids l : List Vis) : Prop := ∀ x ∈ l, x ∈ ids ∨ (x.1, none) ∈ ids
/-- A row leads from a state to a next state with P. -/
def Leads (i : Instr) (s : State) (P : State → Prop) : Prop := ∃ t, exec i s = .next t ∧ P t
/-- The panel answers the host's registers: after READY and outside a freeze (R38, R330). -/
def Answers (s : State) : Prop := s.ready = true ∧ s.frozen = false
/-- A command word (R242-R246): the seventeenth of its class waits; a failed check raises its cause and nothing issues; else xd receives the
token, the class counter moves on and the command is under way with its parameter block. -/
def CommandWord (i : Instr) (sm : Bool) (kind : CmdKind) (n xd xa : Nat) (check : State → Group → List Word → Option Nat) : Prop :=
  ∀ s u g, Acts s u g →
    let named := xd :: (List.range n).map (xa + ·)
    let p := blockOf s g xa n
    let tok : Word := BitVec.ofNat 32 (kind.cls * 2 ^ 30 + nextToken g kind.cls)
    (¬ Held g named → Raises i s u g 0x03) ∧ WaitsFor i s u g named ∧
    (Ready s g named → 16 ≤ classCount s u kind.cls → exec i s = .next (setGroup s u { g with park := some (.cls kind.cls 15) })) ∧
    (Ready s g named → classCount s u kind.cls < 16 → ∀ c, check s g p = some c → Raises i s u g c) ∧
    (Ready s g named → classCount s u kind.cls < 16 → check s g p = none → Leads i s fun t => ∃ h d,
      mget t.groups u = some h ∧ OthersSame s t u ∧ MemorySame s t ∧
      h = { g with x := h.x, histX := h.histX, cnt := mset g.cnt kind.cls (nextToken g kind.cls), pc := g.pc + 4, icnt := g.icnt + 1, replay := none, park := parkAfter sm h } ∧
      WritesLanes g h xd (full g) (fun _ => tok) ∧
      mget t.cmds s.nextUid = some d ∧ d.kind = kind ∧ d.grp = u ∧ d.ctx = g.ctx ∧ d.token = tok ∧ d.prm = p ∧ d.prog = 0)
end Sys2Proof.Machine
end

