-- ==== Sys2Proof/Certificates/Slice0/Obligations.lean ====
section
/-!
DEFINITION. The statements for the provers. Each docstring names the rules of spec/ that the statement formalises.
-/
open Sys2Proof Sys2Proof.Machine

/-! ### Lane words -/

/-- R169, R171: the two-source integer lane words and their short forms give the value the rule states in every lane of X, discard a write
of x0, and leave every other register, every mask, flag and special register, every other group and every byte of memory as they were.
R170: the immediate and constant lane words, under the active mask alone, with the short `vaddi` and `vshli` (R100).
R172, R173: the one-source lane words, `vlid` and `vsel`; `vbrev` moves bit i to bit 31 − i. -/
def Obligations.LaneIntegerWordsWriteTheirValue : Prop :=
  (LaneBinary .vadd (fun _ a b => a + b) ∧ LaneBinary .vsub (fun _ a b => a - b) ∧ LaneBinary .vmul (fun _ a b => a * b) ∧
   LaneBinary .vmulh (fun _ a b => BitVec.ofInt 32 (a.toInt * b.toInt / 2 ^ 32)) ∧
   LaneBinary .vmulhu (fun _ a b => BitVec.ofNat 32 (a.toNat * b.toNat / 2 ^ 32)) ∧
   LaneBinary .vmad (fun d a b => d + a * b) ∧
   LaneBinary .vmin (fun _ a b => if a.slt b then a else b) ∧ LaneBinary .vminu (fun _ a b => if a.ult b then a else b) ∧
   LaneBinary .vmax (fun _ a b => if a.slt b then b else a) ∧ LaneBinary .vmaxu (fun _ a b => if a.ult b then b else a) ∧
   LaneBinary .vand (fun _ a b => a &&& b) ∧ LaneBinary .vor (fun _ a b => a ||| b) ∧ LaneBinary .vxor (fun _ a b => a ^^^ b) ∧
   LaneBinary .vshl (fun _ a b => a <<< (b.toNat % 32)) ∧ LaneBinary .vshr (fun _ a b => a >>> (b.toNat % 32)) ∧
   LaneBinary .vsra (fun _ a b => a.sshiftRight (b.toNat % 32)) ∧
   LaneBinary .vbfx (fun _ a b => (a >>> (b.toNat % 32)) &&& BitVec.ofNat 32 (2 ^ min (b.toNat / 256 % 64) 32 - 1)) ∧
   LaneBinary .vbfi (fun d a b =>
     let m : Word := BitVec.ofNat 32 (2 ^ min (b.toNat / 256 % 64) 32 - 1) <<< (b.toNat % 32)
     (d &&& ~~~m) ||| ((a <<< (b.toNat % 32)) &&& m)) ∧
   ShortBinary .shortVadd (fun _ a b => a + b) ∧ ShortBinary .shortVsub (fun _ a b => a - b) ∧ ShortBinary .shortVmul (fun _ a b => a * b) ∧
   ShortBinary .shortVand (fun _ a b => a &&& b) ∧ ShortBinary .shortVor (fun _ a b => a ||| b)) ∧
  (let X : State → Group → Mask := fun s g => xmask s g 0
   (∀ sm xd xa imm, LaneWord (.vaddi sm xd xa imm) 4 sm [xd, xa] xd X fun s g L => lane s g xa L + BitVec.ofInt 32 imm) ∧
   (∀ sm xd xa imm, LaneWord (.vandi sm xd xa imm) 4 sm [xd, xa] xd X fun s g L => lane s g xa L &&& BitVec.ofNat 32 imm) ∧
   (∀ sm xd xa imm, LaneWord (.vori sm xd xa imm) 4 sm [xd, xa] xd X fun s g L => lane s g xa L ||| BitVec.ofNat 32 imm) ∧
   (∀ sm xd xa imm, LaneWord (.vxori sm xd xa imm) 4 sm [xd, xa] xd X fun s g L => lane s g xa L ^^^ BitVec.ofNat 32 imm) ∧
   (∀ sm xd xa amt, LaneWord (.vshli sm xd xa amt) 4 sm [xd, xa] xd X fun s g L => lane s g xa L <<< amt) ∧
   (∀ sm xd xa amt, LaneWord (.vshri sm xd xa amt) 4 sm [xd, xa] xd X fun s g L => lane s g xa L >>> amt) ∧
   (∀ sm xd xa amt, LaneWord (.vsrai sm xd xa amt) 4 sm [xd, xa] xd X fun s g L => (lane s g xa L).sshiftRight amt) ∧
   (∀ sm xd imm, LaneWord (.vmovi sm xd imm) 4 sm [xd] xd X fun _ _ _ => BitVec.ofInt 32 imm) ∧
   (∀ sm xd imm, LaneWord (.vlui sm xd imm) 4 sm [xd] xd X fun _ _ _ => BitVec.ofNat 32 (imm * 2 ^ 15)) ∧
   (∀ a b, LaneWord (.shortVaddi a b) 2 false [a, a] a X fun s g L => lane s g a L + BitVec.ofInt 32 (if b < 8 then (b : Int) else (b : Int) - 16)) ∧
   (∀ a b c, LaneWord (.shortVshli a b c) 2 false [a, a] a X fun s g L => lane s g a L <<< (b + 16 * c))) ∧
  (LaneUnary .vmov (fun a => a) ∧ LaneUnary .vneg (fun a => -a) ∧ LaneUnary .vabs (fun a => if a.msb then -a else a) ∧
   LaneUnary .vnot (fun a => ~~~a) ∧ LaneUnary .vpopc (fun a => BitVec.ofNat 32 ((List.range 32).countP fun i => a.getLsbD i)) ∧
   LaneUnary .vclz (fun a => BitVec.ofNat 32 (if a = 0 then 32 else 31 - a.toNat.log2)) ∧
   LaneUnary .vbrev brev ∧ (∀ a i, i < 32 → (brev a).getLsbD i = a.getLsbD (31 - i)) ∧
   (∀ sm xd kp, LaneWord (.vlid sm xd kp) 4 sm [xd] xd (fun s g => xmask s g kp) fun _ _ L => BitVec.ofNat 32 L) ∧
   (∀ sm xd xa xb kp, LaneWord (.vsel sm xd xa xb kp) 4 sm [xd, xa, xb] xd (fun s g => xmask s g 0)
     fun s g L => if (kRead s g kp).getLsbD L then lane s g xa L else lane s g xb L) ∧
   (∀ a b, LaneWord (.shortVmov a b) 2 false [a, b] a (fun s g => xmask s g 0) fun s g L => lane s g b L))

/-- R166, R174, R175: a lane compare sets bit L of kd for the lanes of X where the condition holds and clears every other bit; k0 discards.
The integer conditions are those of the signed and unsigned orders; the FP32 ones are false on a NaN, but for ne and unordered. -/
def Obligations.LaneComparesWriteTheMask : Prop :=
  (∀ sm cc kd xa xb kp, MaskWord (.vcmp sm cc kd xa xb kp) 4 sm [xa, xb] kd fun s g =>
    maskOf g.gwid fun L => (xmask s g kp).getLsbD L && ccHolds cc (lane s g xa L) (lane s g xb L)) ∧
  (∀ sm cc kd xa xb kp, MaskWord (.vfcmp sm cc kd xa xb kp) 4 sm [xa, xb] kd fun s g =>
    maskOf g.gwid fun L => (xmask s g kp).getLsbD L && fccHolds cc (lane s g xa L) (lane s g xb L)) ∧
  (∀ a b c cc, Cc.ofCode c = some cc → MaskWord (.shortVcmp a b c) 2 false [a, b] 1 fun s g =>
    maskOf g.gwid fun L => (xmask s g 0).getLsbD L && ccHolds cc (lane s g a L) (lane s g b L)) ∧
  (∀ a b : Word, ccHolds .eq a b = (a == b) ∧ ccHolds .ne a b = (a != b) ∧ ccHolds .lt a b = decide (a.toInt < b.toInt) ∧
    ccHolds .ge a b = decide (b.toInt ≤ a.toInt) ∧ ccHolds .le a b = decide (a.toInt ≤ b.toInt) ∧ ccHolds .gt a b = decide (b.toInt < a.toInt) ∧
    ccHolds .ltu a b = decide (a.toNat < b.toNat) ∧ ccHolds .geu a b = decide (b.toNat ≤ a.toNat) ∧
    ccHolds .leu a b = decide (a.toNat ≤ b.toNat) ∧ ccHolds .gtu a b = decide (b.toNat < a.toNat)) ∧
  (∀ (c : Fcc) (a b : Word), fp32.decode a.toNat = .nan ∨ fp32.decode b.toNat = .nan → fccHolds c a b = (c == .ne || c == .uo))

/-- R76, R81, R176: the FP32 lane words that round under VRM: one rounding of the exact value, and `srx` one up when the mode is SR.
R177-R180, R183: the FP32 lane words on one source, the minimum and maximum, and the conversions; the special functions round the exact
value to nearest, and `vrcp`, `vsqrt`, `vfrnd` and `vcvt` under the mode the word names. A NaN gives the canonical NaN. -/
def Obligations.LaneFloatWordsWriteTheirValue : Prop :=
  (let val : (RMode → Nat → Word → Word → Word → Nat) → Nat → Nat → Nat → State → Group → Nat → Word := fun f xd xa xb s g L =>
     BitVec.ofNat 32 (f (modeOf g .dyn) (srField s g L 1 0) (lane s g xd L) (lane s g xa L) (lane s g xb L))
   let long : (Bool → Nat → Nat → Nat → Nat → Instr) → (RMode → Nat → Word → Word → Word → Nat) → Prop := fun c f =>
     ∀ sm xd xa xb kp, RoundWord (c sm xd xa xb kp) 4 sm [xd, xa, xb] xd (fun s g => xmask s g kp) (fun g => modeOf g .dyn) (val f xd xa xb)
   long .vfadd (fun m h _ a b => fAdd fp32 m h 32 a.toNat b.toNat) ∧ long .vfsub (fun m h _ a b => fSub fp32 m h 32 a.toNat b.toNat) ∧
   long .vfmul (fun m h _ a b => fMul fp32 m h 32 a.toNat b.toNat) ∧ long .vfma (fun m h d a b => fMa fp32 m h 32 a.toNat b.toNat d.toNat) ∧
   long .vfms (fun m h d a b => fMs fp32 m h 32 a.toNat b.toNat d.toNat) ∧
   (∀ a b, RoundWord (.shortVfadd a b) 2 false [a, a, b] a (fun s g => xmask s g 0) (fun g => modeOf g .dyn)
     (val (fun m h _ x y => fAdd fp32 m h 32 x.toNat y.toNat) a a b)) ∧
   (∀ a b, RoundWord (.shortVfmul a b) 2 false [a, a, b] a (fun s g => xmask s g 0) (fun g => modeOf g .dyn)
     (val (fun m h _ x y => fMul fp32 m h 32 x.toNat y.toNat) a a b)) ∧
   (∀ a b c, RoundWord (.shortVfma a b c) 2 false [a, b, 8 + c] a (fun s g => xmask s g 0) (fun g => modeOf g .dyn)
     (val (fun m h d x y => fMa fp32 m h 32 x.toNat y.toNat d.toNat) a b (8 + c)))) ∧
  (let X : Nat → State → Group → Mask := fun kp s g => xmask s g kp
   let near : (FVal → Exact) → Word → Word := fun f a => BitVec.ofNat 32 ((f (fp32.decode a.toNat)).round fp32 .rne 0 32)
   LaneBinary .vfmin (fun _ a b => BitVec.ofNat 32 (fMinMax fp32 false a.toNat b.toNat)) ∧
   LaneBinary .vfmax (fun _ a b => BitVec.ofNat 32 (fMinMax fp32 true a.toNat b.toNat)) ∧
   LaneUnary .vfabs (fun a => if fp32.decode a.toNat = .nan then 0x7FC00000 else a &&& 0x7FFFFFFF) ∧
   LaneUnary .vfneg (fun a => if fp32.decode a.toNat = .nan then 0x7FC00000 else a ^^^ 0x80000000) ∧
   LaneUnary .vfclass fclass ∧
   LaneUnary .vrsq (near rsqF) ∧ LaneUnary .vexp2 (near exp2F) ∧ LaneUnary .vlog2 (near log2F) ∧ LaneUnary .vsin (near sinF) ∧
   LaneUnary .vcos (near cosF) ∧ LaneUnary .vtanh (near tanhF) ∧
   (∀ sm md xd xa kp, RoundWord (.vrcp sm md xd xa kp) 4 sm [xd, xa] xd (X kp) (fun g => modeOf g md) fun s g L =>
     BitVec.ofNat 32 ((rcpF (fp32.decode (lane s g xa L).toNat)).round fp32 (modeOf g md) (srField s g L 1 0) 32)) ∧
   (∀ sm md xd xa kp, RoundWord (.vsqrt sm md xd xa kp) 4 sm [xd, xa] xd (X kp) (fun g => modeOf g md) fun s g L =>
     BitVec.ofNat 32 ((sqrtF (fp32.decode (lane s g xa L).toNat)).round fp32 (modeOf g md) (srField s g L 1 0) 32)) ∧
   (∀ sm md xd xa kp, RoundWord (.vfrnd sm md xd xa kp) 4 sm [xd, xa] xd (X kp) (fun g => modeOf g md) fun s g L =>
     frnd (modeOf g md) (srField s g L 1 0) (lane s g xa L)) ∧
   (∀ sm kind md xd xa kp, RoundWord (.vcvt sm kind md xd xa kp) 4 sm [xd, xa] xd (X kp) (fun g => modeOf g md) fun s g L =>
     cvt kind (modeOf g md) (srField s g L 1 0) (lane s g xa L)) ∧
   (∀ m h, frnd m h 0x7FC00000 = 0x7FC00000 ∧ fclass 0x7FC00000 = 0x100 ∧ near rsqF 0x7FC00000 = 0x7FC00000))

/-- R182, R186: a packed word computes each 16-bit half on its own with one rounding; a dot product is exact, then cut or saturated.
R184, R185: without outliers `vquant` writes the quantised values in the lanes of X and clears kd; with outliers and an odd `qside` it
raises cause 0x04, with a side list beyond the allocation cause 0x08; with room, it lists their BF16 values at `qside` in lane order and moves
`qside` on; every byte outside them reads as before. -/
def Obligations.PackedDotAndQuantWordsWriteTheirValue : Prop :=
  (let half : Nat → Word → Nat := fun e w => w.toNat / 2 ^ (16 * e) % 2 ^ 16
   let fmt : Pty → Fmt := fun t => match t with | .f16x2 => fp16 | .bf16x2 => bf16
   let packed : (Bool → Pty → Nat → Nat → Nat → Instr) → (Fmt → RMode → Nat → Nat → Nat → Nat → Nat) → Prop := fun c f =>
     ∀ sm ty xd xa xb, RoundWord (c sm ty xd xa xb) 4 sm [xd, xa, xb] xd (fun s g => xmask s g 0) (fun g => modeOf g .dyn) fun s g L =>
       let el : Nat → Nat := fun e => f (fmt ty) (modeOf g .dyn) (srField s g L 2 e) (half e (lane s g xd L)) (half e (lane s g xa L)) (half e (lane s g xb L))
       BitVec.ofNat 32 (el 0 + el 1 * 2 ^ 16)
   let elem : Nat → Bool → Word → Nat → Int := fun w sg a i =>
     let v := a.toNat / 2 ^ (w * i) % 2 ^ w
     if sg ∧ 2 ^ (w - 1) ≤ v then (v : Int) - 2 ^ w else v
   let sum : Nat → Nat → Bool → Bool → Word → Word → Word → Int := fun n w sa sb d a b =>
     ((List.range n).map fun i => elem w sa a i * elem w sb b i).sum + d.toInt
   let clip : Bool → Int → Word := fun st t => BitVec.ofInt 32 (if st then max (-2147483648) (min t 2147483647) else t)
   packed .vpadd (fun f m h _ a b => fAdd f m h 16 a b) ∧ packed .vpmul (fun f m h _ a b => fMul f m h 16 a b) ∧
   packed .vpfma (fun f m h d a b => fMa f m h 16 a b d) ∧
   (∀ sm sa sb st xd xa xb, LaneWord (.vdot4 sm sa sb st xd xa xb) 4 sm [xd, xa, xb] xd (fun s g => xmask s g 0)
     fun s g L => clip st (sum 4 8 sa sb (lane s g xd L) (lane s g xa L) (lane s g xb L))) ∧
   (∀ sm sa sb st xd xa xb, LaneWord (.vdot8 sm sa sb st xd xa xb) 4 sm [xd, xa, xb] xd (fun s g => xmask s g 0)
     fun s g L => clip st (sum 8 4 sa sb (lane s g xd L) (lane s g xa L) (lane s g xb L)))) ∧
  (∀ sm fmt xd xa kd kp s u g, Acts s u g →
     let i : Instr := .vquant sm fmt xd xa kd kp
     let outs := (xlanes s g kp).filter fun L => isOutlier (lane s g xa L) g.qthr
     let p := g.qside.toNat
     let m := modeOf g .dyn
     let val : Nat → Word := fun L => BitVec.ofNat 32 (if outs.contains L then qzero fmt
       else (fp32.decode (lane s g xa L).toNat).quant fmt m (srField s g L 1 0) 32 (g.qscale.toNat % 256))
     let after : Group → Prop := fun h =>
       h = { g with x := h.x, histX := h.histX, k := h.k, histK := h.histK, qside := BitVec.ofNat 32 (p + 2 * outs.length), srx := if m = .sr then g.srx + 1 else g.srx, pc := g.pc + 4, icnt := g.icnt + 1, replay := none, park := parkAfter sm h } ∧
       WritesLanes g h xd (xmask s g kp) val ∧ WritesMask g h kd (maskOf g.gwid outs.contains)
     (Ready s g [xd, xa] → outs = [] → Retires i s u after) ∧
     (Ready s g [xd, xa] → outs ≠ [] → p % 2 = 1 → Raises i s u g 0x04) ∧
     (Ready s g [xd, xa] → outs ≠ [] → p % 2 = 0 → allocSize s g.block < p + 2 * outs.length → Raises i s u g 0x08) ∧
     (Ready s g [xd, xa] → outs ≠ [] → p % 2 = 0 → p + 2 * outs.length ≤ allocSize s g.block → MemoryCanonical s →
       (∀ j < outs.length, absentLines s g.block (p + 2 * j) 2 = []) →
       ∃ t h, exec i s = .next t ∧ mget t.groups u = some h ∧ after h ∧ OthersKeep s t u ∧
         MemorySameOutside s t (localLoc g.block p) (2 * outs.length) ∧
         ∀ j < outs.length, MemoryHolds t (localLoc g.block (p + 2 * j))
           (leBytes 2 ((fp32.decode (lane s g xa (outs.getD j 0)).toNat).exact.round bf16 .rne 0 32))) ∧
     (¬ Held g [xd, xa] → Raises i s u g 0x03))

/-- R187: the lane-moving words: lane L receives the lane the word names, 0 for a lane beyond the width; all sources are read first. -/
def Obligations.LaneMovesReadEverySourceFirst : Prop :=
  (∀ sm xd xa xb kp, LaneWord (.vshfl sm xd xa xb kp) 4 sm [xd, xa, xb] xd (fun s g => xmask s g kp)
    fun s g L => if (lane s g xb L).toNat < g.gwid then lane s g xa (lane s g xb L).toNat else 0) ∧
  (∀ sm xd xa ln, LaneWord (.vbcast sm xd xa ln) 4 sm [xd, xa] xd (fun s g => xmask s g 0)
    fun s g _ => if ln < g.gwid then lane s g xa ln else 0) ∧
  (∀ sm xd xa rot, LaneWord (.vrot sm xd xa rot) 4 sm [xd, xa] xd (fun s g => xmask s g 0)
    fun s g L => lane s g xa ((L + rot) % g.gwid))

/-- R188, R189: a reduction combines the lanes of X by the fixed tree over the width and puts the result in every lane of X; a scan puts in
lane L the combination of the lanes of X up to L, in ascending order. -/
def Obligations.ReductionsAndScansCombineInOrder : Prop :=
  (∀ sm fn md xd xa kp, LaneWord (.vred sm fn md xd xa kp) 4 sm [xd, xa] xd (fun s g => xmask s g kp) fun s g _ =>
    (tree (redOp fn (redMode g md)) (fun L => if (xmask s g kp).getLsbD L ∧ L < g.gwid then some (lane s g xa L) else none) g.gwid.log2 0).getD 0) ∧
  (∀ sm fn md xd xa kp, LaneWord (.vscan sm fn md xd xa kp) 4 sm [xd, xa] xd (fun s g => xmask s g kp) fun s g L =>
    match (xlanes s g kp).filter (· ≤ L) with
    | [] => 0
    | j :: js => js.foldl (fun a q => redOp fn (redMode g md) a (lane s g xa q)) (lane s g xa j)) ∧
  (∀ {α : Type} (op : α → α → α) (leaf : Nat → Option α) (n lo : Nat),
    tree op leaf (n + 1) lo = match tree op leaf n lo, tree op leaf n (lo + 2 ^ n) with
      | none, b => b
      | a, none => a
      | some a, some b => some (op a b))

/-! ### Uniform words that compute -/

/-- R122, R125, R126: the two-source uniform integer words on 32 bits and, with w, on 64-bit pairs: the result lies in every lane of xd (or
of the pair). Division by zero gives all ones and remainder the dividend; division truncates toward zero.
R127, R128, R132: the uniform immediate, shift-immediate, constant and counting words; `smovl` takes two words of code. -/
def Obligations.UniformIntegerWordsWriteTheirValue : Prop :=
  (UniBinary .sadd (fun _ a b => a + b) ∧ UniBinary .ssub (fun _ a b => a - b) ∧ UniBinary .smul (fun _ a b => a * b) ∧
   UniBinary .smulh (fun n a b => BitVec.ofInt n (a.toInt * b.toInt / 2 ^ n)) ∧
   UniBinary .smulhu (fun n a b => BitVec.ofNat n (a.toNat * b.toNat / 2 ^ n)) ∧
   UniBinary .sand (fun _ a b => a &&& b) ∧ UniBinary .sor (fun _ a b => a ||| b) ∧ UniBinary .sxor (fun _ a b => a ^^^ b) ∧
   UniBinary .sandn (fun _ a b => a &&& ~~~b) ∧
   UniBinary .sshl (fun n a b => a <<< (b.toNat % 2 ^ 32 % n)) ∧ UniBinary .sshr (fun n a b => a >>> (b.toNat % 2 ^ 32 % n)) ∧
   UniBinary .ssra (fun n a b => a.sshiftRight (b.toNat % 2 ^ 32 % n)) ∧
   UniBinary .smin (fun _ a b => if a.slt b then a else b) ∧ UniBinary .smax (fun _ a b => if a.slt b then b else a) ∧
   UniBinary .sminu (fun _ a b => if a.ult b then a else b) ∧ UniBinary .smaxu (fun _ a b => if a.ult b then b else a) ∧
   UniBinary .sdiv (fun n a b => if b = 0 then BitVec.allOnes n else BitVec.ofInt n (a.toInt.tdiv b.toInt)) ∧
   UniBinary .sdivu (fun n a b => if b = 0 then BitVec.allOnes n else BitVec.ofNat n (a.toNat / b.toNat)) ∧
   UniBinary .srem (fun n a b => if b = 0 then a else BitVec.ofInt n (a.toInt.tmod b.toInt)) ∧
   UniBinary .sremu (fun n a b => if b = 0 then a else BitVec.ofNat n (a.toNat % b.toNat)) ∧
   (∀ a b, UniWord (.shortSadd a b) 2 false [a, a, b] a fun s g => uni s g a + uni s g b) ∧
   (∀ a b, UniWord (.shortSsub a b) 2 false [a, a, b] a fun s g => uni s g a - uni s g b) ∧
   (∀ a b, UniWord (.shortSmov a b) 2 false [a, b, 0] a fun s g => uni s g b)) ∧
  ((∀ sm xd xa imm, UniWord (.saddi sm xd xa imm) 4 sm [xd, xa] xd fun s g => uni s g xa + BitVec.ofInt 32 imm) ∧
   (∀ sm xd xa imm, UniWord (.sandi sm xd xa imm) 4 sm [xd, xa] xd fun s g => uni s g xa &&& BitVec.ofNat 32 imm) ∧
   (∀ sm xd xa imm, UniWord (.sori sm xd xa imm) 4 sm [xd, xa] xd fun s g => uni s g xa ||| BitVec.ofNat 32 imm) ∧
   (∀ sm xd xa imm, UniWord (.sxori sm xd xa imm) 4 sm [xd, xa] xd fun s g => uni s g xa ^^^ BitVec.ofNat 32 imm) ∧
   (∀ amt, UniUnary (fun sm w xd xa => .sshli sm w xd xa amt) (fun _ a => a <<< amt)) ∧
   (∀ amt, UniUnary (fun sm w xd xa => .sshri sm w xd xa amt) (fun _ a => a >>> amt)) ∧
   (∀ amt, UniUnary (fun sm w xd xa => .ssrai sm w xd xa amt) (fun _ a => a.sshiftRight amt)) ∧
   (∀ sm xd imm, UniWord (.smovi sm xd imm) 4 sm [xd] xd fun _ _ => BitVec.ofInt 32 imm) ∧
   (∀ sm xd imm, UniWord (.slui sm xd imm) 4 sm [xd] xd fun _ _ => BitVec.ofNat 32 (imm * 2 ^ 15)) ∧
   (∀ sm xd imm, UniWord (.smovl sm xd imm) 8 sm [xd] xd fun _ _ => BitVec.ofNat 32 imm) ∧
   UniUnary .spopc (fun n a => BitVec.ofNat n ((List.range n).countP fun i => a.getLsbD i)) ∧
   UniUnary .sclz (fun n a => BitVec.ofNat n (if a = 0 then n else n - 1 - a.toNat.log2)) ∧
   (∀ a b, UniWord (.shortSaddi a b) 2 false [a, a] a fun s g => uni s g a + BitVec.ofInt 32 (if b < 8 then (b : Int) else (b : Int) - 16)) ∧
   (∀ a b c, UniWord (.shortSshli a b c) 2 false [a, a] a fun s g => uni s g a <<< (b + 16 * c)))

/-- R129, R133-R135: the uniform FP32 words round to nearest, `scvt` converts, `ssel` selects by a condition, `sget` reads a lane (0 beyond the
width) and `sset` writes one lane and leaves the others at what it reads there (R93), or writes nothing beyond the width. -/
def Obligations.UniformFloatAndLaneWordsWriteTheirValue : Prop :=
  let near : (Bool → Nat → Nat → Nat → Instr) → (Word → Word → Word → Nat) → Prop := fun c f =>
    ∀ sm xd xa xb, UniWord (c sm xd xa xb) 4 sm [xd, xa, xb] xd fun s g => BitVec.ofNat 32 (f (uni s g xd) (uni s g xa) (uni s g xb))
  near .sfadd (fun _ a b => fAdd fp32 .rne 0 32 a.toNat b.toNat) ∧ near .sfsub (fun _ a b => fSub fp32 .rne 0 32 a.toNat b.toNat) ∧
  near .sfmul (fun _ a b => fMul fp32 .rne 0 32 a.toNat b.toNat) ∧ near .sfma (fun d a b => fMa fp32 .rne 0 32 a.toNat b.toNat d.toNat) ∧
  (∀ sm xd xa, UniWord (.scvt sm .f32Int xd xa) 4 sm [xd, xa] xd fun s g => cvt .f32Int .rne 0 (uni s g xa)) ∧
  (∀ sm xd xa, UniWord (.scvt sm .f32Uint xd xa) 4 sm [xd, xa] xd fun s g => cvt .f32Uint .rne 0 (uni s g xa)) ∧
  (∀ sm xd xa, UniWord (.scvt sm .intF32 xd xa) 4 sm [xd, xa] xd fun s g => cvt .intF32 .rne 0 (uni s g xa)) ∧
  (∀ sm xd xa, UniWord (.scvt sm .uintF32 xd xa) 4 sm [xd, xa] xd fun s g => cvt .uintF32 .rne 0 (uni s g xa)) ∧
  (∀ sm cnd xd xa xb, UniWord (.ssel sm cnd xd xa xb) 4 sm [xd, xa, xb] xd fun s g =>
    if condHolds s g cnd then uni s g xa else uni s g xb) ∧
  (∀ sm xd xa xb, UniWord (.sget sm xd xa xb) 4 sm [xd, xa, xb] xd fun s g =>
    if (uni s g xb).toNat < g.gwid then lane s g xa (uni s g xb).toNat else 0) ∧
  (∀ sm xd xa xb, LaneWord (.sset sm xd xa xb) 4 sm [xd, xa, xb] xd (fun s g => if (uni s g xb).toNat < g.gwid then full g else 0)
    fun s g L => if L = (uni s g xb).toNat then uni s g xa else lane s g xd L)

/-- R122, R130, R131: `scmp` and `scmpi` set Z, N, C and V from a − b (C is the absence of a borrow, V signed overflow), `sfcmp` from an FP32
compare (an unordered one sets C and V), and they change no other flag, register, mask or byte of memory.
R107: what each condition of a branch or select means over the flags and the mask registers. -/
def Obligations.UniformComparesAndConditions : Prop :=
  (let sub32 : Word → Word → Flags := fun a b =>
     { z := a == b, n := (a - b).msb, c := decide (b.toNat ≤ a.toNat), v := decide (a.toInt - b.toInt < -2147483648 ∨ 2147483647 < a.toInt - b.toInt) }
   let sub64 : DWord → DWord → Flags := fun a b =>
     { z := a == b, n := (a - b).msb, c := decide (b.toNat ≤ a.toNat), v := decide (a.toInt - b.toInt < -2 ^ 63 ∨ 2 ^ 63 ≤ a.toInt - b.toInt) }
   (∀ sm xa xb, FlagWord (.scmp sm false xa xb) 4 sm [xa, xb] fun s g => sub32 (uni s g xa) (uni s g xb)) ∧
   (∀ sm xa xb, FlagWord (.scmp sm true xa xb) 4 sm [xa, xa + 1, xb, xb + 1] fun s g => sub64 (pair64 s g xa) (pair64 s g xb)) ∧
   (∀ sm xa imm, FlagWord (.scmpi sm xa imm) 4 sm [xa] fun s g => sub32 (uni s g xa) (BitVec.ofInt 32 imm)) ∧
   (∀ a b, FlagWord (.shortScmp a b) 2 false [a, b] fun s g => sub32 (uni s g a) (uni s g b)) ∧
   (∀ sm xa xb, FlagWord (.sfcmp sm xa xb) 4 sm [xa, xb] fun s g =>
     match (fp32.decode (uni s g xa).toNat).cmp (fp32.decode (uni s g xb).toNat) with
     | some .lt => ⟨false, true, false, false⟩
     | some .eq => ⟨true, false, true, false⟩
     | some .gt => ⟨false, false, true, false⟩
     | none => ⟨false, false, true, true⟩)) ∧
  (∀ s g, let f := flagsRead s g
     condHolds s g .al = true ∧ condHolds s g .eq = f.z ∧ condHolds s g .ne = !f.z ∧ condHolds s g .lt = (f.n != f.v) ∧
     condHolds s g .ge = (f.n == f.v) ∧ condHolds s g .le = (f.z || f.n != f.v) ∧ condHolds s g .gt = (!f.z && f.n == f.v) ∧
     condHolds s g .ltu = !f.c ∧ condHolds s g .geu = f.c ∧ condHolds s g .leu = (!f.c || f.z) ∧ condHolds s g .gtu = (f.c && !f.z) ∧
     condHolds s g .uo = (f.c && f.v) ∧
     ∀ n, g.gwid ≤ 64 →
       (condHolds s g (.kz n) = true ↔ ∀ L, L < g.gwid → (kRead s g n).getLsbD L = false) ∧
       (condHolds s g (.ka n) = true ↔ ∀ L, L < g.gwid → (kRead s g n).getLsbD L = true))

/-! ### Mask words -/

/-- R145: the mask words write the value the rule states to kd, cut to the width (k0 discards), and `kpopc`, `kfirst` and `kget` write the
count, the lowest lane (all ones for none) and the bits of ka to registers. -/
def Obligations.MaskWordsWriteTheirValue : Prop :=
  (∀ sm kd ka kb, MaskWord (.kand sm kd ka kb) 4 sm [] kd fun s g => kRead s g ka &&& kRead s g kb) ∧
  (∀ sm kd ka kb, MaskWord (.kor sm kd ka kb) 4 sm [] kd fun s g => kRead s g ka ||| kRead s g kb) ∧
  (∀ sm kd ka kb, MaskWord (.kxor sm kd ka kb) 4 sm [] kd fun s g => kRead s g ka ^^^ kRead s g kb) ∧
  (∀ sm kd ka kb, MaskWord (.kandn sm kd ka kb) 4 sm [] kd fun s g => kRead s g ka &&& ~~~ kRead s g kb) ∧
  (∀ sm kd ka, MaskWord (.knot sm kd ka) 4 sm [] kd fun s g => ~~~ kRead s g ka) ∧
  (∀ sm kd ka, MaskWord (.kmov sm kd ka) 4 sm [] kd fun s g => kRead s g ka) ∧
  (∀ sm kd, MaskWord (.kset sm kd) 4 sm [] kd fun _ g => g.active) ∧
  (∀ sm kd xa, MaskWord (.kfrom sm kd xa) 4 sm [xa, xa + 1] kd fun s g => BitVec.ofNat 64 (uniPair s g xa)) ∧
  (∀ sm xa ka, UniWord (.kpopc sm xa ka) 4 sm [xa] xa fun s g =>
    BitVec.ofNat 32 ((List.range g.gwid).countP fun L => (kRead s g ka).getLsbD L)) ∧
  (∀ sm xa ka, UniWord (.kfirst sm xa ka) 4 sm [xa] xa fun s g =>
    match (List.range g.gwid).find? fun L => (kRead s g ka).getLsbD L with | some L => BitVec.ofNat 32 L | none => 0xFFFFFFFF) ∧
  (∀ sm xa ka, PairWord (.kget sm xa ka) 4 sm [xa, xa + 1] xa fun s g => (kRead s g ka &&& full g).toNat)

/-- R46: x0 reads zero in every lane and k0 is all ones over the width, whatever a group holds. -/
def Obligations.HardwiredRegistersReadAsConstants : Prop :=
  ∀ g : Group, (∀ s L, laneNow g 0 L = 0 ∧ lane s g 0 L = 0) ∧ (∀ s, kRead s g 0 = full g) ∧ (g.gwid ≤ 64 → ∀ L, (kNow g 0).getLsbD L = decide (L < g.gwid)) ∧
    ∀ s m f v, writeX s g 0 m f = g ∧ writeK s g 0 v = g

/-- R92-R95: a read that names a register with no outstanding write gives its newest value, and under a breach one of the values that the
outstanding writes left or replaced; after a marker park every result is settled: nothing is outstanding any more.
R101, R350: in code that checks every dependence, the words that reach memory, objects, engines, graphs or versions wait for an escrow word's result in a
register that they name, as every other word does that names registers (those statements say it with the word's result). -/
def Obligations.ReadsFollowTheMarkerContract : Prop :=
  (∀ s g r L, openWrites g r = [] → lane s g r L = laneNow g r L) ∧
  (∀ s g r L, openWrites g r ≠ [] → ∃ w ∈ openWrites g r, lane s g r L = w.vals.getD L 0) ∧
  (∀ s g n, openMasks g n = [] → kRead s g n = kNow g n) ∧
  (∀ s g, g.histF = [] → flagsRead s g = g.flags) ∧
  (∀ s g, outstanding (settle s g) = false) ∧
  (∀ s g r m f, loose s g = false → (writeX s g r m f).histX = g.histX) ∧
  (∀ s u g, mget s.groups u = some g → g.park = some .marker → g.exited = false → g.words = [] → g.trapping = none →
    ∃ h, exec (.registerResultWritten u) s = .next (setGroup s u h) ∧ h = { settle s g with park := none }) ∧
  (∀ s u g, Acts s u g →
    let w : Instr → List Nat → Prop := fun i named => WaitsFor i s u g named
    let cas : Aop → Nat → List Nat := fun aop xt => if aop = .cas then [xt + 1] else []
    (∀ sm sz xd xa disp, w (.sld sm sz xd xa disp) (dataRegs xd (sizeBytes sz) ++ [xa, xa + 1]) ∧
      w (.sst sm sz xd xa disp) (dataRegs xd (sizeBytes sz) ++ [xa, xa + 1])) ∧
    (∀ a b c, w (.shortSld a b c) [a, b, b + 1] ∧ w (.shortSst a b c) [a, b, b + 1]) ∧
    (∀ sm b xd xa xb, let named := dataRegs xd (if b then 8 else 4) ++ [xa, xa + 1] ++ dataRegs xb (if b then 8 else 4)
      w (.satomAdd sm b xd xa xb) named ∧ w (.satomMin sm b xd xa xb) named ∧ w (.satomMax sm b xd xa xb) named ∧ w (.satomSwp sm b xd xa xb) named ∧
      w (.satomAnd sm b xd xa xb) named ∧ w (.satomOr sm b xd xa xb) named ∧ w (.satomXor sm b xd xa xb) named ∧ w (.satomCas sm b xd xa xb) named) ∧
    (∀ sm sz strong xt xo aw kp, w (.vld sm sz strong xt xo aw kp) (dataRegs xt (ldBytes sz) ++ [xo])) ∧
    (∀ sm sz strong xt xo aw kp, w (.vst sm sz strong xt xo aw kp) (dataRegs xt (sizeBytes sz) ++ [xo])) ∧
    (∀ sm sz xt xo disp kp, w (.lld sm sz xt xo disp kp) (dataRegs xt (sizeBytes sz) ++ [xo]) ∧ w (.lst sm sz xt xo disp kp) (dataRegs xt (sizeBytes sz) ++ [xo])) ∧
    (∀ a b c, w (.shortVld a b) [a, b] ∧ w (.shortVst a b) [a, b] ∧ w (.shortLld a b c) [a, b] ∧ w (.shortLst a b c) [a, b]) ∧
    (∀ sm aop xt xo aw kp, w (.vatom sm aop xt xo aw kp) ([xt, xo] ++ cas aop xt) ∧ w (.latom sm aop xt xo kp) ([xt, xo] ++ cas aop xt)) ∧
    (∀ sm xa xb xd, w (.bwinit sm xa xb) [xb, xa, xa + 1] ∧ w (.barv sm xd xa) [xd, xa, xa + 1] ∧ w (.bwt sm xa xb) [xb, xa, xa + 1] ∧
      w (.wadr sm xd xa xb) [xd, xa, xa + 1, xb] ∧ w (.wake sm xd xa xb) [xd, xa, xa + 1, xb]) ∧
    (∀ sm xd xa xb kp, w (.ltag sm xd xa) [xd, xd + 1, xa, xa + 1] ∧ w (.tagset sm xd xa xb) [xd, xd + 1, xa, xa + 1, xb] ∧
      w (.tagclr sm xd xa xb) [xd, xa, xa + 1, xb] ∧ w (.vltag sm xd xa kp) [xd, xa]) ∧
    (∀ sm aw xa xb, w (.awin sm aw xa) [xa, xa + 1] ∧ w (.pref sm xa xb) [xa, xa + 1, xb] ∧ w (.prefT sm xa xb) [xa, xa + 1, xb]) ∧
    (∀ sm xd xa xb, w (.acq sm xa) [xa, xa + 1] ∧ w (.rel sm xa) [xa, xa + 1] ∧ w (.bind sm xd xa xb) [xd, xa, xa + 1, xb, xb + 1, xb + 2] ∧
      w (.unbind sm xd xa xb) [xd, xa, xa + 1, xb, xb + 1]) ∧
    (∀ sm fmt xd xa kd kp, w (.vquant sm fmt xd xa kd kp) [xd, xa]) ∧
    (∀ sm xd xa, w (.wtok sm xa) [xa] ∧ w (.mxres sm xd xa) [xd, xa, xa + 1] ∧ w (.mxmmg sm xd xa) (xd :: (List.range 16).map (xa + ·)) ∧
      w (.xfer sm xd xa) [xd, xa] ∧ w (.fdone sm xd) [xd] ∧ w (.gtrig sm xd xa) [xd, xa, xa + 1, xa + 2, xa + 3]) ∧
    (∀ sm arv xd xa, w (.launch sm arv xd xa) (xd :: (List.range (if arv then 18 else 16)).map (xa + ·))))

/-! ### Control -/

/-- R101, R105, R136, R137: a branch goes to its own address plus its offset in words (parcels in D-form) when its condition holds and on otherwise;
a call puts the return offset into every lane of x31 and raises the call level; `jmpr`, `callr` and `ret` go to the value of a register in
lane 0, or raise cause 0x04 when it is not aligned to a word (a parcel in D-form). Nothing else changes. In D-form code they wait for an escrow
word's result in the register they read, or in the x31 they write.
R53: a yield point switches only when the oldest pending path has waited `agelim` issue slots: the active path becomes pending, to
resume where it stood, with age 0, and the oldest becomes active. -/
def Obligations.BranchesCallsAndYieldsMoveControl : Prop :=
  (∀ s u g, Acts s u g →
     let unit : Int := if nativeCode s g then 4 else 2
     let dest : Int → Nat := fun off => (((g.pc : Int) + off * unit) % 2 ^ 32).toNat
     let ok : Nat → Prop := fun t => (t : Int) % unit = 0
     let calls : Instr → Bool → Nat → Prop := fun i sm t => Retires i s u fun h =>
       h = { g with x := h.x, histX := h.histX, level := (g.level + 1) % 2 ^ 16, pc := t, icnt := g.icnt + 1, replay := none, park := parkAfter sm h } ∧
       WritesLanes g h 31 (full g) fun _ => BitVec.ofNat 32 (g.pc + 4)
     (∀ sm cnd off, Becomes (.br sm cnd off) s u (atPc g sm (if condHolds s g cnd then dest off else g.pc + 4))) ∧
     (∀ a b c cnd, a < 16 → b < 16 → Cond.ofCode c = some cnd → Becomes (.shortBr a b c) s u
       (atPc g false (if condHolds s g cnd then dest (if a < 8 then (a * 16 + b : Int) else (a * 16 + b : Int) - 256) else g.pc + 2))) ∧
     (∀ sm cnd off, Ready s g [31] → condHolds s g cnd = false → Becomes (.call sm cnd off) s u (atPc g sm (g.pc + 4))) ∧
     (∀ sm cnd off, Ready s g [31] → condHolds s g cnd = true → calls (.call sm cnd off) sm (dest off)) ∧
     (∀ sm xa, Ready s g [xa] → ok (uni s g xa).toNat → Becomes (.jmpr sm xa) s u (atPc g sm (uni s g xa).toNat)) ∧
     (∀ sm xa, Ready s g [xa] → ¬ ok (uni s g xa).toNat → Raises (.jmpr sm xa) s u g 0x04) ∧
     (∀ sm xa, ¬ Held g [xa] → Raises (.jmpr sm xa) s u g 0x03 ∧ Raises (.callr sm xa) s u g 0x03) ∧
     (∀ sm xa, Ready s g [xa, 31] → ok (uni s g xa).toNat → calls (.callr sm xa) sm (uni s g xa).toNat) ∧
     (∀ sm xa, Ready s g [xa, 31] → ¬ ok (uni s g xa).toNat → Raises (.callr sm xa) s u g 0x04) ∧
     (∀ sm, Ready s g [31] → ok (uni s g 31).toNat → Becomes (.ret sm) s u
       (atPc { g with level := (g.level + 65535) % 65536 } sm (uni s g 31).toNat)) ∧
     (∀ sm, Ready s g [31] → ¬ ok (uni s g 31).toNat → Raises (.ret sm) s u g 0x04) ∧
     (∀ sm cnd off xa, WaitsFor (.call sm cnd off) s u g [31] ∧ WaitsFor (.callr sm xa) s u g [xa, 31] ∧ WaitsFor (.ret sm) s u g [31] ∧
       WaitsFor (.jmpr sm xa) s u g [xa])) ∧
  (∀ g : Group, (oldest g.table = none → yieldAt g = g) ∧
     (∀ i k r a, oldest g.table = some (i, k, r, a) → a < g.agelim.toNat → yieldAt g = g) ∧
     (∀ i k r a, oldest g.table = some (i, k, r, a) → g.agelim.toNat ≤ a →
       yieldAt g = { g with table := g.table.eraseIdx i ++ [.pending g.active g.pc 0], active := k, pc := r }))

/-- R50, R51, R138: the construct of the active path is the last join entry of the table whose entered lanes hold every active lane; the
oldest pending path has the greatest age, the first created of equal ones.
R139-R143: `dif` splits the active lanes, with cause 0x08 for a 33rd table entry (R144) and else 0x09 where its target is neither `delse` nor `dend`;
`delse` and `dend` bring the active lanes to the split's end, where the joined path goes on once every lane that entered has arrived, else the
oldest pending path resumes (cause 0x09 without one, or without a split); `dloop` takes the lanes whose kc bit is set back and brings
the others to the loop's end; `dbrk` brings the lanes whose kc bit is set to the end of the loop it names. A partner that cannot be fetched is no
partner, so that `dif`, `delse` and `dbrk` raise cause 0x09 there too: R138 is silent on it, and this is the model's choice (log entry 51). -/
def Obligations.DivergenceWordsOpenAndCloseConstructs : Prop :=
  ((∀ g i, construct g = some i →
     (∃ e m, g.table[i]? = some e ∧ entered e = some m ∧ m &&& g.active = g.active) ∧
     ∀ j e m, i < j → g.table[j]? = some e → entered e = some m → m &&& g.active ≠ g.active) ∧
   (∀ g, construct g = none → ∀ (e : PathEntry) m, e ∈ g.table → entered e = some m → m &&& g.active ≠ g.active) ∧
   (∀ t i k r a, oldest t = some (i, k, r, a) → t[i]? = some (.pending k r a) ∧
     (∀ j k' r' a', t[j]? = some (.pending k' r' a') → a' ≤ a ∧ (j < i → a' < a))) ∧
   (∀ t, oldest t = none → ∀ k r a, PathEntry.pending k r a ∉ t)) ∧
  (∀ s u g, Acts s u g →
     let A := g.active
     let dest : Int → Nat := fun off => (((g.pc : Int) + off * (if nativeCode s g then 4 else 2)) % 2 ^ 32).toNat
     let ends : Instr → Bool → Group → Prop := fun i sm h =>
       (∀ j k r a, oldest h.table = some (j, k, r, a) → Becomes i s u (atPc { h with table := h.table.eraseIdx j, active := k } sm r)) ∧
       (oldest h.table = none → Raises i s u g 0x09)
     let joins : Instr → Bool → Nat → Prop := fun i sm after =>
       (construct g = none → Raises i s u g 0x09) ∧
       (∀ j key l e a, construct g = some j → g.table[j]? = some (.loop key l e a) → Raises i s u g 0x09) ∧
       (∀ j key e a, construct g = some j → g.table[j]? = some (.split key e a) →
         (a ||| A = e → Becomes i s u (atPc { g with table := g.table.eraseIdx j, active := e } sm after)) ∧
         (a ||| A ≠ e → ends i sm { g with table := g.table.set j (.split key e (a ||| A)) }))
     let leaves : Instr → Bool → List PathEntry → Nat → Nat → Prop := fun i sm t j after =>
       ∀ key l e a, t[j]? = some (.loop key l e a) →
         (a = e → Becomes i s u (atPc { g with table := t.eraseIdx j, active := e } sm after)) ∧
         (a ≠ e → ends i sm { g with table := t })
     (∀ sm kc off q, (∃ d n, instrAt s u g (dest off) = some (.delse d n, q - dest off) ∧ dest off ≤ q) ∨
         ((∃ d n, instrAt s u g (dest off) = some (.dend d, n)) ∧ q = dest off) ∨ ((∃ n, instrAt s u g (dest off) = some (.shortDend, n)) ∧ q = dest off) →
       let T := A &&& kRead s g kc
       let E := A &&& ~~~ kRead s g kc
       (T ≠ 0 → E ≠ 0 → g.table.length ≤ 30 →
         Becomes (.dif sm kc off) s u (atPc { g with table := g.table ++ [.split g.pc A 0, .pending E q 0], active := T } sm (g.pc + 4))) ∧
       (T ≠ 0 → E = 0 → g.table.length ≤ 31 → Becomes (.dif sm kc off) s u (atPc { g with table := g.table ++ [.split g.pc A 0], active := T } sm (g.pc + 4))) ∧
       (T = 0 → g.table.length ≤ 31 → Becomes (.dif sm kc off) s u (atPc { g with table := g.table ++ [.split g.pc A 0] } sm q))) ∧
     (∀ sm kc off,
       let room := if A &&& kRead s g kc = 0 ∨ A &&& ~~~ kRead s g kc = 0 then 31 else 30
       (room < g.table.length → Raises (.dif sm kc off) s u g 0x08) ∧
       (g.table.length ≤ room → (∀ i n, instrAt s u g (dest off) = some (i, n) → (∀ d o, i ≠ .delse d o) ∧ (∀ d, i ≠ .dend d) ∧ i ≠ .shortDend) →
         Raises (.dif sm kc off) s u g 0x09)) ∧
     (∀ sm off, (∀ i n, instrAt s u g (dest off) = some (i, n) → (∀ d, i ≠ .dend d) ∧ i ≠ .shortDend) → Raises (.delse sm off) s u g 0x09) ∧
     (∀ sm off n, (∃ d, instrAt s u g (dest off) = some (.dend d, n)) ∨ instrAt s u g (dest off) = some (.shortDend, n) →
       joins (.delse sm off) sm (dest off + n)) ∧
     (∀ sm, joins (.dend sm) sm (g.pc + 4)) ∧ joins .shortDend false (g.pc + 2) ∧
     (∀ sm kc off, (loopEntry g g.pc).2.length ≤ 32 →
       let t := arrive (loopEntry g g.pc).2 (loopEntry g g.pc).1 (A &&& ~~~ kRead s g kc)
       (A &&& kRead s g kc ≠ 0 → Becomes (.dloop sm kc off) s u (yieldAt (atPc { g with table := t, active := A &&& kRead s g kc } sm (dest off)))) ∧
       (A &&& kRead s g kc = 0 → leaves (.dloop sm kc off) sm t (loopEntry g g.pc).1 (g.pc + 4))) ∧
     (∀ sm kc off, (32 < (loopEntry g g.pc).2.length → Raises (.dloop sm kc off) s u g 0x08) ∧
       (32 < (loopEntry g (dest off)).2.length → Raises (.dbrk sm kc off) s u g 0x08) ∧
       ((loopEntry g (dest off)).2.length ≤ 32 → (∀ i n, instrAt s u g (dest off) = some (i, n) → ∀ d k o, i ≠ .dloop d k o) →
         Raises (.dbrk sm kc off) s u g 0x09)) ∧
     (∀ sm kc off n, (∃ d k o, instrAt s u g (dest off) = some (.dloop d k o, n)) → (loopEntry g (dest off)).2.length ≤ 32 →
       let t := arrive (loopEntry g (dest off)).2 (loopEntry g (dest off)).1 (A &&& kRead s g kc)
       (A &&& ~~~ kRead s g kc ≠ 0 → Becomes (.dbrk sm kc off) s u (atPc { g with table := t, active := A &&& ~~~ kRead s g kc } sm (g.pc + 4))) ∧
       (A &&& ~~~ kRead s g kc = 0 → leaves (.dbrk sm kc off) sm t (loopEntry g (dest off)).1 (dest off + n))))

/-! ### Words that reach memory -/

/-- R5, R6, R123, R146: `sld` reads n bytes, lowest first, at the address of the pair xa plus its displacement, modulo 2^64, into every lane of
xd (the pair for 8 bytes) and changes no byte of memory and no other group; a misaligned address raises cause 0x04, and an access that does
not go through takes its trap or parks on presence. What it reads is memory itself when every write there is visible to the group.
R5, R146, R336: `sst` stores the n low bytes of xd (of the pair for 8 bytes), lowest first, at the address of the pair xa plus its
displacement: those bytes read back and every other byte reads as before, no register changes and other groups at most wake. In a
deterministic context a store to global memory goes to the block's round buffer and memory stays as it is.
R147: a uniform atomic puts the old value of 4 or 8 bytes in xd and leaves what its operation makes of it and xb (for `cas` xb where the
old value equals xd); every byte outside reads as before. Without the coin a deterministic group's global atomic raises cause 0x14 (R342). -/
def Obligations.UniformMemoryWordsReadAndWriteMemory : Prop :=
  (∀ s u g, Acts s u g →
     let loads : Instr → Nat → Bool → Nat → Nat → Nat → Int → Prop := fun i len sm n xd xa disp =>
       let a := (((uniPair s g xa : Int) + disp) % 2 ^ 64).toNat
       (Ready s g (dataRegs xd n ++ [xa, xa + 1]) →
         (∀ loc, uPlace s g a n 0 = .ok loc →
           ∃ t h, exec i s = .next t ∧ mget t.groups u = some h ∧ OthersSame s t u ∧ MemorySame s t ∧ KeepsAllButX g h sm len ∧
             WritesDatum g h xd n (leNat (loadPlain s u g loc n))) ∧
         (∀ e, uPlace s g a n 0 = .error e → exec i s = .next (accFail s u g e)) ∧
         (a % n ≠ 0 → Raises i s u g 0x04)) ∧
       (¬ Held g (dataRegs xd n ++ [xa, xa + 1]) → Raises i s u g 0x03)
     (∀ sm sz xd xa disp, loads (.sld sm sz xd xa disp) 4 sm (sizeBytes sz) xd xa disp) ∧
     (∀ a b c, loads (.shortSld a b c) 2 false 4 a b (4 * c)) ∧
     (∀ loc n, detOf s g = false → hidden s (agent u 0) .never loc n = [] → loadPlain s u g loc n = Memory.readN s.mem loc n)) ∧
  (∀ s u g, Acts s u g →
     let stores : Instr → Nat → Bool → Nat → Nat → Nat → Int → Prop := fun i len sm n xd xa disp =>
       let a := (((uniPair s g xa : Int) + disp) % 2 ^ 64).toNat
       let bs := leBytes n (if n = 8 then uniPair s g xd else (uni s g xd).toNat % 256 ^ n)
       (Ready s g (dataRegs xd n ++ [xa, xa + 1]) →
         (∀ loc, uPlace s g a n 1 = .ok loc → detOf s g = false ∨ isPhys loc = false → MemoryCanonical s →
           ∃ t, exec i s = .next t ∧ mget t.groups u = some (atPc g sm (g.pc + len)) ∧ OthersKeep s t u ∧
             MemoryHolds t loc bs ∧ MemorySameOutside s t loc n) ∧
         (∀ loc s1, uPlace s g a n 1 = .ok loc → detOf s g = true → isPhys loc = true →
           bufAdd s g.block ((List.range n).map fun j => ⟨loc + j, bs.getD j 0, threadIdx s g 0⟩) = .ok s1 →
           ∃ t, exec i s = .next t ∧ mget t.groups u = some (atPc g sm (g.pc + len)) ∧ OthersSame s t u ∧ MemorySame s t ∧ t.blocks = s1.blocks) ∧
         (∀ e, uPlace s g a n 1 = .error e → exec i s = .next (accFail s u g e)) ∧
         (a % n ≠ 0 → Raises i s u g 0x04)) ∧
       (¬ Held g (dataRegs xd n ++ [xa, xa + 1]) → Raises i s u g 0x03)
     (∀ sm sz xd xa disp, stores (.sst sm sz xd xa disp) 4 sm (sizeBytes sz) xd xa disp) ∧
     (∀ a b c, stores (.shortSst a b c) 2 false 4 a b (4 * c))) ∧
  (∀ s u g, Acts s u g → MemoryCanonical s →
     let atom : (Bool → Bool → Nat → Nat → Nat → Instr) → ((n : Nat) → BitVec n → BitVec n → BitVec n → BitVec n) → Prop := fun c f =>
       ∀ sm w xd xa xb loc, let n := if w then 8 else 4
         let i := c sm w xd xa xb
         let d : Nat → Nat := fun r => if w then uniPair s g r else (uni s g r).toNat
         let old := leNat (Memory.readN s.mem loc n)
         Ready s g (dataRegs xd n ++ [xa, xa + 1] ++ dataRegs xb n) → uPlace s g (uniPair s g xa % 2 ^ 64) n 1 = .ok loc →
         (detOf s g = false ∨ isPhys loc = false ∨ holdsCoin s g = true →
           ∃ t h, exec i s = .next t ∧ mget t.groups u = some h ∧ OthersKeep s t u ∧
             h = { g with x := h.x, histX := h.histX, got := h.got, ldTime := h.ldTime, pc := g.pc + 4, icnt := g.icnt + 1, replay := none, park := parkAfter sm h } ∧
             WritesDatum g h xd n old ∧ MemorySameOutside s t loc n ∧
             MemoryHolds t loc (leBytes n (f (8 * n) (BitVec.ofNat _ old) (BitVec.ofNat _ (d xb)) (BitVec.ofNat _ (d xd))).toNat)) ∧
         (detOf s g = true → isPhys loc = true → holdsCoin s g = false → Raises i s u g 0x14)
     atom .satomAdd (fun _ m v _ => m + v) ∧ atom .satomMin (fun _ m v _ => if m.slt v then m else v) ∧
     atom .satomMax (fun _ m v _ => if m.slt v then v else m) ∧ atom .satomSwp (fun _ _ v _ => v) ∧ atom .satomAnd (fun _ m v _ => m &&& v) ∧
     atom .satomOr (fun _ m v _ => m ||| v) ∧ atom .satomXor (fun _ m v _ => m ^^^ v) ∧ atom .satomCas (fun _ m v e => if m = e then v else m))

/-- R190, R191, R214, R218, R239: a lane load through a window: where every lane of X goes through, each such lane receives its datum, widened,
nothing else of the group changes but the window (reopened where its generation is old) and, for a strong load, what it may acquire; no byte of
memory changes. Faulted lanes make the group trap after the good ones have received theirs; a cause of the whole word comes before.
R6, R225, R239: what a lane loads are the n bytes of memory at its location, lowest first, where every write to its single-copy unit is visible to
the group, or in a deterministic context for a coin access; its unit is its own datum or a piece of the run that the lanes make.
R190-R192, R214, R218, R239: a lane store through a window writes each lane's n bytes (where the lanes are one run, its units; of lanes
that name one byte the highest wins), and every byte outside them reads as before; no register changes but the window. Faulted
lanes make the group trap after the good ones have stored theirs. In a deterministic context a plain one goes to the round buffer (R336).
R342, R166: in a deterministic context a strong `vld` or `vst` without the coin raises cause 0x14 where X has a lane; with an empty X it makes no
access, and retires. A lane that faults takes its trap instead, and all of X is replayed: nothing of the access was made (log entry 52, the model's
choice). -/
def Obligations.LaneLoadsAndStoresThroughAWindow : Prop :=
  (∀ s u g, Acts s u g →
     let loads : Instr → Nat → Bool → LdSize → Bool → Nat → Nat → Nat → Nat → Prop := fun i len sm sz strong xt xo aw kp =>
       let n := ldBytes sz
       let got : List LaneAddr → List LaneFault → Group → Group → Prop := fun as fs g1 h =>
         h = { g1 with x := h.x, histX := h.histX, got := h.got, ldTime := h.ldTime, pc := h.pc, icnt := h.icnt, replay := h.replay, park := h.park } ∧
         (strong = false → h.got = g.got ∧ h.ldTime = g.ldTime) ∧
         WritesLaneDatum g1 h xt n (ldSigned sz) (addrMask g as) (addrVal as fun a => laneLoad s u g (laneUnits as n fs.isEmpty) strong a n)
       (Ready s g (dataRegs xt n ++ [xo]) →
         (∀ c, winLanes s g aw xo kp n 0 = .error c → Raises i s u g c) ∧
         (∀ as fs g1, winLanes s g aw xo kp n 0 = .ok (as, fs, g1) → strong = false ∨ detOf s g = false ∨ holdsCoin s g = true ∨ xlanes s g kp = [] →
           g1 = { g with win := g1.win } ∧
           (fs = [] → ∃ t h, exec i s = .next t ∧ mget t.groups u = some h ∧ OthersSame s t u ∧ MemorySame s t ∧ got as fs g1 h ∧
             h.pc = g.pc + len ∧ h.icnt = g.icnt + 1 ∧ h.replay = none ∧ h.park = parkAfter sm h) ∧
           (fs ≠ [] → ∃ t h, exec i s = .next (raiseLanes t u h fs (faultMask g fs)) ∧ MemorySame s t ∧ got as fs g1 h ∧
             h.pc = g.pc ∧ h.icnt = g.icnt ∧ h.replay = g.replay ∧ h.park = g.park)) ∧
         (∀ as fs g1, winLanes s g aw xo kp n 0 = .ok (as, fs, g1) → strong = true → detOf s g = true → holdsCoin s g = false → xlanes s g kp ≠ [] →
           (fs = [] → Raises i s u g 0x14) ∧ (fs ≠ [] → ∃ t, exec i s = .next (raiseLanes t u g fs (xmask s g kp)) ∧ MemorySame s t))) ∧
       (¬ Held g (dataRegs xt n ++ [xo]) → Raises i s u g 0x03)
     (∀ sm sz strong xt xo aw kp, loads (.vld sm sz strong xt xo aw kp) 4 sm sz strong xt xo aw kp) ∧
     (∀ a b, loads (.shortVld a b) 2 false .w false a b 0 0) ∧
     (∀ us q n strong (a : LaneAddr), unitOf us a.va = some q → a.loc = q.loc + (a.va - q.va) → a.va - q.va + n ≤ q.len →
       (if detOf s g = true then strong = true ∨ isPhys q.loc = false else hidden s (agent u 0) (loadTime g strong) q.loc q.len = []) →
       laneLoad s u g us strong a n = leNat (Memory.readN s.mem a.loc n))) ∧
  (∀ s u g, Acts s u g →
     let stores : Instr → Nat → Bool → Size4 → Bool → Nat → Nat → Nat → Nat → Prop := fun i len sm sz strong xt xo aw kp =>
       let n := sizeBytes sz
       let v := laneDatum s g xt n
       (Ready s g (dataRegs xt n ++ [xo]) →
         (∀ c, winLanes s g aw xo kp n 1 = .error c → Raises i s u g c) ∧
         (∀ as g1, winLanes s g aw xo kp n 1 = .ok (as, [], g1) → detOf s g = false ∨ (strong = true ∧ (holdsCoin s g = true ∨ xlanes s g kp = [])) →
           let bytes : List (Nat × List Byte) := match runPieces as n true with
             | none => as.map fun a => (a.loc, leBytes n (v a.lane))
             | some us => (pieceOrder s us).map fun q => (q.loc, unitBytes as q n v)
           ∃ t, exec i s = .next t ∧ mget t.groups u = some (atPc { g with win := g1.win } sm (g.pc + len)) ∧ OthersKeep s t u ∧
             t.mem = storeAll s.mem bytes ∧ MemorySameOutsideAll s t bytes) ∧
         (∀ as fs g1, winLanes s g aw xo kp n 1 = .ok (as, fs, g1) → fs ≠ [] → detOf s g = false →
           ∃ t, exec i s = .next (raiseLanes t u { g with win := g1.win } fs (faultMask g fs)) ∧
             t.mem = storeAll s.mem (as.map fun a => (a.loc, leBytes n (v a.lane)))) ∧
         (∀ as g1 s1, winLanes s g aw xo kp n 1 = .ok (as, [], g1) → detOf s g = true → strong = false →
           bufAdd s g.block (as.flatMap fun a => (List.range n).map fun j => ⟨a.loc + j, BitVec.ofNat 8 (v a.lane / 256 ^ j), threadIdx s g a.lane⟩) = .ok s1 →
           ∃ t, exec i s = .next t ∧ mget t.groups u = some (atPc { g with win := g1.win } sm (g.pc + len)) ∧ OthersSame s t u ∧ MemorySame s t ∧ t.blocks = s1.blocks) ∧
         (∀ as fs g1, winLanes s g aw xo kp n 1 = .ok (as, fs, g1) → strong = true → detOf s g = true → holdsCoin s g = false → xlanes s g kp ≠ [] →
           (fs = [] → Raises i s u g 0x14) ∧ (fs ≠ [] → ∃ t, exec i s = .next (raiseLanes t u g fs (xmask s g kp)) ∧ MemorySame s t))) ∧
       (¬ Held g (dataRegs xt n ++ [xo]) → Raises i s u g 0x03)
     (∀ sm sz strong xt xo aw kp, stores (.vst sm sz strong xt xo aw kp) 4 sm sz strong xt xo aw kp) ∧
     (∀ a b, stores (.shortVst a b) 2 false .w false a b 0 0))

/-- R193, R196: lane atomics of 4 bytes, through a window or in the own allocation, happen one lane after another in ascending order: each
lane receives the old value it met, memory holds what the operation made of it, and every other byte reads as before.
R218: where lanes of a `vatom` fault, the good ones have done theirs, and the group traps with the others to replay.
R342, R166: in a deterministic context a `vatom` without the coin raises cause 0x14 where X has a lane; with an empty X it makes no access, and
retires. A lane that faults takes its trap instead, and all of X is replayed: nothing of the access was made (log entry 52, the model's choice). -/
def Obligations.LaneAtomicsHappenInLaneOrder : Prop :=
  ∀ s u g, Acts s u g → ∀ sm (aop : Aop) xt xo kp,
    let v : Nat → Nat := fun L => (lane s g (if aop = .cas then xt + 1 else xt) L).toNat
    let e : Nat → Nat := fun L => if aop = .cas then (lane s g xt L).toNat else 0
    let after : List LaneAddr → Nat → List Host.Cell := fun as k => (as.take k).foldl (fun m a =>
      Memory.writeN m a.loc (leBytes 4 (atomicVal 4 aop (leNat (Memory.readN m a.loc 4)) (v a.lane) (e a.lane)))) s.mem
    let did : State → Group → List LaneAddr → Prop := fun t h as =>
        OthersKeep s t u ∧ t.mem = after as as.length ∧ (∀ a, (∀ q ∈ as, a < q.loc ∨ q.loc + 4 ≤ a) → Memory.read t.mem a = Memory.read s.mem a) ∧
        (∀ k q, as[k]? = some q → (∀ j p, j < k → as[j]? = some p → p.lane ≠ q.lane) → xt ≠ 0 → q.lane < g.gwid → q.lane < 64 →
          laneNow h xt q.lane = BitVec.ofNat 32 (leNat (Memory.readN (after as k) q.loc 4))) ∧
        (∀ r L, L < g.gwid → r ≠ xt ∨ (∀ q ∈ as, q.lane ≠ L) → laneNow h r L = laneNow g r L)
    let done : Instr → List LaneAddr → Group → Prop := fun i as g1 =>
      ∃ t h, exec i s = .next t ∧ mget t.groups u = some h ∧ did t h as ∧
        h = { g1 with x := h.x, histX := h.histX, got := h.got, ldTime := h.ldTime, pc := g.pc + 4, icnt := g.icnt + 1, replay := none, park := parkAfter sm h }
    let named : List Nat := [xt, xo] ++ if aop = .cas then [xt + 1] else []
    (Ready s g named →
      (∀ aw as fs g1, winLanes s g aw xo kp 4 1 = .ok (as, fs, g1) → detOf s g = false ∨ holdsCoin s g = true ∨ xlanes s g kp = [] →
        (fs = [] → done (.vatom sm aop xt xo aw kp) as g1) ∧
        (fs ≠ [] → ∃ t h, exec (.vatom sm aop xt xo aw kp) s = .next (raiseLanes t u h fs (faultMask g fs)) ∧ did t h as ∧
          h = { g1 with x := h.x, histX := h.histX, got := h.got, ldTime := h.ldTime })) ∧
      (∀ aw as fs g1, winLanes s g aw xo kp 4 1 = .ok (as, fs, g1) → detOf s g = true → holdsCoin s g = false → xlanes s g kp ≠ [] →
        (fs = [] → Raises (.vatom sm aop xt xo aw kp) s u g 0x14) ∧
        (fs ≠ [] → ∃ t, exec (.vatom sm aop xt xo aw kp) s = .next (raiseLanes t u g fs (xmask s g kp)) ∧ MemorySame s t)) ∧
      (∀ aw c, winLanes s g aw xo kp 4 1 = .error c → Raises (.vatom sm aop xt xo aw kp) s u g c) ∧
      (∀ as, localLanes s g (xlanes s g kp) (fun L => (lane s g xo L).toNat) 4 = .ok as → done (.latom sm aop xt xo kp) as g) ∧
      (∀ er, localLanes s g (xlanes s g kp) (fun L => (lane s g xo L).toNat) 4 = .error er → exec (.latom sm aop xt xo kp) s = .next (accFail s u g er))) ∧
    (¬ Held g named → Raises (.latom sm aop xt xo kp) s u g 0x03 ∧ ∀ aw, Raises (.vatom sm aop xt xo aw kp) s u g 0x03)

/-- R194, R195, R198: `lld` and `lst` reach the block's own allocation at offset xo[L] + disp × n: misaligned lanes raise cause 0x04, lanes
beyond the allocation cause 0x08, absent lines park the group; otherwise each lane of X loads its bytes, or the lanes' bytes are stored in
ascending lane order and every other byte reads as before. -/
def Obligations.LocalLaneAccessesReachTheAllocation : Prop :=
  ∀ s u g, Acts s u g → ∀ n xt xo disp kp, n ∈ [1, 2, 4, 8] →
    let ls := xlanes s g kp
    let off : Nat → Nat := fun L => (lane s g xo L).toNat + disp * n
    let good := ∀ L ∈ ls, off L % n = 0 ∧ off L + n ≤ allocSize s g.block ∧ absentLines s g.block (off L) n = []
    let loads : Instr → Nat → Bool → Prop := fun i len sm =>
      good → ∃ t h, exec i s = .next t ∧ mget t.groups u = some h ∧ OthersSame s t u ∧ MemorySame s t ∧ KeepsAllButX g h sm len ∧
        WritesLaneDatum g h xt n false (maskOf g.gwid ls.contains) fun L => leNat (loadPlain s u g (localLoc g.block (off L)) n)
    let bytes := ls.map fun L => (localLoc g.block (off L), leBytes n (laneDatum s g xt n L))
    let stores : Instr → Nat → Bool → Prop := fun i len sm =>
      good → ∃ t, exec i s = .next t ∧ mget t.groups u = some (atPc g sm (g.pc + len)) ∧ OthersKeep s t u ∧
        t.mem = storeAll s.mem bytes ∧ MemorySameOutsideAll s t bytes
    let stops : Instr → Prop := fun i =>
      ((∃ L ∈ ls, off L % n ≠ 0) → Raises i s u g 0x04) ∧
      ((∀ L ∈ ls, off L % n = 0) → (∃ L ∈ ls, allocSize s g.block < off L + n) → Raises i s u g 0x08) ∧
      ((∀ L ∈ ls, off L % n = 0 ∧ off L + n ≤ allocSize s g.block) → (∃ L ∈ ls, absentLines s g.block (off L) n ≠ []) →
        ∃ q, q ≠ [] ∧ (∀ l ∈ q, ∃ L ∈ ls, l ∈ absentLines s g.block (off L) n) ∧ exec i s = .next (parkOn s u g (.presence q)))
    (Ready s g (dataRegs xt n ++ [xo]) →
      (∀ sm sz, sizeBytes sz = n → loads (.lld sm sz xt xo disp kp) 4 sm ∧ stops (.lld sm sz xt xo disp kp)) ∧
      (∀ sm sz, sizeBytes sz = n → stores (.lst sm sz xt xo disp kp) 4 sm ∧ stops (.lst sm sz xt xo disp kp)) ∧
      (n = 4 → kp = 0 → loads (.shortLld xt xo disp) 2 false ∧ stops (.shortLld xt xo disp)) ∧
      (n = 4 → kp = 0 → stores (.shortLst xt xo disp) 2 false ∧ stops (.shortLst xt xo disp))) ∧
    (¬ Held g (dataRegs xt n ++ [xo]) →
      (∀ sm sz, sizeBytes sz = n → Raises (.lld sm sz xt xo disp kp) s u g 0x03 ∧ Raises (.lst sm sz xt xo disp kp) s u g 0x03) ∧
      (n = 4 → Raises (.shortLld xt xo disp) s u g 0x03 ∧ Raises (.shortLst xt xo disp) s u g 0x03))

/-- R150-R153, R342: the barrier words on an aligned word of 8 bytes. `bwinit` sets EXPECT and PENDING to a count of 1 to 2^24 − 1 and keeps
PHASE; another count is cause 0x09, which comes before the 0x14 of a missing coin and after the causes below it that the address meets (R110).
`barv` gives the phase it arrives in, and the arrival lowers PENDING or, as the last, opens the next phase (cause 0x09 where EXPECT or PENDING
is 0); `bwt` makes a strong load (R228), goes on when PHASE is not the one it waits out, and else parks; a parked one goes on once PHASE differs. Without the coin a
deterministic group's global barrier word raises cause 0x14; with it, a `bwt` that has to wait passes the coin into a coin wait (R343). A
misaligned address raises cause 0x04, a register not held 0x03, and an access that does not go through takes its trap or parks on presence.
R154-R156, R228, R342, R343, R345: `wadr` puts the word of 4 bytes that its strong load gives in xd and goes on when it is not xb or, outside
deterministic scheduling, when the watch table is full; else it parks, woken already where the load passed a write of the word; a woken group loads
the word again, after what woke it, and goes on. On global memory a deterministic group needs the coin
(cause 0x14 without it), and passes it into a coin wait where it has to wait. `wake` wakes the first groups parked on the line, in the order they
parked, up to the count in xb (0: all of them), and gives their number, after the group's own earlier stores to the line have performed; in a
deterministic context it ends every wait on the line. An access that does not go through takes its trap or parks. -/
def Obligations.BarrierAndWatchedWordsParkAndWake : Prop :=
  (let phase : Nat → Nat := fun w => w / 2 ^ 48 % 2 ^ 16
   (∀ s u g, Acts s u g → MemoryCanonical s →
     let pending : Nat → Nat := fun w => w / 2 ^ 24 % 2 ^ 24
     let expect : Nat → Nat := fun w => w % 2 ^ 24
     let stored : Instr → Nat → Bool → Nat → (Group → Prop) → Prop := fun i loc sm w P =>
       ∃ t h, exec i s = .next t ∧ mget t.groups u = some h ∧ OthersKeep s t u ∧
         h = { g with x := h.x, histX := h.histX, got := g.got ++ pubsAt s loc 8, ldTime := h.ldTime, pc := g.pc + 4, icnt := g.icnt + 1, replay := none, park := parkAfter sm h } ∧
         P h ∧ MemoryHolds t loc (leBytes 8 w) ∧ MemorySameOutside s t loc 8
     ∀ sm xa xb,
       let a := uniPair s g xa % 2 ^ 64
       let c := (uni s g xb).toNat
       let counted := 1 ≤ c ∧ c ≤ 0xFFFFFF
       (Ready s g [xb, xa, xa + 1] →
         (a % 8 ≠ 0 → Raises (.bwinit sm xa xb) s u g 0x04 ∧ Raises (.barv sm xb xa) s u g 0x04 ∧ Raises (.bwt sm xa xb) s u g 0x04) ∧
         (∀ e, uPlace s g a 8 1 = .error e → (counted → exec (.bwinit sm xa xb) s = .next (accFail s u g e)) ∧
           exec (.barv sm xb xa) s = .next (accFail s u g e)) ∧
         (∀ e, uPlace s g a 8 0 = .error e → exec (.bwt sm xa xb) s = .next (accFail s u g e)) ∧
         (¬ counted → ∀ e, withCause (some 0x09) (uPlace s g a 8 1) = .error e → exec (.bwinit sm xa xb) s = .next (accFail s u g e)) ∧
         (¬ counted → ∀ loc, uPlace s g a 8 1 = .ok loc → Raises (.bwinit sm xa xb) s u g 0x09) ∧
         (∀ loc,
           let w := leNat (Memory.readN s.mem loc 8)
           let free := detOf s g = false ∨ isPhys loc = false ∨ holdsCoin s g = true
           (uPlace s g a 8 1 = .ok loc → free →
             (counted → stored (.bwinit sm xa xb) loc sm (phase w * 2 ^ 48 + c * 2 ^ 24 + c) fun h => h.x = g.x) ∧
             (expect w = 0 ∨ pending w = 0 → Raises (.barv sm xb xa) s u g 0x09) ∧
             (expect w ≠ 0 → pending w ≠ 0 →
               stored (.barv sm xb xa) loc sm
                 (if pending w = 1 then (phase w + 1) % 2 ^ 16 * 2 ^ 48 + expect w * 2 ^ 24 + expect w
                   else phase w * 2 ^ 48 + (pending w - 1) * 2 ^ 24 + expect w)
                 fun h => WritesLanes g h xb (full g) fun _ => BitVec.ofNat 32 (phase w))) ∧
           (uPlace s g a 8 1 = .ok loc → ¬ free → (counted → Raises (.bwinit sm xa xb) s u g 0x14) ∧ Raises (.barv sm xb xa) s u g 0x14) ∧
           (uPlace s g a 8 0 = .ok loc → ¬ free → Raises (.bwt sm xa xb) s u g 0x14) ∧
           (uPlace s g a 8 0 = .ok loc → free →
             let w := leNat (loadUnit s u g true loc 8)
             (phase w ≠ c % 65536 → ∃ t h, exec (.bwt sm xa xb) s = .next t ∧ mget t.groups u = some h ∧ OthersSame s t u ∧ MemorySame s t ∧
               h = { g with got := h.got, ldTime := h.ldTime, seen := h.seen, pc := g.pc + 4, icnt := g.icnt + 1, replay := none, park := parkAfter sm h }) ∧
             (phase w = c % 65536 → ∃ t, exec (.bwt sm xa xb) s = .next t ∧ OthersSame s t u ∧ MemorySame s t ∧
               mget t.groups u = some { g with park := if detOf s g = true ∧ isPhys loc = true then some .coinWait else some (.bwt loc (c % 65536) sm) })))) ∧
       (¬ Held g [xb, xa, xa + 1] → Raises (.bwinit sm xa xb) s u g 0x03 ∧ Raises (.barv sm xb xa) s u g 0x03 ∧ Raises (.bwt sm xa xb) s u g 0x03)) ∧
   (∀ s v q loc p m, mget s.groups v = some q → q.park = some (.bwt loc p m) → phase (leNat (Memory.readN s.mem loc 8)) ≠ p →
     ∃ t h, exec (.bwtWake v) s = .next t ∧ mget t.groups v = some h ∧ OthersSame s t v ∧ MemorySame s t ∧
       h = { q with got := h.got, ldTime := h.ldTime, seen := h.seen, pc := q.pc + 4, icnt := q.icnt + 1, replay := none, park := parkAfter m h })) ∧
  ((∀ s u g, Acts s u g → ∀ sm xd xa xb,
     let a := uniPair s g xa % 2 ^ 64
     (Ready s g [xd, xa, xa + 1, xb] →
       (∀ e, uPlace s g a 4 0 = .error e → exec (.wadr sm xd xa xb) s = .next (accFail s u g e)) ∧
       (∀ e, wakePlace s g a = .error e → exec (.wake sm xd xa xb) s = .next (accFail s u g e)) ∧
       (∀ loc, uPlace s g a 4 0 = .ok loc →
         let v := BitVec.ofNat 32 (leNat (loadUnit s u g true loc 4))
         let free := detOf s g = false ∨ isPhys loc = false ∨ holdsCoin s g = true
         (¬ free → Raises (.wadr sm xd xa xb) s u g 0x14) ∧
         (free → v ≠ uni s g xb ∨ (watchFull s g loc = true ∧ detOf s g = false) →
           ∃ t h, exec (.wadr sm xd xa xb) s = .next t ∧ mget t.groups u = some h ∧ OthersSame s t u ∧ MemorySame s t ∧
             h = { g with x := h.x, histX := h.histX, got := h.got, ldTime := h.ldTime, pc := g.pc + 4, icnt := g.icnt + 1, replay := none, park := parkAfter sm h } ∧
             WritesLanes g h xd (full g) fun _ => v) ∧
         (free → v = uni s g xb → watchFull s g loc = false ∨ detOf s g = true →
           ∃ t h, exec (.wadr sm xd xa xb) s = .next t ∧ mget t.groups u = some h ∧ OthersSame s t u ∧ MemorySame s t ∧
             h = { g with got := h.got, ldTime := h.ldTime, parkSeq := h.parkSeq, park := if detOf s g = true ∧ isPhys loc = true then some .coinWait else some (.wadr loc xd sm (firstUnseen s u g loc 4)) })) ∧
       (∀ loc, wakePlace s g a = .ok loc →
         let w := watchers s fun a => a / 128 == loc / 128
         let n := if (uni s g xb).toNat = 0 then w.length else (uni s g xb).toNat
         let count := (w.filter fun p => ((sortAsc (w.map (·.1))).take n).contains p.1).map (·.2)
         let woken := if detOf s g then w.map (·.2) else count
         ∃ t h, exec (.wake sm xd xa xb) s = .next t ∧ mget t.groups u = some h ∧ OthersKeep s t u ∧ MemorySame s t ∧
           KeepsAllButX g h sm 4 ∧ WritesLanes g h xd (full g) (fun _ => BitVec.ofNat 32 count.length) ∧
           (∀ e ∈ t.log, e.agent = agent u 0 → e.touches (loc / 128 * 128) 128 = true → e.perf ≠ none) ∧
           (∀ v q a y m, v ≠ u → mget s.groups v = some q → q.park = some (.wadr a y m none) →
             (mget t.groups v).bind (·.park) = some (.wadr a y m (if woken.contains v then some s.nextUid else none))))) ∧
     (¬ Held g [xd, xa, xa + 1, xb] → Raises (.wadr sm xd xa xb) s u g 0x03 ∧ Raises (.wake sm xd xa xb) s u g 0x03)) ∧
   (∀ s v q loc y m n, mget s.groups v = some q → q.park = some (.wadr loc y m (some n)) →
     let r := wokenAt s v q loc n
     ∃ t h, exec (.wadrWake v) s = .next t ∧ mget t.groups v = some h ∧ OthersSame s t v ∧ MemorySame s t ∧
       h = { q with x := h.x, histX := h.histX, got := h.got, ldTime := h.ldTime, pc := q.pc + 4, icnt := q.icnt + 1, replay := none, park := parkAfter m h } ∧
         WritesLanes q h y (full q) fun _ => BitVec.ofNat 32 (leNat (loadUnit r.1 v r.2 true loc 4))))

/-- R199, R204-R209: without a tag table a tag word raises cause 0x08. `ltag` gives the slot it hits and marks it used, or all ones with the
victim; `tagset` writes an entry into a slot of the key's set (else cause 0x08) and gives the entry it replaced; `tagclr` clears one entry or
all of them; `vltag` probes for each lane of X and marks each entry it hits used; its lanes' hits are taken from the table as it stood. What the table holds
afterwards, at TBASE + 8 × slot: `ltag` sets U of the slot hit, or clears U of the set where every way is valid and used (the sweep); `tagset`
leaves V and U set and the key's tag; `tagclr` clears V and U; every other entry, and every byte outside the table, reads as before.
R204: a tag word of a block whose grid has no tag table raises cause 0x08, and nothing of it happens. -/
def Obligations.TagWordsLookUpAndChangeTheTable : Prop :=
  (∀ s u g t0, Acts s u g → tagsOf s g = some t0 →
     let ent := t0.entry s u g
     let table : Nat × Nat := (localLoc g.block t0.base, 8 * t0.sets * t0.ways)
     let held : State → Nat → Nat := fun z j => leNat (Memory.readN z.mem (localLoc g.block (t0.base + 8 * j)) 8)
     let used : Nat → Nat := fun e => if bit e 62 then e else e + 2 ^ 62
     let unused : Nat → Nat := fun e => if bit e 62 then e - 2 ^ 62 else e
     let done : Instr → Bool → (Nat → Nat) → (Group → Prop) → Prop := fun i sm new P =>
       ∃ t h, exec i s = .next t ∧ mget t.groups u = some h ∧ OthersKeep s t u ∧ KeepsAllButX g h sm 4 ∧ P h ∧
         (t0.sets ≠ 0 → MemorySameOutside s t table.1 table.2) ∧ (MemoryCanonical s → ∀ j, j < t0.sets * t0.ways → held t j = new j)
     let here : List Nat → Prop := fun l => t0.absent s g l = []
     ∀ sm xd xa xb,
       let k := uniPair s g xa
       let i := (uni s g xb).toNat
       let sl := t0.slots (t0.set k)
       (Ready s g [xd, xd + 1, xa, xa + 1] → here sl →
         (∀ j, t0.hit s u g k = some j → done (.ltag sm xd xa) sm (fun q => if q = j then used (ent q) else held s q) fun h => WritesLanePair g h xd (full g) fun _ => j + j * 2 ^ 32) ∧
         (t0.hit s u g k = none → done (.ltag sm xd xa) sm
             (fun q => if q ∈ sl ∧ ∀ w ∈ sl, bit (ent w) 63 = true ∧ bit (ent w) 62 = true then unused (ent q) else held s q) fun h =>
           WritesLanePair g h xd (full g) fun _ => 0xFFFFFFFF + (t0.victim s u g (t0.set k)).1 * 2 ^ 32)) ∧
       (Ready s g [xd, xd + 1, xa, xa + 1, xb] → slotOk t0 k i = true → here [i] →
         done (.tagset sm xd xa xb) sm (fun q => if q = i then 2 ^ 63 + 2 ^ 62 + k % 2 ^ 52 / 2 ^ t0.gran else held s q) fun h => WritesLanePair g h xd (full g) fun _ =>
           (if entV (ent i) then 2 ^ 63 else 0) + entTag (ent i) * 2 ^ t0.gran % 2 ^ 63) ∧
       (Ready s g [xd, xd + 1, xa, xa + 1, xb] → slotOk t0 k i = false → Raises (.tagset sm xd xa xb) s u g 0x08) ∧
       (Ready s g [xd, xa, xa + 1, xb] → i % 2 = 1 → here (List.range (t0.sets * t0.ways)) →
         done (.tagclr sm xd xa xb) sm (fun q => ent q % 2 ^ 62) fun h => WritesLanes g h xd (full g) fun _ =>
           BitVec.ofNat 32 ((List.range (t0.sets * t0.ways)).countP fun j => entV (ent j))) ∧
       (Ready s g [xd, xa, xa + 1, xb] → i % 2 = 0 → here sl →
         done (.tagclr sm xd xa xb) sm (fun q => if t0.hit s u g k = some q then ent q % 2 ^ 62 else held s q) fun h => WritesLanes g h xd (full g) fun _ =>
           match t0.hit s u g k with | some j => BitVec.ofNat 32 j | none => 0xFFFFFFFF) ∧
       (∀ kp, Ready s g [xd, xa] → here (t0.laneSlots (fun L => (lane s g xa L).toNat) (xlanes s g kp)) →
         done (.vltag sm xd xa kp) sm
           (fun q => if ∃ L ∈ xlanes s g kp, t0.hit s u g (lane s g xa L).toNat = some q then used (ent q) else held s q) fun h => WritesLanes g h xd (xmask s g kp) fun L =>
           match t0.hit s u g (lane s g xa L).toNat with | some j => BitVec.ofNat 32 j | none => 0xFFFFFFFF)) ∧
  (∀ s u g, Acts s u g → tagsOf s g = none → ∀ sm xd xa xb kp,
     (Ready s g [xd, xd + 1, xa, xa + 1] → Raises (.ltag sm xd xa) s u g 0x08) ∧
     (Ready s g [xd, xd + 1, xa, xa + 1, xb] → Raises (.tagset sm xd xa xb) s u g 0x08) ∧
     (Ready s g [xd, xa, xa + 1, xb] → Raises (.tagclr sm xd xa xb) s u g 0x08) ∧
     (Ready s g [xd, xa] → Raises (.vltag sm xd xa kp) s u g 0x08))

/-- R213, R217: `awin` opens a window on the base in the pair xa at the context's translation generation, with cause 0x06 for a base beyond the
52-bit space; `pref` and `pref.t` never fault and change no register and no byte of memory.
R319: their walks touch the dies whose table bytes they read. -/
def Obligations.WindowsOpenAndPrefetchesNeverFault : Prop :=
  ∀ s u g, Acts s u g → ∀ sm aw xa xb,
    (Ready s g [xa, xa + 1] → uniPair s g xa < 2 ^ 52 → ∃ t h, exec (.awin sm aw xa) s = .next t ∧ mget t.groups u = some h ∧ OthersSame s t u ∧ MemorySame s t ∧
      t = { s with groups := t.groups, ctxs := t.ctxs } ∧
      (∀ q ∈ walkReads s g.ctx (uniPair s g xa), isPhys q = true → homeDie q ∈ (ctxOf t g.ctx).touched) ∧
      h = { g with win := h.win, histW := h.histW, pc := g.pc + 4, icnt := g.icnt + 1, replay := none, park := parkAfter sm h } ∧
      (∃ w, mget h.win aw = some w ∧ w.base = uniPair s g xa ∧ w.gen = (ctxOf s g.ctx).xgen) ∧ ∀ b, b ≠ aw → mget h.win b = mget g.win b) ∧
    (Ready s g [xa, xa + 1] → 2 ^ 52 ≤ uniPair s g xa → Raises (.awin sm aw xa) s u g 0x06) ∧
    (¬ Held g [xa, xa + 1] → Raises (.awin sm aw xa) s u g 0x03 ∧ Raises (.pref sm xa xb) s u g 0x03) ∧
    (∀ i ∈ [Instr.pref sm xa xb, .prefT sm xa xb], Ready s g [xa, xa + 1, xb] →
      ∃ t, exec i s = .next t ∧ mget t.groups u = some (atPc g sm (g.pc + 4)) ∧ OthersSame s t u ∧ MemorySame s t)

/-! ### Synchronisation -/

/-- R148: `bar` counts its arrival at issue. While a group of the block that has not halted has still to arrive, the group parks; with the last
arrival every parked group goes on after its `bar`, the count returns to 0 and the parity flips. -/
def Obligations.BlockBarrierOpensWithTheLastArrival : Prop :=
  ∀ s u g b, Acts s u g → mget s.blocks g.block = some b → b.groups.Nodup → u ∈ liveGroups s b →
    let arrived : Nat → Group → Prop := fun id q => q.gidx = g.gidx ∨ bit (mgetD b.bars id Bar.init).mask q.gidx = true
    let bars : Instr → Nat → Nat → Bool → Prop := fun i len id sm =>
      ((∀ v q, v ∈ liveGroups s b → mget s.groups v = some q → arrived id q) →
        ∃ t b' h, exec i s = .next t ∧ mget t.groups u = some h ∧ h = { atPc g sm (g.pc + len) with ldTime := h.ldTime } ∧ MemorySame s t ∧
          mget t.blocks g.block = some b' ∧ mgetD b'.bars id Bar.init = ⟨0, 0, !(mgetD b.bars id Bar.init).parity⟩ ∧
          (∀ v q len' m, v ∈ liveGroups s b → v ≠ u → mget s.groups v = some q → q.park = some (.bar id len' m) →
            ∃ h', mget t.groups v = some h' ∧ h' = { atPc q m (q.pc + len') with ldTime := h'.ldTime }) ∧
          ∀ v, v ∉ liveGroups s b → mget t.groups v = mget s.groups v) ∧
      ((∃ v q, v ∈ liveGroups s b ∧ mget s.groups v = some q ∧ ¬ arrived id q) →
        ∃ t b', exec i s = .next t ∧ mget t.groups u = some { g with park := some (.bar id len sm) } ∧ OthersSame s t u ∧ MemorySame s t ∧
          mget t.blocks g.block = some b' ∧ (mgetD b'.bars id Bar.init).count = (mgetD b.bars id Bar.init).count + 1 ∧
          (mgetD b'.bars id Bar.init).parity = (mgetD b.bars id Bar.init).parity ∧ ∀ j, j ≠ id → mgetD b'.bars j Bar.init = mgetD b.bars j Bar.init)
    (∀ sm id, bars (.bar sm id) 4 id sm) ∧ (∀ a, bars (.shortBar a) 2 a false)

/-- R57, R58, R149: a `barph` outside divergent code, with a carry set its kernel lists and an idle barrier, whose id and set every group names
alike, parks its group as arrived; anything else raises cause 0x09. When every group of the block has arrived or exited and its commands have
completed, the phase ends: each group's header and carried registers are recorded, and the next phase queues on its core. -/
def Obligations.PhaseBarrierRecordsAndQueues : Prop :=
  (∀ s u g b sm id idx, Acts s u g → mget s.blocks g.block = some b →
    let ncarry := match groupKernel s g with | some k => k.carry.length | none => 0
    let agrees := ∀ i x l, b.phase = some (i, x, l) → i = id ∧ x = idx
    (g.table = [] → idx < ncarry → (mgetD b.bars id Bar.init).count = 0 → agrees →
      ∃ t b', exec (.barph sm id idx) s = .next t ∧ mget t.groups u = some { g with park := some (.barph id idx sm) } ∧ OthersSame s t u ∧
        MemorySame s t ∧ mget t.blocks g.block = some b' ∧ ∃ l, b'.phase = some (id, idx, l) ∧ u ∈ l) ∧
    (g.table ≠ [] ∨ ncarry ≤ idx ∨ (mgetD b.bars id Bar.init).count ≠ 0 ∨ ¬ agrees → Raises (.barph sm id idx) s u g 0x09)) ∧
  (∀ s blk b i idx l, mget s.blocks blk = some b → b.phase = some (i, idx, l) → phaseDone s blk b = true →
    ∃ t b', exec (.phaseEnd blk) s = .next t ∧ MemorySame s t ∧ mget t.blocks blk = some b' ∧ b'.st = .queued ∧ b'.phase = none ∧
      blk ∈ (coreOf t b.core).phaseQ ∧
      ∀ v q, v ∈ b.groups → mget s.groups v = some q → q.exited = false → ∃ h ∈ b'.record, h.group = v ∧ h.pc = q.pc + 4 ∧ h.icnt = q.icnt + 1 ∧
        h.carry = idx ∧ h.k = (settle s q).k ∧ h.flags = (settle s q).flags ∧
        h.regs = (carried (match groupKernel s q with | some k => k.carry.getD idx 0 | none => 0)).map fun r => (r, xNow (settle s q) r))

/-- R246-R248, R236: `wait` goes on once at most its count of the class are outstanding, and `wtok` once its token's command has completed, and
the group then sees the writes of the commands of that class (or token) that have completed; before, they park. A token that no command of the
group was given raises cause 0x0C. -/
def Obligations.WaitsGoOnWhenCommandsComplete : Prop :=
  ∀ s u g, Acts s u g →
    let goes : Instr → Nat → Bool → (Word → Prop) → Prop := fun i len sm p =>
      ∃ t h, exec i s = .next t ∧ mget t.groups u = some h ∧ OthersSame s t u ∧ MemorySame s t ∧
        h = { g with seen := h.seen, waited := h.waited, compl := h.compl, pc := g.pc + len, icnt := g.icnt + 1, replay := none, park := parkAfter sm g } ∧
        (∀ e ∈ g.compl, p e.1 → ∀ x ∈ e.2, x ∈ h.seen) ∧ ∀ x ∈ g.seen, x ∈ h.seen
    let parks : Instr → Park → Prop := fun i p => exec i s = .next (setGroup s u { g with park := some p })
    let waits : Instr → Nat → Bool → Nat → Nat → Prop := fun i len sm cls n =>
      let out := ((groupCmds s u).filter fun e => cls == 3 || e.2.cls == cls).length
      (out ≤ n → goes i len sm fun t => t ≠ escToken ∧ (cls = 3 ∨ t.toNat / 2 ^ 30 = cls)) ∧ (n < out → parks i (.cls cls n))
    (∀ sm cls n, waits (.wait sm cls n) 4 sm cls n) ∧ (∀ a b, waits (.shortWait a b) 2 false a b) ∧
    (∀ sm xa, Ready s g [xa] →
      let tok := uni s g xa
      let d := (tok.toNat % 2 ^ 30 + 2 ^ 30 - mgetD g.cnt (tok.toNat / 2 ^ 30) 0) % 2 ^ 30
      let given := tok.toNat / 2 ^ 30 ≠ 3 ∧ ¬ (1 ≤ d ∧ d < 2 ^ 29)
      let open_ := ∃ e ∈ groupCmds s u, e.2.token = tok
      (given → ¬ open_ → goes (.wtok sm xa) 4 sm fun t => t = tok) ∧ (given → open_ → parks (.wtok sm xa) (.token tok)) ∧
      (¬ given → Raises (.wtok sm xa) s u g 0x0C)) ∧
    (∀ sm xa, ¬ Held g [xa] → Raises (.wtok sm xa) s u g 0x03)

/-- R224, R229-R231, R236, R240: the fences retire at once. An acquire makes what the group's strong reads met at its scope visible to its
loads; a release records every write its loads see, at its scope, for its later strong writes to publish, and every earlier store of the group, and
every engine write that a `pfence` handed to its LS path, has performed at its scope (in its block, in its cluster too, or for everyone); `fence.ar` and `fence.sc` do both, and `fence.sc` acquires what earlier ones at a scope it shares published.
`pfence` makes what each path it names first carries visible to each path it names last (to LS, an engine's writes then count as the group's), and `ifence` makes what the loads see, and the
writes of commands whose tokens the group has reached, visible to fetches. No register or byte of memory changes.
R232-R235, R342: `acq` makes what releases of the object published visible, `rel` releases to it the writes to its bound bytes that the group
sees, and those of the group have performed at `.dev`; `bind` and `unbind` change the context's binding table and give a status. A misaligned object raises cause 0x04, a virtual address
beyond the space cause 0x06, an unheld register cause 0x03, and a deterministic group without the coin cause 0x14. No byte of memory changes.
That a byte counts as bound by the virtual address its write used is log entry 10 (DEDUCED from R227). -/
def Obligations.FencesAndEntryConsistencyOrderAccesses : Prop :=
  (∀ s u g, Acts s u g →
     let runs : Instr → Bool → (State → Group → Prop) → Prop := fun i sm P =>
       ∃ t h, exec i s = .next t ∧ mget t.groups u = some h ∧ OthersSame s t u ∧ MemorySame s t ∧
         h = { g with pub := h.pub, pfSnap := h.pfSnap, ldTime := h.ldTime, pc := g.pc + 4, icnt := g.icnt + 1, replay := none, park := parkAfter sm g } ∧ P t h
     let acquires : Scope → List Published → State → Prop := fun sc l t => ∀ p ∈ l, p.eng = false → shares s g sc p = true → SeesAll t (agent u 0) p.ids
     let performed : Scope → State → Prop := fun sc t => ∀ e ∈ t.log, e.ofLs u = true →
       (2 ≤ sc.code → e.perf ≠ none) ∧ (sc = .blk → e.perf ≠ none ∨ ∃ d, (0, g.block, d) ∈ e.near) ∧
       (sc = .clu → e.perf ≠ none ∨ ((∃ d, (0, g.block, d) ∈ e.near) ∧ ∃ d, (1, clusterOfGroup s g, d) ∈ e.near))
     let releases : Scope → State → Group → Prop := fun sc t h =>
       (∃ p ∈ h.pub, p.scope = sc ∧ p.ctx = g.ctx ∧ p.blk = g.block ∧ Covers p.ids (visIds s (agent u 0))) ∧ performed sc t
     (∀ sm sc, runs (.fenceAcq sm sc) sm fun t h => acquires sc g.got t ∧ h.pub = g.pub ∧ h.pfSnap = g.pfSnap) ∧
     (∀ sm sc, runs (.fenceRel sm sc) sm fun t h => releases sc t h ∧ h.pfSnap = g.pfSnap) ∧
     (∀ sm sc, runs (.fenceAr sm sc) sm fun t h => acquires sc g.got t ∧ releases sc t h ∧ h.pfSnap = g.pfSnap) ∧
     (∀ sm sc, runs (.fenceSc sm sc) sm fun t h => acquires sc g.got t ∧ acquires sc s.fenceLog t ∧ releases sc t h ∧ h.pfSnap = g.pfSnap ∧
       ∃ p ∈ t.fenceLog, p.scope = sc ∧ p.ctx = g.ctx ∧ Covers p.ids (visIds s (agent u 0))) ∧
     (∀ sm sc frm dst, runs (.pfence sm sc frm dst) sm fun t h => h.pub = g.pub ∧
       (∀ p q, p < 6 → q < 6 → bit frm p = true → bit dst q = true → SeesAll t (agent u q) (pathWrites s u g p)) ∧
       (bit dst 0 = true → ∀ p, p ≠ 0 → p < 6 → bit frm p = true → ∀ e ∈ t.log, e.agent % 8 ≠ 0 → (e.id, none) ∈ pathWrites s u g p → e.ofLs u = true) ∧
       (bit frm 0 = true → dst ≠ 0 → ∀ e ∈ s.log, e.ofLs u = true → ∃ e' ∈ t.log, e'.id = e.id ∧
         (2 ≤ sc.code → e'.perf ≠ none) ∧ (sc.code ≤ 1 → e'.perf ≠ none ∨ ∃ d, (0, g.block, d) ∈ e'.near))) ∧
     (∀ sm, runs (.ifence sm) sm fun t h => h.pub = g.pub ∧ h.pfSnap = g.pfSnap ∧
       SeesAll t (agent u 5) (visIds s (agent u 0)) ∧ SeesAll t (agent u 5) g.waited)) ∧
  (∀ s u g, Acts s u g → ∀ sm xd xa xb,
     let obj := uniPair s g xa
     let base := uniPair s g xb
     let len := (uni s g (xb + 2)).toNat
     let tab := (ctxOf s g.ctx).binds
     let free : Nat → Prop := fun loc => detOf s g = false ∨ isPhys loc = false ∨ holdsCoin s g = true
     let goes : Instr → (State → Group → Prop) → Prop := fun i P =>
       ∃ t h, exec i s = .next t ∧ mget t.groups u = some h ∧ OthersSame s t u ∧ MemorySame s t ∧
         h = { g with x := h.x, histX := h.histX, pub := h.pub, ldTime := h.ldTime, pc := g.pc + 4, icnt := g.icnt + 1, replay := none, park := parkAfter sm h } ∧ P t h
     let released : State → Prop := fun t => (∃ p ∈ t.bound, p.blk = obj ∧ p.ctx = g.ctx ∧ ∀ e ∈ s.log, ∀ b ∈ e.bytes,
         boundByte s g.ctx obj e b = true → e.seenAtByte (agent u 0) b = true → (e.id, some b) ∈ p.ids) ∧
       ∀ e ∈ t.log, e.ofLs u = true → (∃ b ∈ e.bytes, boundByte s g.ctx obj e b = true) → e.perf ≠ none
     (Ready s g [xa, xa + 1] →
       (∀ e, objPlace s g obj = .error e → exec (.acq sm xa) s = .next (accFail s u g e) ∧ exec (.rel sm xa) s = .next (accFail s u g e)) ∧
       (∀ loc, objPlace s g obj = .ok loc → free loc →
         (goes (.acq sm xa) fun t h => h.x = g.x ∧ h.pub = g.pub ∧ ∀ p ∈ s.bound, p.blk = obj → p.ctx = g.ctx → SeesAll t (agent u 0) p.ids) ∧
         (goes (.rel sm xa) fun t h => h.x = g.x ∧ h.pub = g.pub ∧ released t)) ∧
       (∀ loc, objPlace s g obj = .ok loc → ¬ free loc → Raises (.acq sm xa) s u g 0x14 ∧ Raises (.rel sm xa) s u g 0x14) ∧
       (obj % 8 ≠ 0 → Raises (.acq sm xa) s u g 0x04 ∧ Raises (.rel sm xa) s u g 0x04) ∧
       (obj % 8 = 0 → 2 ^ 52 ≤ obj → Raises (.acq sm xa) s u g 0x06 ∧ Raises (.rel sm xa) s u g 0x06)) ∧
     (¬ Held g [xa, xa + 1] → Raises (.acq sm xa) s u g 0x03 ∧ Raises (.rel sm xa) s u g 0x03) ∧
     (Ready s g [xd, xa, xa + 1, xb, xb + 1, xb + 2] →
       (obj % 8 ≠ 0 → Raises (.bind sm xd xa xb) s u g 0x04) ∧
       (obj % 8 = 0 → 2 ^ 52 ≤ obj ∨ 2 ^ 52 ≤ base → Raises (.bind sm xd xa xb) s u g 0x06) ∧
       (obj % 8 = 0 → obj < 2 ^ 52 → base < 2 ^ 52 → detOf s g = true → holdsCoin s g = false → Raises (.bind sm xd xa xb) s u g 0x14) ∧
       (obj % 8 = 0 → obj < 2 ^ 52 → base < 2 ^ 52 → detOf s g = false ∨ holdsCoin s g = true →
         goes (.bind sm xd xa xb) fun t h =>
           WritesLanes g h xd (full g) (fun _ => BitVec.ofNat 32 (bindStatus tab obj base len)) ∧
           (ctxOf t g.ctx).binds = if bindStatus tab obj base len = 0 ∧ (obj, base, len) ∉ tab then tab ++ [(obj, base, len)] else tab)) ∧
     (¬ Held g [xd, xa, xa + 1, xb, xb + 1, xb + 2] → Raises (.bind sm xd xa xb) s u g 0x03) ∧
     (Ready s g [xd, xa, xa + 1, xb, xb + 1] →
       (obj % 8 ≠ 0 → Raises (.unbind sm xd xa xb) s u g 0x04) ∧
       (obj % 8 = 0 → 2 ^ 52 ≤ obj ∨ 2 ^ 52 ≤ base → Raises (.unbind sm xd xa xb) s u g 0x06) ∧
       (obj % 8 = 0 → obj < 2 ^ 52 → base < 2 ^ 52 →
         (∀ e, objPlace s g obj = .error e → exec (.unbind sm xd xa xb) s = .next (accFail s u g e)) ∧
         (∀ loc, objPlace s g obj = .ok loc → ¬ free loc → Raises (.unbind sm xd xa xb) s u g 0x14) ∧
         (∀ loc, objPlace s g obj = .ok loc → free loc →
           goes (.unbind sm xd xa xb) fun t h => h.pub = g.pub ∧
             WritesLanes g h xd (full g) (fun _ => if ∃ e ∈ tab, e.1 = obj ∧ e.2.1 = base then 1 else 0) ∧ released t ∧
             (ctxOf t g.ctx).binds = tab.filter fun e => !(e.1 == obj && e.2.1 == base)))) ∧
     (¬ Held g [xd, xa, xa + 1, xb, xb + 1] → Raises (.unbind sm xd xa xb) s u g 0x03))

/-- R60, R61: `xacq` of n blocks is granted at once where the core has the slabs and nobody waits, else the group queues for them; a request it
could never meet, or a second one, raises cause 0x12. A grant gives the blocks to the first of the queue once its slabs are free. `xrel` gives
them back, and x32 and above hold nothing any more. -/
def Obligations.RegisterBlocksAreGrantedAndReleased : Prop :=
  (∀ s u g gr sm n, Acts s u g → mget s.grids g.grid = some gr →
    let never := g.ext ≠ 0 ∨ 128 - gr.ngrp * g.gwid / 8 < n * g.gwid / 8
    (never → Raises (.xacq sm n) s u g 0x12) ∧
    (¬ never → slabsFree s g n = true → Becomes (.xacq sm n) s u (atPc { g with ext := n } sm (g.pc + 4))) ∧
    (¬ never → slabsFree s g n = false → ∃ t, exec (.xacq sm n) s = .next t ∧ mget t.groups u = some { g with park := some (.xacq n sm) } ∧
      OthersSame s t u ∧ MemorySame s t ∧ (coreOf t (coreOfGroup s g)).grantQ = (coreOf s (coreOfGroup s g)).grantQ ++ [u])) ∧
  (∀ s core u q rest n sm, (coreOf s core).grantQ = u :: rest → mget s.groups u = some q → q.park = some (.xacq n sm) →
    slabsUsed s core + n * q.gwid / 8 ≤ 128 → ∃ t, exec (.xacqGrant core) s = .next t ∧
      mget t.groups u = some (atPc { q with ext := n } sm (q.pc + 4)) ∧ OthersSame s t u ∧ MemorySame s t ∧ (coreOf t core).grantQ = rest) ∧
  (∀ s u g sm, Acts s u g → Retires (.xrel sm) s u fun h =>
    h = { g with ext := 0, x := h.x, histX := h.histX, pc := g.pc + 4, icnt := g.icnt + 1, replay := none, park := parkAfter sm h } ∧
    ∀ r L, L < g.gwid → laneNow h r L = if r < 32 then laneNow g r L else 0)

/-- R44, R54, R164: `halt` ends the group's work: it counts in `icnt`, its pending paths are discarded, its extended blocks released, and it counts
as arrived at every barrier: groups parked at a `bar` that waited for it alone go on. With nothing of it outstanding, no escrow word's result either, it exits at once, and
otherwise once it can (GROUP_EXIT). Inside the supervisor handler it ends the handler, and a command that the handler held runs on (this model's
choice, log entry 51). Groups of other blocks, where no open latch lists the group, stay as they were. -/
def Obligations.HaltEndsTheGroup : Prop :=
  (∀ s u g sm, Acts s u g → ∃ t h, exec (.halt sm) s = .next t ∧ mget t.groups u = some h ∧ MemorySame s t ∧
    h.halted = true ∧ h.table = [] ∧ h.ext = 0 ∧ h.icnt = g.icnt + 1 ∧
    h.hstack = none ∧ h.sup = false ∧
    (g.causes = [] → groupCmds s u = [] → g.words = [] → g.trapping = none → h.exited = true) ∧
    (g.exited = false → g.words ≠ [] → h.exited = false ∧ h.park = some .halted) ∧
    (∀ id d, g.exited = false → g.trapCmd = some id → mget s.cmds id = some d → d.grp = u → mget t.cmds id = some { d with stalled := false }) ∧
    (g.exited = false → groupCmds s u ≠ [] → h.exited = false ∧ h.park = some .halted) ∧
    ((∀ l ∈ (clusterOf s (ownCluster s g)).latches, clusterSlot s g ∉ l.slots) → ∀ b, mget s.blocks g.block = some b →
      (∀ v, v ≠ u → v ∉ b.groups → mget t.groups v = mget s.groups v) ∧
      (∀ v q, v ≠ u → mget s.groups v = some q → ∃ q', mget t.groups v = some q' ∧
        q' = { q with pc := q'.pc, icnt := q'.icnt, park := q'.park, replay := q'.replay, ldTime := q'.ldTime, sepc := q'.sepc, hstack := q'.hstack }) ∧
      (∀ id v q len m, id < 16 → v ≠ u → v ∈ liveGroups s b → mget s.groups v = some q → q.park = some (.bar id len m) →
        (mgetD b.bars id Bar.init).count ≠ 0 →
        (∀ w p, w ≠ u → w ∈ liveGroups s b → mget s.groups w = some p → bit (mgetD b.bars id Bar.init).mask p.gidx = true) →
        ∃ q', mget t.groups v = some q' ∧ q' = { atPc q m (q.pc + len) with ldTime := q'.ldTime }))) ∧
  (∀ s u g, mget s.groups u = some g → canExit s u g = true → ∃ t h, exec (.groupExit u) s = .next t ∧ mget t.groups u = some h ∧
    MemorySame s t ∧ h.exited = true ∧ h.park = none)

/-! ### Traps and special registers -/

/-- R95, R302, R304, R305: a trap outside supervisor mode, which waits until the last escrow word of the group has given its result
(REGISTER_RESULT_WRITTEN), settles the group's results, saves k0–k7, the active mask, the flags, the call level and
`mode` on the handler stack and the lanes of x1–x7 in the trap frame, fills `scause` (cause, n of a software trap in [15:8], bit 16 for an engine cause),
`sepc`, `sfmask`, `stok` and the return kind, gives the handler its inputs in x1–x7, and enters supervisor mode at the handler's entry with
FMASK active; a handler entered for a page under evacuation that has been moved by then has nothing to do and replays at once (R303). The die
of the frame is touched (R319). No other group changes, and no byte outside the frame.
R306, R312: a cause raised in supervisor mode kills the context: STATE becomes 3 with the cause, and no group, block, grid or command of it
is left; those of other contexts stay, and no byte of memory changes. -/
def Obligations.CausesEnterSupervisorModeOrKill : Prop :=
  (∀ s u g (i : TrapInfo), g.sup = false → g.words ≠ [] → trapEntry s u g i = setGroup s u { g with trapping := some i }) ∧
  (∀ s u g i, mget s.groups u = some g → g.exited = false → g.words = [] → g.trapping = some i →
     exec (.registerResultWritten u) s = .next (trapEntry s u { g with trapping := none } i)) ∧
  (∀ s u g (i : TrapInfo), g.sup = false → g.words = [] → g.gwid ≤ 64 → MemoryCanonical s →
     ∃ h, mget (trapEntry s u g i).groups u = some h ∧
       h.hstack = some ⟨(settle s g).k, g.active, (settle s g).flags, g.level, g.mode, keptPark (settle s g), []⟩ ∧ h.trapAt = g.pc ∧
       h.scause = BitVec.ofNat 32 (i.cause + (if i.cause = 0x0F then i.n * 2 ^ 8 else 0) + (if i.engine then 2 ^ 16 else 0)) ∧
       h.sepc = BitVec.ofNat 32 i.sepc ∧ h.sfmask = i.fmask ∧ h.stok = i.token ∧ h.sretc = BitVec.ofNat 32 i.kind ∧ h.faults = i.faults ∧
       h.sup = true ∧ h.active = i.fmask ∧ h.pc = Config.handlerEntry ∧ h.park = (if i.moved = true ∧ s.fw = [] then some .evacuation else none) ∧ h.replay = none ∧
       h.mode = g.mode ∧ h.level = g.level ∧ h.icnt = g.icnt ∧ h.table = g.table ∧ h.k = (settle s g).k ∧ h.flags = (settle s g).flags ∧
       (∀ r L, L < g.gwid → laneNow h r L =
         if r = 1 then h.scause else if r = 2 then BitVec.ofNat 32 (frameAddr s g) else if r = 3 then BitVec.ofNat 32 (frameAddr s g / 2 ^ 32)
         else if r = 4 then (match i.faults.find? fun q => q.lane = L with | some q => BitVec.ofNat 32 q.va | none => 0)
         else if r = 5 then (match i.faults.find? fun q => q.lane = L with | some q => BitVec.ofNat 32 (q.va / 2 ^ 32) | none => 0)
         else if r = 6 then (match i.faults.find? fun q => q.lane = L with | some q => BitVec.ofNat 32 (q.kind % 4) | none => 0)
         else if r = 7 then 0 else laneNow (settle s g) r L) ∧
       OthersSame s (trapEntry s u g i) u ∧ (∀ b, mget s.blocks g.block = some b → assigned (dieOf b.core) ∈ (ctxOf (trapEntry s u g i) g.ctx).touched) ∧
       MemorySameOutside s (trapEntry s u g i) (frameAddr s g) 1792 ∧
       ∀ r L j, 1 ≤ r → r ≤ 7 → L < 64 → j < 4 → Memory.read (trapEntry s u g i).mem (frameAddr s g + (r - 1) * 256 + L * 4 + j) =
         if L < g.gwid then BitVec.ofNat 8 ((laneNow (settle s g) r L).toNat / 256 ^ j)
         else Memory.read s.mem (frameAddr s g + (r - 1) * 256 + L * 4 + j)) ∧
  (∀ s u g (i : TrapInfo), g.sup = true →
     let t := trapEntry s u g i
     (ctxOf t g.ctx).cst = 3 ∧ (ctxOf t g.ctx).cause = i.cause ∧
     (∀ e ∈ t.groups, e.2.ctx ≠ g.ctx) ∧ (∀ e ∈ t.blocks, e.2.ctx ≠ g.ctx) ∧ (∀ e ∈ t.grids, e.2.ctx ≠ g.ctx) ∧ (∀ e ∈ t.cmds, e.2.ctx ≠ g.ctx) ∧
     (∀ e ∈ s.groups, e.2.ctx ≠ g.ctx → e ∈ t.groups) ∧ (∀ e ∈ s.grids, e.2.ctx ≠ g.ctx → e ∈ t.grids) ∧
     (∀ c, c ≠ g.ctx → ctxOf t c = ctxOf s c) ∧ MemorySame s t)

/-- R110, R124, R164, R302: `trap` retires, counts in `icnt`, and takes cause 0x0F with its number, to resume after it; `brk` does nothing while
BRKD of `mode` is set and else raises cause 0x10; `nop` only goes on. -/
def Obligations.SystemWordsTrapOrGoOn : Prop :=
  ∀ s u g, Acts s u g →
    (∀ sm n, exec (.trap sm n) s = .next (trapEntry s u { g with icnt := g.icnt + 1, replay := none } ⟨0x0F, n, false, 0, [], 1, g.pc + 4, 0, none, false⟩)) ∧
    (∀ sm, g.mode.getLsbD 3 = true → Becomes (.brk sm) s u (atPc g sm (g.pc + 4))) ∧
    (∀ sm, g.mode.getLsbD 3 = false → Raises (.brk sm) s u g 0x10) ∧
    (∀ sm, Becomes (.nop sm) s u (atPc g sm (g.pc + 4))) ∧ Becomes .shortNop s u (atPc g false (g.pc + 2)) ∧
    (∀ cause, raise s u g cause = trapEntry s u g ⟨cause, 0, false, 0, [], 1, g.pc, 2, none, false⟩)

/-- R102, R306, R307: `sret` outside supervisor mode raises cause 0x02. In it it waits for the results of the handler's escrow words: no rule says so, the
model's choice (log entry 56); with no command held, it retires once every earlier store of the
group has performed: it restores the masks, the active mask, the flags, the call level and `mode` from the handler stack and x1–x7 from the frame
(those the return code keeps stay), leaves supervisor mode and goes to `sepc`; return kind 1 replays the lanes of `sfmask`. Kind 2 delivers the
cause: to the group's own handler, which starts with the cause, the trapping code offset and the address in x4–x7, all lanes active and no path
pending, or, without one or inside it, by killing the context. -/
def Obligations.SupervisorReturnRestoresOrDelivers : Prop :=
  ∀ s u g sm, Acts s u g →
    (g.sup = false → Raises (.sret sm) s u g 0x02) ∧
    (g.sup = true → g.words ≠ [] → exec (.sret sm) s = .next (setGroup s u { g with park := some .result })) ∧
    (g.sup = true → g.words = [] → g.trapCmd = none → ∀ k, g.hstack = some k →
      let kind := g.sretc.toNat % 4
      let returns : (Group → Prop) → Prop := fun P => ∃ t h, exec (.sret sm) s = .next t ∧ mget t.groups u = some h ∧ OthersSame s t u ∧
        MemorySame s t ∧ (∀ e ∈ t.log, e.ofLs u = true → e.perf ≠ none) ∧ h.icnt = g.icnt + 1 ∧ P h
      let restored : Group → Prop := fun h =>
        ∀ r L, L < g.gwid → laneNow h r L =
          if 1 ≤ r ∧ r ≤ 7 ∧ g.sretc.getLsbD (r + 2) = false then
            let off := (r - 1) * 256 + L * 4
            BitVec.ofNat 32 (leNat (if k.frame = [] then Memory.readN s.mem (frameAddr s g + off) 4 else (k.frame.drop off).take 4))
          else laneNow (settle s g) r L
      (kind ≠ 2 → returns fun h =>
        h.k = k.k ∧ h.active = k.active ∧ h.flags = k.flags ∧ h.level = k.level ∧ h.mode = k.mode ∧ h.hstack = none ∧ h.sup = false ∧
        h.pc = g.sepc.toNat ∧ h.replay = (if kind = 1 then some (g.sfmask &&& full g) else none) ∧ h.table = g.table ∧
        h.park = (if g.halted then some .halted else k.park) ∧ restored h) ∧
      (kind = 2 → g.uhnd ≠ 0xFFFFFFFF → g.inUser = false → returns fun h =>
        h.sup = false ∧ h.inUser = true ∧ h.pc = g.uhnd.toNat ∧ h.table = [] ∧ h.active = full g ∧ h.hstack = none ∧ h.park = none ∧ h.replay = none ∧
        ∀ r L, L < g.gwid → 4 ≤ r → r ≤ 7 → laneNow h r L =
          if r = 4 then BitVec.ofNat 32 (g.scause.toNat % 256) else if r = 5 then BitVec.ofNat 32 g.trapAt
          else BitVec.ofNat 32 ((match g.faults with | f :: _ => f.va | [] => 0) / (if r = 6 then 1 else 2 ^ 32))) ∧
      (kind = 2 → g.uhnd = 0xFFFFFFFF ∨ g.inUser = true → exec (.sret sm) s = .next (kill (touchFrame (performStores s u) g) g.ctx (g.scause.toNat % 256))))

/-- R92, R158: both words wait for every outstanding register result of the group, in code of either form. Then, outside supervisor mode, reading a special register numbered 0x100 or above, or writing one (or `seed`), raises cause 0x02. Otherwise
`srd` settles the group's results and writes the register's value to xd in every lane (a pair register to the pair), and `swr` settles
them and gives the register its new value, to which a read-only or unassigned number is blind; nothing else changes.
R77, R158-R160, R276, R305: what each special register reads as and what a write leaves in it: `agelim` between 64 and 65,535, a rounding
mode above 4 as 0, reserved bits as 0, the odd numbers bits [63:32] of their pair alone; a number that the table does not give reads 0, and a
write of it, or of a read-only one, changes nothing. In a deterministic context the cycle count reads as the instruction count (outside one it
is timing, a free value). -/
def Obligations.SpecialRegistersCheckReadAndWrite : Prop :=
  (∀ s u g, Acts s u g → ∀ sm x num,
     let q := settle s g
     let regs := if specialPair num then [x, x + 1] else [x]
     let free := g.words = []
     (g.words ≠ [] → ∀ i ∈ [Instr.srd sm x num, .swr sm x num], exec i s = .next (setGroup s u { g with park := some .result })) ∧
     (free → g.sup = false → 0x100 ≤ num → exec (.srd sm x num) s = .next (raise s u q 0x02) ∧ exec (.swr sm x num) s = .next (raise s u q 0x02)) ∧
     (free → g.sup = false → num = 0x040 ∨ num = 0x041 → exec (.swr sm x num) s = .next (raise s u q 0x02)) ∧
     (free → g.sup = true ∨ num < 0x100 → Held g regs → Retires (.srd sm x num) s u fun h =>
       KeepsAllButX q h sm 4 ∧
       if specialPair num then WritesLanePair q h x (full q) fun _ => specialRead s q num
       else WritesLanes q h x (full q) fun _ => BitVec.ofNat 32 (specialRead s q num)) ∧
     (free → g.sup = true ∨ (num < 0x100 ∧ num ≠ 0x040 ∧ num ≠ 0x041) → Held g regs → Becomes (.swr sm x num) s u
       (atPc (specialWrite q num (if specialPair num then uniPair s q x else (uni s q x).toNat)) sm (g.pc + 4))) ∧
     (free → g.sup = true ∨ num < 0x040 → ¬ Held g regs → exec (.srd sm x num) s = .next (raise s u q 0x03) ∧ exec (.swr sm x num) s = .next (raise s u q 0x03))) ∧
  ((∀ s g, specialRead s g 0x000 = g.gidx ∧ specialRead s g 0x001 = g.gwid ∧ specialRead s g 0x012 = 30 ∧ specialRead s g 0x021 = g.icnt.toNat ∧
     specialRead s g 0x030 = g.qthr.toNat ∧ specialRead s g 0x031 = g.qscale.toNat ∧ specialRead s g 0x032 = g.qside.toNat ∧
     specialRead s g 0x040 = (ctxOf s g.ctx).seed.toNat % 2 ^ 32 ∧ specialRead s g 0x041 = (ctxOf s g.ctx).seed.toNat / 2 ^ 32 ∧
     specialRead s g 0x042 = g.srx.toNat ∧ specialRead s g 0x050 = g.gang.toNat ∧ specialRead s g 0x051 = g.gang.toNat / 2 ^ 32 ∧
     specialRead s g 0x060 = g.agelim.toNat ∧
     specialRead s g 0x080 = g.ver ∧ specialRead s g 0x081 = g.spn.toNat ∧ specialRead s g 0x0F0 = g.mode.toNat ∧
     specialRead s g 0x100 = g.scause.toNat ∧ specialRead s g 0x101 = g.sepc.toNat ∧ specialRead s g 0x102 = g.sfmask.toNat ∧
     specialRead s g 0x103 = g.sfmask.toNat / 2 ^ 32 ∧
     specialRead s g 0x104 = g.stok.toNat ∧ specialRead s g 0x105 = g.sretc.toNat ∧ specialRead s g 0x110 = g.ctx ∧
     specialRead s g 0x111 = (ctxOf s g.ctx).cgen.toNat ∧ specialRead s g 0x112 = (ctxOf s g.ctx).fpool.toNat ∧
     specialRead s g 0x113 = (ctxOf s g.ctx).fpool.toNat / 2 ^ 32 ∧
     specialRead s g 0x114 = (ctxOf s g.ctx).rqtab.toNat ∧ specialRead s g 0x115 = (ctxOf s g.ctx).rqtab.toNat / 2 ^ 32 ∧
     specialRead s g 0x116 = g.uhnd.toNat ∧
     ((ctxOf s g.ctx).det = true → specialRead s g 0x020 = g.icnt.toNat)) ∧
   (∀ s g b gr, mget s.blocks g.block = some b → mget s.grids g.grid = some gr →
     specialRead s g 0x002 = gr.ngrp ∧ specialRead s g 0x003 = b.bidx ∧ specialRead s g 0x004 = b.bidx % gr.gdx ∧
     specialRead s g 0x005 = b.bidx / gr.gdx % gr.gdy ∧ specialRead s g 0x006 = b.bidx / gr.gdx / gr.gdy ∧ specialRead s g 0x007 = gr.gdx ∧
     specialRead s g 0x008 = gr.gdy ∧ specialRead s g 0x009 = gr.gdz ∧ specialRead s g 0x00A = gr.depth ∧ specialRead s g 0x011 = gr.cores.length ∧
     (∀ i, gr.cores[i]? = some b.core → (∀ j, j < i → gr.cores[j]? ≠ some b.core) → specialRead s g 0x010 = i) ∧
     (gr.firing = none → specialRead s g 0x070 = 0xFFFFFFFF ∧ specialRead s g 0x071 = 0xFFFFFFFF) ∧
     ∀ gid node st n, gr.firing = some (gid, node, st, n) → specialRead s g 0x070 = st ∧ specialRead s g 0x071 = n) ∧
   (∀ (g : Group) v, specialWrite g 0x030 v = { g with qthr := BitVec.ofNat 32 v } ∧ specialWrite g 0x031 v = { g with qscale := BitVec.ofNat 32 (v % 256) } ∧
     specialWrite g 0x032 v = { g with qside := BitVec.ofNat 32 v } ∧ specialWrite g 0x042 v = { g with srx := BitVec.ofNat 32 v } ∧
     specialWrite g 0x050 v = { g with gang := BitVec.ofNat 64 (v % 2 ^ 45) } ∧
     (g.gang.toNat < 2 ^ 45 → specialWrite g 0x051 v = { g with gang := BitVec.ofNat 64 (g.gang.toNat % 2 ^ 32 + v % 2 ^ 13 * 2 ^ 32) }) ∧
     (v < 2 ^ 32 → specialWrite g 0x060 v = { g with agelim := BitVec.ofNat 32 (if v < 64 then 64 else if 65535 < v then 65535 else v) }) ∧
     specialWrite g 0x0F0 v = { g with mode := BitVec.ofNat 32 ((if 4 < v % 8 then 0 else v % 8) + v / 8 % 2 * 8) } ∧
     specialWrite g 0x101 v = { g with sepc := BitVec.ofNat 32 v } ∧ specialWrite g 0x102 v = { g with sfmask := BitVec.ofNat 64 v } ∧
     specialWrite g 0x103 v = { g with sfmask := BitVec.ofNat 64 (g.sfmask.toNat % 2 ^ 32 + v % 2 ^ 32 * 2 ^ 32) } ∧
     specialWrite g 0x105 v = { g with sretc := BitVec.ofNat 32 (v % 4 + v / 8 % 2 ^ 7 * 8) }) ∧
   (∀ g v num, num < 0x030 ∨ num = 0x040 ∨ num = 0x041 ∨ num = 0x070 ∨ num = 0x071 ∨ num = 0x080 ∨ num = 0x081 ∨ num = 0x100 ∨ num = 0x104 ∨ 0x110 ≤ num →
     specialWrite g num v = g) ∧
   (∀ s g v num, (0x00A < num ∧ num < 0x010) ∨ (0x012 < num ∧ num < 0x020) ∨ (0x021 < num ∧ num < 0x030) ∨ (0x032 < num ∧ num < 0x040) ∨
       (0x042 < num ∧ num < 0x050) ∨ (0x051 < num ∧ num < 0x060) ∨ (0x060 < num ∧ num < 0x070) ∨ (0x071 < num ∧ num < 0x080) ∨
       (0x081 < num ∧ num < 0x0F0) ∨ (0x0F0 < num ∧ num < 0x100) ∨ (0x105 < num ∧ num < 0x110) ∨ 0x117 ≤ num →
     specialRead s g num = 0 ∧ specialWrite g num v = g))

/-- R162, R163, R88, R89, R12: `topo` and `capq` write the fact they are asked for to every lane of xd: the stepping grade, the partition's dies,
the group's own die, site and cluster, and the lost dies among them; a numeric key that names no combination reads 0. -/
def Obligations.TopologyAndCapabilityWordsGiveFacts : Prop :=
  (∀ sm xd xa sel, UniWord (.topo sm xd xa sel) 4 sm [xd, xa] xd fun s g => BitVec.ofNat 32 (topoFact s g sel (uni s g xa).toNat)) ∧
  (∀ sm xd xa sel, UniWord (.capq sm xd xa sel) 4 sm [xd, xa] xd fun s g => BitVec.ofNat 32 (behaviour (uni s g xa).toNat sel)) ∧
  (∀ s g gr i, mget s.grids g.grid = some gr →
    topoFact s g 0 i = s.grade ∧ topoFact s g 1 i = (sortAsc (ctxOf s g.ctx).part).length ∧
    topoFact s g 2 i = ((sortAsc (ctxOf s g.ctx).part)[i]?).getD 0xFFFFFFFF ∧ topoFact s g 7 i = coreOfGroup s g / 1024 ∧
    topoFact s g 8 i = coreOfGroup s g % 1024 ∧ topoFact s g 9 i = coreOfGroup s g % 1024 / 64 * 16 + coreOfGroup s g % 32 / 2 ∧
    topoFact s g 12 i = s.lostd ∧ topoFact s g 13 i = 0x0101) ∧
  (∀ key w, 2 ^ 11 ≤ key → behaviour key w = 0) ∧
  behaviour 0x083 0 = 0x00010008 ∧ behaviour 0x083 5 = 0x7FC00000 ∧ behaviour 0x0FF 0 = 0

/-! ### The coin -/

/-- R333, R335, R340, R341, R343: outside deterministic scheduling the coin words do nothing. In a deterministic context `coinw` parks until the
coin comes, takes it, or raises cause 0x14 when it has passed; `coinp` sends it on: it passes every group that is at `rnd` or has exited, and
stands at the first other one or past the last group; `rnd` parks until the round closes, and the coin goes on in the same way. A group in a coin
wait goes on when the coin comes, and takes it. -/
def Obligations.CoinWordsTakeAndPassTheCoin : Prop :=
  (∀ s u g sm, Acts s u g → detOf s g = false → ∀ i ∈ [Instr.coinw sm, .coinp sm, .rnd sm], Becomes i s u (atPc g sm (g.pc + 4))) ∧
  (∀ s u g gr sm, Acts s u g → detOf s g = true → mget s.grids g.grid = some gr →
    let goesOn : State → Nat → Prop := fun t frm => ∃ gr', mget t.grids g.grid = some gr' ∧ frm ≤ gr'.coinPos ∧
      (gr.ctx = g.ctx → (∀ p, frm ≤ p → p < gr'.coinPos → coinPasses t g.grid gr' p = true) ∧
        (gr'.coinHeld = true ∨ gr'.size * gr'.ngrp ≤ gr'.coinPos ∨ coinPasses t g.grid gr' gr'.coinPos = false))
    let lets : State → Prop := fun t => goesOn t (gr.coinPos + 1) ∧ ∃ gr', mget t.grids g.grid = some gr' ∧ gr'.coinHeld = false
    (gr.coinPos < coinIdx s g → exec (.coinw sm) s = .next (setGroup s u { g with park := some .coinw })) ∧
    (gr.coinPos = coinIdx s g → ∃ t, exec (.coinw sm) s = .next t ∧ mget t.groups u = some (atPc g sm (g.pc + 4)) ∧ OthersSame s t u ∧ MemorySame s t ∧
      mget t.grids g.grid = some { gr with coinHeld := true }) ∧
    (coinIdx s g < gr.coinPos → Raises (.coinw sm) s u g 0x14) ∧
    (∃ t, exec (.coinp sm) s = .next t ∧ mget t.groups u = some (atPc g sm (g.pc + 4)) ∧ OthersSame s t u ∧ MemorySame s t ∧
      (gr.coinPos = coinIdx s g → lets t) ∧
      (gr.coinPos ≠ coinIdx s g → t.grids = s.grids)) ∧
    (∃ t, exec (.rnd sm) s = .next t ∧ mget t.groups u = some { g with park := some (.rnd sm) } ∧ OthersSame s t u ∧ MemorySame s t ∧
      (holdsCoin s g = true → lets t) ∧ (holdsCoin s g = false → goesOn t gr.coinPos))) ∧
  (∀ s grid gr pos, coinPasses s grid gr pos = true ↔ gr.retired.contains (pos / gr.ngrp) = true ∨
    ∃ b u g, (s.blocks.find? fun e => e.2.grid == grid && e.2.bidx == pos / gr.ngrp) = some b ∧ b.2.groups[pos % gr.ngrp]? = some u ∧
      mget s.groups u = some g ∧ (g.exited = true ∨ ∃ m, g.park = some (.rnd m))) ∧
  (∀ s u g gr b, mget s.groups u = some g → g.park = some .coinWait → mget s.grids g.grid = some gr → mget s.blocks g.block = some b →
    b.st = .running → gr.coinHeld = false → gr.coinPos = coinIdx s g →
    ∃ t, exec (.coinWaitResume u) s = .next t ∧ mget t.groups u = some { g with park := none } ∧ OthersSame s t u ∧ MemorySame s t ∧
      mget t.grids g.grid = some { gr with coinHeld := true })

/-! ### Engines -/

/-- R242-R246, R253, R259, R265, R267, R268: every command word checks its block, issues its command and gives its token, waits as the
seventeenth of its class, and raises its cause with nothing issued when a check fails. -/
def Obligations.CommandWordsIssueWithTheirToken : Prop :=
  (∀ sm arv xd xa, CommandWord (.cpy sm arv xd xa) sm .cpy (if arv then 8 else 5) xd xa fun s g => cpyCheck arv s g.block) ∧
  (∀ sm arv xd xa, CommandWord (.cpy2d sm arv xd xa) sm .cpy2d (if arv then 10 else 8) xd xa fun s g => cpy2dCheck arv s g.block) ∧
  (∀ sm scl arv xd xa, CommandWord (.gath sm scl arv xd xa) sm (.gath scl) ((if scl then 12 else 8) + if arv then 2 else 0) xd xa
    (gatherCheck true scl (gatherArv arv scl))) ∧
  (∀ sm scl arv xd xa, CommandWord (.scat sm scl arv xd xa) sm (.scat scl) ((if scl then 12 else 8) + if arv then 2 else 0) xd xa
    (gatherCheck false scl (gatherArv arv scl))) ∧
  (∀ sm arv xd xa, CommandWord (.cpyl sm arv xd xa) sm .cpyl (if arv then 8 else 5) xd xa (cpylCheck arv)) ∧
  (∀ sm arv xd xa, CommandWord (.fill sm arv xd xa) sm .fill (if arv then 6 else 4) xd xa fun s g => fillCheck arv s g.block) ∧
  (∀ sm bf op arv xd xa, CommandWord (.allred sm bf op arv xd xa) sm (.allred op bf) (if arv then 12 else 8) xd xa (collCheck (.allred op bf) arv)) ∧
  (∀ sm arv xd xa, CommandWord (.allgath sm arv xd xa) sm .allgath (if arv then 12 else 8) xd xa (collCheck .allgath arv)) ∧
  (∀ sm bf op arv xd xa, CommandWord (.redscat sm bf op arv xd xa) sm (.redscat op bf) (if arv then 12 else 8) xd xa (collCheck (.redscat op bf) arv)) ∧
  (∀ sm arv xd xa, CommandWord (.bcast sm arv xd xa) sm .bcast (if arv then 12 else 9) xd xa (collCheck .bcast arv)) ∧
  (∀ sm xd xa, CommandWord (.mxrel sm xd xa) sm .mxrel 1 xd xa fun s g p =>
    if ownEngine s g = false ∨ 16 ≤ prmW p 0 ∨ recordOf s (ownCluster s g) g.block (prmW p 0 % 16) = none then some 0x0B else none) ∧
  (∀ sm xd xa, CommandWord (.mxld sm xd xa) sm .mxld 6 xd xa mxldCheck) ∧
  (∀ sm xd xa, CommandWord (.mxmm sm xd xa) sm .mxmm 16 xd xa mxmmCheck)

/-- R263, R264, R276-R278: `mxres` reserves the record it describes at once, with a token that is complete from the start, or raises cause
0x0B. The first `mxmmg` of a gang opens a latch for the slots that `gang` lists and gives its token; a badly listed gang raises cause 0x0A, a
disabled engine 0x0B. -/
def Obligations.ReservationsAndGangsOpen : Prop :=
  ∀ s u g, Acts s u g → ∀ sm xd xa,
    let cl := ownCluster s g
    let tok : Word := BitVec.ofNat 32 (2 ^ 31 + nextToken g 2)
    let issued : Group → Prop := fun h =>
      h = { g with x := h.x, histX := h.histX, cnt := mset g.cnt 2 (nextToken g 2), pc := g.pc + 4, icnt := g.icnt + 1, replay := none, park := parkAfter sm h } ∧
      WritesLanes g h xd (full g) (fun _ => tok)
    (¬ Held g [xd, xa, xa + 1] → Raises (.mxres sm xd xa) s u g 0x03) ∧
    (Ready s g [xd, xa, xa + 1] → resRefused s g (blockOf s g xa 2) = true → Raises (.mxres sm xd xa) s u g 0x0B) ∧
    (Ready s g [xd, xa, xa + 1] → resRefused s g (blockOf s g xa 2) = false → Leads (.mxres sm xd xa) s fun t => ∃ h r,
      mget t.groups u = some h ∧ OthersSame s t u ∧ MemorySame s t ∧ issued h ∧ t.cmds = s.cmds ∧
      mget (clusterOf t cl).recs ((uni s g xa).toNat % 16) = some r ∧ r.block = g.block ∧ r.kb = (uni s g xa).toNat / 2 ^ 24 % 256 ∧
      r.closing = false ∧ r.weights = [] ∧ ∀ j, j ≠ (uni s g xa).toNat % 16 → mget (clusterOf t cl).recs j = mget (clusterOf s cl).recs j) ∧
    (let named := xd :: (List.range 16).map (xa + ·)
     (¬ Held g named → Raises (.mxmmg sm xd xa) s u g 0x03) ∧
     (Ready s g named → 16 ≤ classCount s u 2 → exec (.mxmmg sm xd xa) s = .next (setGroup s u { g with park := some (.cls 2 15) })) ∧
     (Ready s g named → classCount s u 2 < 16 → gangBad s g = true → Raises (.mxmmg sm xd xa) s u g 0x0A) ∧
     (Ready s g named → classCount s u 2 < 16 → gangBad s g = false → ownEngine s g = false → Raises (.mxmmg sm xd xa) s u g 0x0B) ∧
     (Ready s g named → classCount s u 2 < 16 → gangBad s g = false → ownEngine s g = true → findLatch s cl g = none →
       (clusterOf s cl).latches.length < 4 → Leads (.mxmmg sm xd xa) s fun t => ∃ h,
         mget t.groups u = some h ∧ OthersSame s t u ∧ MemorySame s t ∧ issued h ∧
         ∃ l ∈ (clusterOf t cl).latches, l.ctx = g.ctx ∧ l.slots = gangSlots g ∧ l.issues = [(clusterSlot s g, s.nextUid)] ∧ l.prm = blockOf s g xa 16) ∧
     (Ready s g named → classCount s u 2 < 16 → gangBad s g = false → ownEngine s g = true → findLatch s cl g = none →
       4 ≤ (clusterOf s cl).latches.length → exec (.mxmmg sm xd xa) s = .next (setGroup s u { g with park := some .latchRoom })))

/-- R249-R251, R254, R256: a group outside its handler takes the first engine cause due to it at an instruction boundary, once its register
results are written (that a cause waits for its
group in a list is this model's choice, log entry 37). A copy command without an
arrival that has moved its last byte completes: it is gone, and its group may see its writes. Before that a piece moves it on: all that goes to one
4 KiB of the destination, and for a `cpyl` a line of what its piece has read (that the lines of a piece land one by one is this model's choice, log
entry 16). The bytes of a piece: `cpy` and `cpyl` leave m[src + p] at dst + p, where every write of the source is visible to the
command, `fill` byte (dst + p) mod 4 of the pattern, and every other byte reads as before.
R260, R262, R267, R270-R274, R336: the issue of a collective that reaches its engine, no earlier one of its rank on the communicator being on the
way, takes its rank's round and raises SEQ by one; that a deterministic one raises it in its block's round buffer and reads it there is this
model's reading (log entry 54, DEDUCED). A gathered round gives each member its result, reductions by the fixed tree over the ranks, and that is
written to its destination. The matrix engine serves the
next ready slot: a release of a record frees it; a unit of `mxld` puts the next stored K block's rows of element codes and its scale into the
record, and nothing into memory; a unit of `mxmm` stores the elements of its tile, and only them, as FP32 in D, after the arrival on its empty-barrier
word when it is the last. A table whose indices do not ascend gives cause 0x0B with nothing written.
R83, R85-R87: a strip of A aligns to integers of its width; the K blocks of an element combine in ascending order, each with the exact sum of
its products; one NaN, infinity or scale of 0xFF in a block leaves the element the canonical NaN. -/
def Obligations.CommandsRunCompleteAndQueue : Prop :=
  ((∀ s u g e rest b, mget s.groups u = some g → g.causes = e :: rest → g.hstack = none → g.exited = false → g.replay = none → g.sup = false →
     g.words = [] → g.trapping = none → mget s.blocks g.block = some b → b.st = .running → (ctxOf s g.ctx).cst = 1 → Leads (.engineCause u) s fun t => ∃ h,
       mget t.groups u = some h ∧ OthersSame s t u ∧ h.causes = rest ∧ h.sup = true ∧ h.pc = Config.handlerEntry ∧ h.sepc = BitVec.ofNat 32 g.pc ∧
       h.stok = e.token ∧ h.scause = BitVec.ofNat 32 (e.cause + if e.own then 0 else 2 ^ 16)) ∧
   (∀ s id d g, mget s.cmds id = some d → d.node = none → d.cls = 0 → cmdRuns s d = true → copyTotal d ≤ d.prog → d.arv = none → d.grp ≠ 0 →
     mget s.groups d.grp = some g → Leads (.copyComplete id) s fun t =>
       mget t.cmds id = none ∧ (∀ j, j ≠ id → mget t.cmds j = mget s.cmds j) ∧ MemorySame s t ∧ OthersSame s t d.grp ∧
       mget t.groups d.grp = some { g with compl := g.compl ++ [(d.token, d.writes)] }) ∧
   (∀ s id d ms q s1 d1, mget s.cmds id = some d → d.kind ≠ .cpyl → d.cls = 0 → cmdRuns s d = true → d.prog < copyTotal d →
     nextMoves s id d = .ok (ms, q) → makeMoves s id d ms = .ok (s1, d1) →
       (Leads (.copyComplete id) s fun t => t.mem = s1.mem ∧ ∃ e, mget t.cmds id = some e ∧ e.prog = q) ∧
       (d.kind = .cpy → q = min (prmW d.prm 4) (d.prog + (4096 - ((cmdRng d (prmP d.prm 0)).start + d.prog) % 4096)))) ∧
   (∀ s id d us ud, MemoryCanonical s → mget s.cmds id = some d → cmdRuns s d = true → d.prog < copyTotal d →
     let locs : List EngUnit → List Nat := fun l => l.flatMap fun q => (List.range q.len).map (q.loc + ·)
     let clear : Prop := ∀ a ∈ locs us, ∀ e ∈ s.log, e.touches a 1 = true → e.knownAt (agent id 1) a = true
     let plain : Prop := (ctxOf s d.ctx).det = false ∧ ∀ g, mget s.groups d.grp = some g → detOf s g = false
     let src := cmdRng d (prmP d.prm 2)
     let dst := cmdRng d (prmP d.prm 0)
     let n := min (copyTotal d - d.prog) (4096 - (dst.start + d.prog) % 4096)
     let puts : State → List Byte → Prop := fun t bs =>
       (∀ k a, (locs ud)[k]? = some a → Memory.read t.mem a = bs.getD k 0) ∧ ∀ a, a ∉ locs ud → Memory.read t.mem a = Memory.read s.mem a
     (d.kind = .cpy → plain → clear → rngUnits s d.ctx src d.prog n 0 = .ok us → rngUnits s d.ctx dst d.prog n 1 = .ok ud → (locs ud).Nodup →
       Leads (.copyComplete id) s fun t => puts t ((locs us).map (Memory.read s.mem)) ∧ ∃ e, mget t.cmds id = some e ∧ e.prog = d.prog + n) ∧
     (d.kind = .fill → plain → rngUnits s d.ctx dst d.prog n 1 = .ok ud → (locs ud).Nodup →
       Leads (.copyComplete id) s fun t => (∃ e, mget t.cmds id = some e ∧ e.prog = d.prog + n) ∧
         puts t ((List.range n).map fun k => BitVec.ofNat 8 (prmW d.prm 2 / 256 ^ ((dst.start + d.prog + k) % 4)))) ∧
     (∀ ms q, d.kind = .cpyl → (d.data = [] → plain ∧ clear ∧ nextMoves s id d = .ok (ms, q) ∧ rngUnits s d.ctx src d.prog (q - d.prog) 0 = .ok us) →
       let data := if d.data = [] then (locs us).map (Memory.read s.mem) else d.data
       let line := min (copyTotal d - d.prog) (128 - (prmW d.prm 0 + d.prog) % 128)
       rngUnits s d.ctx (.loc d.block (prmW d.prm 0)) d.prog (data.take line).length 1 = .ok ud → (locs ud).Nodup →
       Leads (.cpylLineLand id) s fun t => puts t (data.take line) ∧
         ∃ e, mget t.cmds id = some e ∧ e.prog = d.prog + line ∧ e.data = data.drop line)) ∧
   ∀ s id d srcs, (s.cmds.map (·.1)).Nodup → mget s.cmds id = some d → d.cls = 1 → d.stalled = false → d.started = true → d.prog = 0 →
     gathered s d = true → (∀ m ∈ roundOf s d, cmdReady s m.2 = true) → roundAgrees (roundOf s d) = true →
     readSources s (roundRanks s d) (roundOf s d) = .ok srcs → Leads (.collectiveRound id) s fun t => MemorySame s t ∧
       ∀ m ∈ roundOf s d, ∃ e, mget t.cmds m.1 = some e ∧ e.prog = 1 ∧
         let elements : ColOp → Bool → Nat → List Byte := fun op bf i =>
           let f := if bf then bf16 else fp32
           let w := if bf then 2 else 4
           let two : Nat → Nat → Nat := fun a b => match op with
             | .sum => fAdd f .rne 0 32 a b | .min => fMinMax f false a b | .max => fMinMax f true a b
           (List.range (prmW m.2.prm 4)).flatMap fun j =>
             leBytes w ((tree two (fun k => (srcs[k]?).map fun b => leAt b ((i + j) * w) w) srcs.length 0).getD 0)
         e.data = match m.2.kind with
           | .allred op bf => elements op bf 0
           | .redscat op bf => elements op bf (prmW m.2.prm 5 * prmW m.2.prm 4)
           | .allgath => srcs.flatten
           | .bcast => srcs.getD (prmW m.2.prm 8) []
           | _ => []) ∧
  ((∀ s id d pa sa, MemoryCanonical s → mget s.cmds id = some d → d.cls = 1 → d.stalled = false → d.started = false → cmdRuns s d = true → collTurn s id d = true →
     resolve s d.ctx (prmP d.prm 6) 0 = .ok pa → resolve s d.ctx (prmP d.prm 6 + 8 + 8 * prmW d.prm 5) 1 = .ok sa →
     (ctxOf s d.ctx).det = false → (∀ g, mget s.groups d.grp = some g → g.ctx = d.ctx) →
     prmW d.prm 5 < leNat (Memory.readN s.mem pa 4) → Leads (.collectiveRound id) s fun t =>
       MemorySameOutside s t sa 4 ∧ MemoryHolds t sa (leBytes 4 ((leNat (Memory.readN s.mem sa 4) + 1) % 2 ^ 32)) ∧
       ∃ e, mget t.cmds id = some e ∧ e.started = true ∧ e.comm = pa ∧ e.seq = leNat (Memory.readN s.mem sa 4)) ∧
   (∀ s id d pa sa s1, mget s.cmds id = some d → d.cls = 1 → d.stalled = false → d.started = false → cmdRuns s d = true → collTurn s id d = true →
     resolve s d.ctx (prmP d.prm 6) 0 = .ok pa → resolve s d.ctx (prmP d.prm 6 + 8 + 8 * prmW d.prm 5) 1 = .ok sa →
     bufferedCmd s d = true → prmW d.prm 5 < commWord s d pa →
     bufferWord s d sa 4 ((bufferedOld s d sa 4 + 1) % 2 ^ 32) = .ok s1 → Leads (.collectiveRound id) s fun t =>
       MemorySame s t ∧ t.blocks = s1.blocks ∧ ∃ e, mget t.cmds id = some e ∧ e.started = true ∧ e.comm = pa ∧ e.seq = bufferedOld s d sa 4) ∧
   (∀ s id d s1 d1, mget s.cmds id = some d → d.cls = 1 → d.stalled = false → d.started = true → d.prog = 1 →
     engWrite s d (cmdRng d (prmP d.prm 0)) 0 d.data = .ok (s1, d1) → Leads (.collectiveRound id) s fun t =>
       t.mem = s1.mem ∧ ∃ e, mget t.cmds id = some e ∧ e.prog = 2 ∧ e.data = []) ∧
   ∀ s cl sl id d, nextSlot s cl = some (sl, id) → mget s.cmds id = some d →
     let s1 := turnTo s cl sl id d
     (∃ t, exec (.matrixUnit cl) s = .next t ∧ (clusterOf t cl).last = sl) ∧
     (d.kind = .mxrel → Leads (.matrixUnit cl) s fun t =>
       mget t.cmds id = none ∧ mget (clusterOf t cl).recs (prmW d.prm 0 % 16) = none ∧ MemorySame s t) ∧
     (d.kind = .mxld → ∀ r, clusterNum d.core = cl → mget (clusterOf s cl).recs (prmW d.prm 0) = some r → Leads (.matrixUnit cl) s fun t => MemorySame s t ∧
       (if r.kb ≤ d.prog + 1 then mget t.cmds id = none else ∃ e, mget t.cmds id = some e ∧ e.prog = d.prog + 1 ∧ e.started = true) ∧
       ∃ q, mget (clusterOf t cl).recs (prmW d.prm 0) = some q ∧ q = { r with weights := q.weights, scales := q.scales } ∧
         (∀ j, j < r.next → storedCol q d.prog j = (List.range (8 * keptOf r.sparse)).map fun i =>
           leAt (mxRead s1 id d (prmP d.prm 2) ((d.prog * (8 * keptOf r.sparse) + i) * prmW d.prm 1) (r.next * bBytes r.bfmt)) (j * bBytes r.bfmt) (bBytes r.bfmt)) ∧
         mget q.scales d.prog = some (leNat (mxRead s1 id d (prmP d.prm 4) d.prog 1)) ∧
         ∀ b, b ≠ d.prog → mget q.weights b = mget r.weights b ∧ mget q.scales b = mget r.scales b) ∧
     (d.kind = .mxmm → d.cls = 2 → ∀ r blk off, clusterNum d.core = cl →
       let x := mmArgs d.prm
       let table := if d.prog = 0 ∧ x.sparse ≠ 0 ∧ 0 < tileCount x then mxRead s1 id d x.idx 0 (idxBytes x) else d.data
       let d1 := { d with data := table }
       mget (clusterOf s cl).recs x.ridx = some r →
       (d.prog = 0 → 0 < tileCount x → tableOk_ x table = false → d.grp ≠ 0 → ∀ g, mget s.groups d.grp = some g → d.members = [] →
         Leads (.matrixUnit cl) s fun t => MemorySame s t ∧ mget t.cmds id = none ∧
           ∃ h, mget t.groups d.grp = some h ∧ h.causes = g.causes ++ [⟨0x0B, d.token, none, false, none, false⟩]) ∧
       (d.prog ≠ 0 ∨ tileCount x = 0 ∨ tableOk_ x table = true → cmdRng d x.d = .loc blk off → off % 4 = 0 → x.dstr % 4 = 0 →
         off + extent x.m x.dstr (4 * x.n) ≤ allocSize s blk → Leads (.matrixUnit cl) s fun t =>
           (if tileCount x ≤ d.prog + 1 then mget t.cmds id = none else ∃ e, mget t.cmds id = some e ∧ e.prog = d.prog + 1) ∧
           t.mem = storeAll (if tileCount x ≤ d.prog + 1 then emptyArrive s1 id d1 x else s1).mem
             ((if d.prog < tileCount x then tileResult s1 id d1 x r d.prog else []).map fun e => (localLoc blk (off + e.1), leBytes 4 e.2))))) ∧
  ((∀ wa l q, 2 ≤ wa → q ∈ (alignStrip wa l).1 → -(2 ^ (wa - 1) - 1) ≤ q ∧ q ≤ 2 ^ (wa - 1) - 1) ∧
   (∀ strips cols acc a uA pA sA ws uB pB sB, strips.length = cols.length → pA = false → pB = false → sA ≠ 255 → sB ≠ 255 →
     tileElement (strips ++ [(a, uA, pA, sA)]) (cols ++ [(ws, uB, pB, sB)]) acc =
       combineBlock (tileElement strips cols acc) ((ws.map fun w => a.getD w.1 0 * w.2).sum) uA uB sA sB false) ∧
   (∀ acc a uA pA sA ws uB pB sB strips cols, pA = true ∨ pB = true ∨ sA = 255 ∨ sB = 255 →
     tileElement ((a, uA, pA, sA) :: strips) ((ws, uB, pB, sB) :: cols) acc = 0x7FC00000))

/-! ### Blocks, grids and rounds -/

/-- R45, R46, R159, R201: a new block of a grid, the first of its waiting ones, goes to a core that has room for it: its groups start together at pc 0 with every lane active,
no path and no call open, the launch parameter in x2 and x3 of every lane and zero in every other register. Which free run of the core's lines it takes is this model's choice
(log entry 18). -/
def Obligations.BlockPlaceStartsItsGroups : Prop :=
  ∀ s grid core gr w bidx, mget s.grids grid = some gr → canPlace s grid core gr = true → earlierFits s grid gr = false →
    firstWaiting s grid gr = some (w, bidx, none) → Leads (.blockPlace grid core) s fun t => ∃ b gr',
      MemorySame s t ∧ mget t.blocks s.nextUid = some b ∧ b.core = core ∧ b.bidx = bidx ∧ b.grid = grid ∧ b.st = .running ∧ b.lmem = gr.lmem ∧
      freeBase s core gr.lmem = some b.base ∧ b.pend = [] ∧
      b.groups = (List.range gr.ngrp).map (s.nextUid + 1 + ·) ∧ mget t.grids grid = some gr' ∧ gr'.started = gr.started ++ [bidx] ∧
      ∀ i, i < gr.ngrp → ∃ q, mget t.groups (s.nextUid + 1 + i) = some q ∧ q.gidx = i ∧ q.gwid = gr.gwid ∧ q.block = s.nextUid ∧ q.pc = 0 ∧
        q.active = ones gr.gwid ∧ q.table = [] ∧ q.level = 0 ∧ q.park = none ∧ q.sup = false ∧
        ∀ r L, L < gr.gwid → laneNow q r L = if r = 2 then gr.param.setWidth 32 else if r = 3 then (gr.param >>> 32).setWidth 32 else 0

/-- R59, R65, R339, R313, R315: a phase that is next in its queue, or a saved one, resumes on a core: its groups go on at the word after their
`barph` with the carried state. A block whose groups have exited and whose commands have completed retires: it, its groups and its allocation
are gone, and what they and their commands wrote is released. A suspendable block of highest `bidx` is suspended while a block of its grid waits. A grid whose blocks have retired completes. -/
def Obligations.BlocksResumeRetireAndComplete : Prop :=
  (∀ s blk core b gr, mget s.blocks blk = some b → mget s.grids b.grid = some gr → inPartition s b.ctx core = true → (ctxOf s b.ctx).cst = 1 →
    (ctxOf s b.ctx).draining = false → gateLets s (dieOf core) blk = true → (b.record.map (·.group)).Nodup →
    (b.st = .queued ∧ nextPhase s b.core = some blk ∧ mayMove s blk b core = true ∧ fits s core b.grid gr (some blk) = true) ∨
      (b.st = .saved ∧ b.record ≠ [] ∧ boundSet s blk = [blk] ∧ mayReturn s b blk core gr = true) →
      Leads (.phaseResume blk core) s fun t => ∃ b', mget t.blocks blk = some b' ∧ b'.st = .running ∧ b'.core = core ∧ b'.record = [] ∧
        ∀ h ∈ b.record, ∀ g, mget s.groups h.group = some g → h.xreq = none → ∃ q, mget t.groups h.group = some q ∧ q.pc = h.pc ∧ q.k = h.k ∧
          q.flags = h.flags ∧ q.icnt = h.icnt ∧ q.active = ones gr.gwid ∧ q.table = [] ∧
          ((h.regs.map (·.1)).Nodup → ∀ e ∈ h.regs, mget q.x e.1 = some e.2)) ∧
  (∀ s blk b gr, mget s.blocks blk = some b → mget s.grids b.grid = some gr → canRetire s b blk = true → Leads (.blockRetire blk) s fun t =>
    mget t.blocks blk = none ∧ (∀ e ∈ t.groups, e.2.block ≠ blk) ∧ (∀ e ∈ s.groups, e.2.block ≠ blk → e ∈ t.groups) ∧
    (∃ gr', mget t.grids b.grid = some gr' ∧ gr'.retired = b.bidx :: gr.retired ∧
      mget gr'.rels b.bidx = some (blockDone s b)) ∧
    (∀ a, a < 2 ^ 20 → Memory.read t.mem (localLoc blk a) = 0) ∧ MemorySameOutside s t (localLoc blk 0) (2 ^ 20)) ∧
  (∀ s blk b gr, mget s.blocks blk = some b → mget s.grids b.grid = some gr → (ctxOf s b.ctx).det = true → suspendable s blk b = true →
    coinAtBlock gr b.bidx = false → waits s b.grid gr = true →
    (∀ e ∈ s.blocks, e.2.grid = b.grid → b.bidx < e.2.bidx → suspendable s e.1 e.2 = false) → (∀ c ∈ gridCores s gr, canPlace s b.grid c gr = false) →
      Leads (.blockSuspend blk) s fun t => MemorySame s t ∧ ∃ b', mget t.blocks blk = some b' ∧ b'.st = .suspended ∧ b'.core = b.core) ∧
  (∀ s grid gr, mget s.grids grid = some gr → gridDone s grid gr = true → (ctxOf s gr.ctx).cst = 1 → Leads (.gridComplete grid) s fun t =>
    mget t.grids grid = none ∧ (gr.event ≠ none → (ctxOf t gr.ctx).evRun = none) ∧ (gr.arv = none → MemorySame s t))

/-- R335, R338: the open round of a deterministic grid closes once every group waits for it: each buffered byte takes the value of its highest
writer, no other byte changes, the groups at `rnd` go on, and the next round opens with empty buffers; the round that every group has left is the last.
R238: the close is a release by every group and retired block of the grid, and an acquire by every group that goes on: what the round wrote, and what
its merge wrote, is visible to each. -/
def Obligations.RoundCloseMergesTheBuffers : Prop :=
  ∀ s grid gr, MemoryCanonical s → mget s.grids grid = some gr → roundCloses s grid gr = true → Leads (.roundClose grid) s fun t =>
    (∀ r ∈ mergeBytes (roundBytes s grid gr), Memory.read t.mem r.loc = r.val) ∧
    (∀ a, (∀ r ∈ roundBytes s grid gr, r.loc ≠ a) → Memory.read t.mem a = Memory.read s.mem a) ∧
    (∀ r ∈ roundBytes s grid gr, ∃ q ∈ mergeBytes (roundBytes s grid gr), q.loc = r.loc ∧ r.writer ≤ q.writer) ∧
    (∀ v q sm, mget s.groups v = some q → q.grid = grid → q.park = some (.rnd sm) → ∃ h, mget t.groups v = some h ∧
      h = { atPc { q with pfSnap := [], seen := union q.seen (q.compl.flatMap (·.2)), compl := [] } sm (q.pc + 4) with ldTime := h.ldTime }) ∧
    (∀ v q, mget s.groups v = some q → q.grid = grid → q.exited = false →
      (∀ w p, mget s.groups w = some p → p.grid = grid → SeesAll t (agent v 0) (visIds s (agent w 0))) ∧
      (∀ r ∈ gr.rels, SeesAll t (agent v 0) r.2) ∧ ∀ e ∈ t.log, (∀ x ∈ s.log, x.id ≠ e.id) → e.visibleTo (agent v 0) = true) ∧
    (∀ e ∈ t.blocks, e.2.grid = grid → e.2.rbuf = []) ∧
    ∃ gr', mget t.grids grid = some gr' ∧ gr'.round = gr.round + 1 ∧ gr'.coinHeld = false ∧ gr'.roundOld = [] ∧ gr'.oldBufs = [] ∧ gr'.closed = allExited s grid

/-! ### The panel -/

/-- R28-R31, R332: at a step boundary of a region its pending register writes take effect, the step is counted, the gate starts anew and asked-for
latches clear; an alarm sets with its latch and raises the power vector, its end starts the HOLD count, whose expiry ends the slowing; writes of
the power registers and of the interrupt registers land; a monitor clears. Each touches its own region or monitor alone.
R36-R39: power comes on: with a path from every core die in use to a host link the panel is ready, remembers its harvest log and the lost
dies, holds no context, grid, block, group or command, DRAM reads zero, `PANEL_STATUS` says so, and the harvest records it had to ignore are reported;
without one it stays in its stage. The ports of a die that failed read disabled. That the stages make one event is this model's choice
(log entry 25). -/
def Obligations.PowerEventsActAndPowerOnStarts : Prop :=
  (let others : State → State → Nat → Prop := fun s t n => ∀ m, m ≠ n → regionOf t m = regionOf s m
   let alone : State → State → Prop := fun s t => t = { s with regions := t.regions }
   (∀ s n cur, n < 16 → Leads (.powerStep n cur) s fun t => alone s t ∧ others s t n ∧
     let r := regionOf s n
     let q := regionOf t n
     q.cstep = r.pendCstep.getD r.cstep ∧ q.clk = r.pendClk.getD r.clk ∧ q.pendCstep = none ∧ q.pendClk = none ∧ q.steps = r.steps + 1 ∧
     q.current = cur ∧ q.admitted = 0 ∧ q.pendDroop = false ∧ q.alarm = r.alarm ∧ (q.latch = true ↔ r.latch = true ∧ (r.pendDroop = false ∨ r.alarm = true))) ∧
   (∀ s n, n < 16 →
     ((regionOf s n).alarm = false → Leads (.droopAlarm n) s fun t => others s t n ∧ (regionOf t n).alarm = true ∧ (regionOf t n).latch = true ∧
       t.msix = if s.irqPower.msb then s.msix ++ [s.irqPower.toNat % 2 ^ 11] else s.msix) ∧
     ((regionOf s n).alarm = true → exec (.droopAlarm n) s = .next s) ∧
     ((regionOf s n).alarm = true → Leads (.droopAlarmClear n) s fun t => alone s t ∧ others s t n ∧ (regionOf t n).alarm = false ∧
       (regionOf t n).latch = (regionOf s n).latch ∧ (regionOf t n).hold = (regionOf s n).clk.toNat / 2 ^ 8 % 256) ∧
     ((regionOf s n).alarm = false → Leads (.slowHoldExpire n) s fun t => alone s t ∧ others s t n ∧ (regionOf t n).hold = 0)) ∧
   (∀ s, Answers s →
     (∀ v, Leads (.pwrDroopWrite v) s fun t => alone s t ∧ ∀ m, m < 16 → regionOf t m =
       if bit v (16 + m) then { regionOf s m with pendDroop := true } else regionOf s m) ∧
     (∀ n v, n < 16 → Leads (.registerWrite (0x8000 + 4 * n) v) s fun t => alone s t ∧ others s t n ∧
       regionOf t n = { regionOf s n with pendCstep := some (BitVec.ofNat 32 v &&& 0xFFFF0FFF) }) ∧
     (∀ n v, n < 16 → Leads (.registerWrite (0x8040 + 4 * n) v) s fun t => alone s t ∧ others s t n ∧
       regionOf t n = { regionOf s n with pendClk := some (BitVec.ofNat 32 v &&& 0x0001FFFF) }) ∧
     (∀ die mon, die < 384 → mon < 16 → Leads (.monClear die mon) s fun t => t = { s with monitors := t.monitors } ∧
       monitorOf t (die * 16 + mon) = ⟨(monitorOf s (die * 16 + mon)).ctl, 0xFFFFFFFF, 0, List.replicate 32 0⟩ ∧
       ∀ m, m ≠ die * 16 + mon → monitorOf t m = monitorOf s m)) ∧
   (∀ s v, s.frozen = false →
     let irq : Word := BitVec.ofNat 32 v &&& 0x800007FF
     exec (.registerWrite 0x20 v) s = .next { s with irqReady := irq } ∧ exec (.registerWrite 0x24 v) s = .next { s with irqPower := irq } ∧
     exec (.registerWrite 0x28 v) s = .next { s with irqPgreq := irq } ∧ exec (.registerWrite 0x2C v) s = .next { s with irqLink := irq })) ∧
  (∀ s lost down,
     let gone := dedup (lost.filter fun d => decide (d < 384))
     let cut := down.flatMap fun x => downEnds (x / 4) (x % 4)
     (connected gone [] = true → connected gone cut = true → Leads (.powerOn lost down) s fun t =>
       t.ready = true ∧ t.stage = 7 ∧ t.frozen = false ∧ t.lostDies = gone ∧ t.lostd = min gone.length 255 ∧ t.harvest = s.harvest ∧
       t.ctxs = [] ∧ t.grids = [] ∧ t.blocks = [] ∧ t.groups = [] ∧ t.cmds = [] ∧ t.graphs = [] ∧ t.slices = [] ∧
       bar0Read t 0 = BitVec.ofNat 32 (min gone.length 255 * 2 ^ 16 + s.grade % 16 * 2 ^ 8 + 7 * 2 ^ 4 + 1) ∧ t.reports = s.harvest.filter harvestIgnored ∧
       (∀ l, linkThere l = true → linkDie l ∈ gone → linkStatus t l = 0x80000002) ∧
       ∀ a, a < 0x30000000000 → Memory.read t.mem a = 0) ∧
     (connected gone [] = false → Leads (.powerOn lost down) s fun t => t.ready = false ∧ t.stage = 2) ∧
     (connected gone [] = true → connected gone cut = false → Leads (.powerOn lost down) s fun t => t.ready = false ∧ t.stage = 3))

/-- R18, R20, R23-R26: a link takes its new state, with WIDTH and RATE zero unless it is up, and a change raises the link vector; the host reads it at the link's
offset. A flit with a
bad CRC or an unexpected sequence number does not move the receiver on, a good one does; one with a bad CRC is asked for again by its own sequence number.
After 16 replays of one flit a peer link is trained again; a link that comes up again sends every unacknowledged flit again, with fresh credits. The host
reads memory through BAR2, all ones where it may not, and what it writes there is stored; a write that meets a vault's frame is refused and counted
(R325, R329). R324: a mesh link that has retrained posts event 2 with its edge, a peer link that has trained again posts it with 0x100 and its number. That the ports of an offlined die read STATE 2 with REASON 2, that a
link trained again keeps its sequence numbers, and that a mesh link's retraining comes as a change of its state, are this model's choices (log entry 57).
That a poisoned byte reads 0xFF there is this model's choice (log entry 35). -/
def Obligations.LinksAndBar2Answer : Prop :=
  let told : State → State → Nat → Nat → Prop := fun s t die arg0 =>
    ∀ c x img k im, mget s.ctxs c = some x → x.cst ≠ 0 → x.evk = some (img, k) → x.images[img]? = some im → k < im.kernels.length → x.events.length < 256 →
      ∃ q m, (ctxOf t c).events = x.events ++ [eventRecord 2 die arg0 0 q m]
  (∀ s l st width rate reason cap, linkThere l = true → st < 4 → Leads (.linkStateChange l st width rate reason cap) s fun t =>
    let dead := s.lostDies.contains (linkDie l) || s.offDies.contains (linkDie l)
    let new := if dead then 2 else st
    linkStatus t l = BitVec.ofNat 32 (if dead then 2 * 2 ^ 30 + 2 else st * 2 ^ 30 + (if st = 1 then width % 256 * 2 ^ 16 + rate % 256 * 2 ^ 8 else 0) + reason % 256) ∧
    (∀ m, m ≠ l → linkStatus t m = linkStatus s m) ∧ MemorySame s t ∧ t.groups = s.groups ∧
    t.msix = if (linkStatus s l).toNat / 2 ^ 30 ≠ new ∧ s.irqLink.msb = true then s.msix ++ [s.irqLink.toNat % 2 ^ 11] else s.msix) ∧
  (∀ s port flit p, (linkStatus s (.peer port)).toNat / 2 ^ 30 = 1 → flit.length = 256 → mget s.peers port = some p →
    Leads (.peerFlitReceive port flit) s fun t => ∃ q, mget t.peers port = some q ∧ MemorySame s t ∧ t.groups = s.groups ∧
      q.recvSeq = if leAt (asBytes flit) 248 4 = crc32 (flit.take 248) ∧ leAt (asBytes flit) 252 2 % 4096 = p.recvSeq then (p.recvSeq + 1) % 4096 else p.recvSeq) ∧
  (∀ s port flit p, (linkStatus s (.peer port)).toNat / 2 ^ 30 = 1 → flit.length = 256 → mget s.peers port = some p → p.window.length < 2048 →
    leAt (asBytes flit) 248 4 ≠ crc32 (flit.take 248) → Leads (.peerFlitReceive port flit) s fun t => ∃ q f, mget t.peers port = some q ∧
      q.out = p.out ++ [f] ∧ leAt (asBytes f) 4 1 = 4 ∧ leAt (asBytes f) 16 2 = 2 ^ 15 + leAt (asBytes flit) 252 2 % 4096) ∧
  (∀ s port p sq, mget s.peers port = some p → (s.ctxs.map (·.1)).Nodup → 16 ≤ mgetD p.replays sq 0 → (linkStatus s (.peer port)).toNat / 2 ^ 30 = 1 →
    Leads (.peerLinkRetrain port) s fun t => told s t (linkDie (.peer port)) (0x100 + port) ∧ ∃ q, mget t.peers port = some q ∧
      q.credits = [256, 256, 256, 256] ∧ q.replays = [] ∧ q.window = p.window ∧ q.out = p.out ++ p.window.map (·.2) ∧ MemorySame s t) ∧
  (∀ s k p width rate reason cap, k < 32 → s.lostDies.contains (linkDie (.peer k)) = false → s.offDies.contains (linkDie (.peer k)) = false →
    (linkStatus s (.peer k)).toNat / 2 ^ 30 ≠ 1 → mget s.peers k = some p → (s.ctxs.map (·.1)).Nodup →
    Leads (.linkStateChange (.peer k) 1 width rate reason cap) s fun t => told s t (linkDie (.peer k)) (0x100 + k) ∧
      ∃ q, mget t.peers k = some q ∧ q.credits = [256, 256, 256, 256] ∧ q.window = p.window ∧ q.sendSeq = p.sendSeq ∧ q.recvSeq = p.recvSeq ∧
        q.out = p.out ++ p.window.map (·.2)) ∧
  (∀ s d e width rate reason cap, meshUp s d e = true → (s.ctxs.map (·.1)).Nodup → Leads (.linkStateChange (.mesh d e) 1 width rate reason cap) s fun t =>
    MemorySame s t ∧ t.groups = s.groups ∧ t.links = s.links ∧ t.msix = s.msix ∧ told s t d e) ∧
  (∀ s off l, linkAt off = some l → bar0Read s off = linkStatus s l) ∧
  (∀ s off len, Leads (.bar2Read off len) s fun t => t = { s with hostData := t.hostData } ∧ t.hostData.length = len ∧
    ∀ i, i < len → t.hostData.getD i 0 =
      match bar2Addr s (off + i) with
      | some pa => if s.ready = true ∧ s.frozen = false ∧ vaultFrame s pa none = false ∧ poisoned s pa = false then Memory.read s.mem pa else 0xFF
      | none => 0xFF) ∧
  (∀ s off bytes, Answers s → MemoryCanonical s → vaultResident s = false → Leads (.bar2Write off bytes) s fun t =>
    (∀ i pa, i < bytes.length → bar2Addr s (off + i) = some pa → poisoned s pa = false → Memory.read t.mem pa = BitVec.ofNat 8 (bytes.getD i 0)) ∧
    ∀ a, (∀ i, i < bytes.length → bar2Addr s (off + i) ≠ some a) → Memory.read t.mem a = Memory.read s.mem a) ∧
  (∀ s off b pa, Answers s → bar2Addr s off = some pa → vaultFrame s pa none = true → Leads (.bar2Write off [b]) s fun t =>
    MemorySame s t ∧ t.secRefused = min 0xFFFF (s.secRefused + 1))

/-! ### Contexts -/

/-- R215, R309: a write of CTX_CREATE begins a creation, or waits for the one in progress. At its end the descriptor is read and checked: the
context runs with the next generation and what its descriptor says, or nothing changes but the status with its reason.
R215, R220, R221: an invalidation raises the context's generation, leaves no translation of it in any TLB, and every access made through one has
performed, so that it does not end while a store of the context waits in a round buffer; a page request goes to the host
with its vector; the host's answer to a live pending request is stored in its slot, any other is counted as stale. -/
def Obligations.ContextsAreCreatedAndRequestsReachTheHost : Prop :=
  ((∀ s v, Answers s →
     (s.creating = none → exec (.ctxCreate v) s = .next { s with creating := some v, ctxCreate := BitVec.ofNat 32 (2 ^ 30 + v % 64 * 2 ^ 8) }) ∧
     (s.creating ≠ none → exec (.ctxCreate v) s = .next { s with createHeld := s.createHeld ++ [v] })) ∧
   (∀ s v, s.creating = some v →
     let c := v % 64
     let b := Memory.readN s.mem (v / 2 ^ 6 % 2 ^ 46 * 64) 256
     let r := createRefusal s v b
     Leads .contextCreationEnd s fun t => MemorySame s t ∧ t.groups = s.groups ∧ (∀ d, d ≠ c → ctxOf t d = ctxOf s d) ∧
       (s.createHeld = [] → t.creating = none ∧ t.ctxCreate = BitVec.ofNat 32 ((if r = 0 then 2 else 3) * 2 ^ 30 + c * 2 ^ 8 + r)) ∧
       (∀ n l, s.createHeld = n :: l → t.creating = some n ∧ t.createHeld = l) ∧
       (r ≠ 0 → t.ctxs = s.ctxs) ∧
       (r = 0 → (ctxOf t c).cst = 1 ∧ (ctxOf t c).cause = 0 ∧ (ctxOf t c).cgen = (ctxOf s c).cgen + 1 ∧ (ctxOf t c).det = bit (leAt b 0 4) 0 ∧
         (ctxOf t c).vault = bit (leAt b 0 4) 1 ∧ (ctxOf t c).rbufg = (if leAt b 4 4 = 0 then 4096 else leAt b 4 4) ∧
         (ctxOf t c).seed.toNat = leAt b 8 8 % 2 ^ 64 ∧ (ctxOf t c).ptroot = leAt b 16 8 ∧ (ctxOf t c).epq = leAt b 44 4 ∧
         (ctxOf t c).part = ((List.range 192).filter (bit (leAt b 80 24))).map coreDie ∧ (ctxOf t c).images = [] ∧ (ctxOf t c).binds = [] ∧
         (ctxOf t c).esc = EscrowCfg.init))) ∧
  ((∀ s v, Answers s →
     (s.xlatInv.msb = false → exec (.xlatInv v) s = .next { s with xlatInv := BitVec.ofNat 32 (2 ^ 31 + v % 64) }) ∧
     (s.xlatInv.msb = true → exec (.xlatInv v) s = .next { s with xlatHeld := s.xlatHeld ++ [v % 64] })) ∧
   (∀ s, (∃ e ∈ s.blocks, e.2.ctx = s.xlatInv.toNat % 64 ∧ e.2.rbuf ≠ []) ∨ (∃ e ∈ s.grids, e.2.ctx = s.xlatInv.toNat % 64 ∧ e.2.oldBufs ≠ []) →
     exec .xlatInvComplete s = .next s) ∧
   (∀ s, s.xlatInv.msb = true → (∀ e ∈ s.blocks, e.2.ctx = s.xlatInv.toNat % 64 → e.2.rbuf = []) →
     (∀ e ∈ s.grids, e.2.ctx = s.xlatInv.toNat % 64 → e.2.oldBufs = []) → Leads .xlatInvComplete s fun t =>
     let c := s.xlatInv.toNat % 64
     MemorySame s t ∧ t.groups = s.groups ∧
     ((ctxOf s c).cst ≠ 0 → (ctxOf t c).xgen = ((ctxOf s c).xgen + 1) % 2 ^ 32 ∧ (ctxOf t c).pages = [] ∧ (∀ k ∈ t.cores, ∀ e ∈ k.2.tlb, e.ctx ≠ c) ∧
       ∀ e ∈ t.log, e.ctx = c → e.va ≠ none → e.perf ≠ none) ∧
     (s.xlatHeld = [] → t.xlatInv.msb = false) ∧ (∀ n l, s.xlatHeld = n :: l → n < 64 → t.xlatInv = BitVec.ofNat 32 (2 ^ 31 + n) ∧ t.xlatHeld = l)) ∧
   (∀ s c slot rest, (ctxOf s c).forward = slot :: rest → Leads (.pageRequestForward c) s fun t =>
     (ctxOf t c).forward = rest ∧ MemorySame s t ∧ t.msix = if s.irqPgreq.msb then s.msix ++ [s.irqPgreq.toNat % 2 ^ 11] else s.msix) ∧
   (∀ s v, Answers s → MemoryCanonical s →
     let c := v / 2 ^ 10 % 2 ^ 6
     let reqid := v / 2 ^ 16 % 2 ^ 16
     let slot := (ctxOf s c).rqtab.toNat + 32 * (reqid % 256)
     let live := ((ctxOf s c).cst = 1 ∨ (ctxOf s c).cst = 2) ∧ (ctxOf s c).cgen.toNat = v / 2 ^ 32 % 2 ^ 32 ∧ ctxField s c (slot + 16) 2 = some reqid ∧
       ctxField s c (slot + 20) 4 = some 0
     (∀ pa, live → resolve s c (slot + 20) 1 = .ok pa → Leads (.pgAnswer v) s fun t =>
       MemoryHolds t pa (leBytes 4 (if v % 256 = 0 then 1 else 2)) ∧ MemorySameOutside s t pa 4 ∧ t.pgStale = s.pgStale ∧ t.pgAnswer = BitVec.ofNat 64 v &&& ~~~0x300) ∧
     (¬ live → exec (.pgAnswer v) s = .next { s with pgAnswer := BitVec.ofNat 64 v &&& ~~~0x300, pgStale := min 0xFFFFFFFF (s.pgStale + 1) })) ∧
   (∀ s, Answers s → exec .pgStaleClear s = .next { s with pgStale := 0 }))

/-- R308, R310-R313, R322: the host's control of a context: DBG, the kill, the destruction, the resumption from `brk`, pre-emption and its end,
which waits for the retirement of a unit that the context could use; one write of CTX_CTL orders DBG, DESTROY, KILL, PREEMPT and RESUME. A drain
that can end saves every block of the context, and STATE reads 2. A kill leaves no group, block, grid or command of the context; a
destruction frees its slot and keeps its generation. -/
def Obligations.ContextControlActs : Prop :=
  (∀ s c, Answers s →
    (∀ on, c < 64 → ¬ (on = true ∧ (ctxOf s c).vault = true) → Leads (.ctxDbg c on) s fun t =>
      t = { s with ctxs := t.ctxs } ∧ (∀ d, d ≠ c → ctxOf t d = ctxOf s d) ∧ ctxOf t c = { ctxOf s c with dbg := on }) ∧
    ((ctxOf s c).vault = true → exec (.ctxDbg c true) s = .next s) ∧
    ((ctxOf s c).cst = 1 ∨ (ctxOf s c).cst = 2 → Leads (.ctxKill c) s fun t => (ctxOf t c).cst = 3 ∧ (ctxOf t c).cause = 0 ∧ MemorySame s t ∧
      (∀ e ∈ t.groups, e.2.ctx ≠ c) ∧ (∀ e ∈ t.blocks, e.2.ctx ≠ c) ∧ (∀ e ∈ t.grids, e.2.ctx ≠ c) ∧ (∀ e ∈ t.cmds, e.2.ctx ≠ c) ∧
      ∀ d, d ≠ c → ctxOf t d = ctxOf s d) ∧
    ((ctxOf s c).cst = 1 ∨ (ctxOf s c).cst = 2 → Leads (.ctxDestroy c) s fun t => (ctxOf t c).cst = 0 ∧ (ctxOf t c).cgen = (ctxOf s c).cgen ∧
      (∀ e ∈ t.groups, e.2.ctx ≠ c) ∧ (∀ e ∈ t.grids, e.2.ctx ≠ c) ∧ (∀ e ∈ t.graphs, e.2.ctx ≠ c) ∧ (∀ e ∈ t.posts, e.2.ctx ≠ c)) ∧
    ((ctxOf s c).cst = 1 → Leads (.ctxPreempt c) s fun t => t = { s with ctxs := t.ctxs } ∧ ctxOf t c = { ctxOf s c with draining := true }) ∧
    ((ctxOf s c).cst = 2 → s.marked = [] → Leads (.ctxUnpreempt c) s fun t =>
      t = { s with ctxs := t.ctxs } ∧ ctxOf t c = { ctxOf s c with cst := 1, resuming := false }) ∧
    ((ctxOf s c).cst = 2 → (∃ m ∈ s.marked, couldUse s (m.1, m.2.1, m.2.2.1) c = true) → (∀ m ∈ s.marked, drainedFor s (m.1, m.2.1, m.2.2.1) = false) →
      Leads (.ctxUnpreempt c) s fun t => t = { s with ctxs := t.ctxs } ∧ ctxOf t c = { ctxOf s c with resuming := true }) ∧
    (∀ v, c < 64 → let s1 := ctxDbg s c (bit v 7)
      exec (.registerWrite (0x2000 + 4 * c) v) s = .next
        (if bit v 3 then ctxDestroy s1 c else if bit v 2 then ctxKill s1 c
         else let s2 := if bit v 0 then (if (ctxOf s1 c).cst = 2 then ctxUnpreempt s1 c else startDrain s1 c) else s1
           if bit v 1 then ctxResume s2 c else s2)) ∧
    (∀ u g k, (s.groups.map (·.1)).Nodup → mget s.groups u = some g → g.ctx = c → g.park = some .brk → g.hstack = some k → g.trapCmd = none → g.halted = false →
      Leads (.ctxResume c) s fun t => ∃ h, mget t.groups u = some h ∧ h.pc = (g.sepc + 4).toNat ∧ h.sup = false ∧ h.park = k.park ∧ h.k = k.k ∧ h.hstack = none)) ∧
  (∀ s c, (ctxOf s c).cst = 1 → Leads (.schedulerDrain c) s fun t => t = { s with ctxs := t.ctxs } ∧ ctxOf t c = { ctxOf s c with draining := true }) ∧
  (∀ s c, (ctxOf s c).cst = 1 → (ctxOf s c).draining = true → drained s c = true → Leads (.drainComplete c) s fun t =>
    (ctxOf t c).cst = 2 ∧ (ctxOf t c).draining = false ∧ MemorySame s t ∧
    ∀ blk b, mget t.blocks blk = some b → b.ctx = c → b.st = .saved ∨ b.st = .suspended)

/-- R279, R317, R318, R324, R327, R301, R385: an image that passes the loader's checks, its runs of bytes apart from each other and from those of
earlier images, becomes the context's next image (its number: log entry 46), a refused one changes
nothing; an import begins and ends with its status (the value of a refused one is this model's choice, log entry 28), and what it opened stands in the
vault's bytes; a checkpoint drains every running context and writes its header with the magic number (how its contents are kept is this model's choice, log entry 39), the posts on their way among its contents; a
restore brings the contexts of the table back pre-empted, with those posts; the oldest event record leaves its queue
for its event task, or is dropped where the context has no event kernel. An event task is a block of one 8-lane group of the event kernel, in
supervisor mode, with x2 and x3 of every lane on the copy of the record; that the copy stands in local memory behind the kernel's allocation, and that
its start waits for no launch offset, are this model's choices (log entries 38, 45). -/
def Obligations.FirmwareServicesRun : Prop :=
  (∀ s c bytes bases syms l, (ctxOf s c).cst = 1 → (ctxOf s c).images.length < 65536 →
    readImage (asBytes bytes) (bases.drop 4) (symValues syms) (ctxOf s c).images.length = some l →
    let runs := imageRuns (asBytes bytes) bases l.kernels
    (∀ i, i < 3 → baseOk (sectionOf (asBytes bytes) i) (bases.getD i 0) = true) → bases.getD 3 0 % 8 = 0 → (∀ r ∈ codeRuns l.kernels, r.1 % 4 = 0) →
    (∀ r ∈ runs, runMapped s c r.1 r.2 = true) →
    (apart (runs ++ (ctxOf s c).images.flatMap (·.runs)) = true → Leads (.imageLoad c bytes bases syms) s fun t =>
      (ctxOf t c).images = (ctxOf s c).images ++ [⟨l.kernels, symExports syms, runs⟩] ∧ ∀ d, d ≠ c → ctxOf t d = ctxOf s d) ∧
    (apart (runs ++ (ctxOf s c).images.flatMap (·.runs)) = false → exec (.imageLoad c bytes bases syms) s = .next s)) ∧
  (∀ s c bytes bases syms, headerOk (asBytes bytes) = false → exec (.imageLoad c bytes bases syms) s = .next s) ∧
  (∀ s v, Answers s → s.importing = none → exec (.vaultImport v) s = .next { s with importing := some v, importStat := 0 }) ∧
  (∀ s v, s.importing = some v → s.importHeld = [] → Leads .importEnd s fun t => t.importing = none ∧
    t.importStat = (if importOne s v = none then 0xC0000000 else 0x80000000) ∧ (importOne s v = none → MemorySame s t) ∧
    ∀ t1, importOne s v = some t1 → t.mem = t1.mem ∧
      let f (o n : Nat) : Nat := leAt (Memory.readN s.mem v 64) o n
      let bytes (a n : Nat) : List Nat := (Memory.readN s.mem a n).map (·.toNat)
      let x := ctxOf s (f 0 2)
      x.vault = true ∧ x.keys = true ∧ (x.cst = 1 ∨ x.cst = 2) ∧ v % 64 = 0 ∧ 17 ≤ f 4 4 ∧
      ∃ plain, Config.importOpen (f 0 2 * 2 ^ 32 + x.cgen.toNat) (bytes (f 8 8) 1088) ((List.range 12).map fun i => f (16 + i) 1) (bytes (f 32 8) (f 4 4)) = some plain ∧
        t1 = loadBytes s (f 0 2) (f 40 8) ((List.range (f 4 4 - 16)).map fun i => BitVec.ofNat 8 (plain.getD i 0))) ∧
  (∀ s, Answers s → ckptRunning s = false →
    (cxlRange s s.ckptBase.toNat (ckptTotal s) = true → Leads .ckptStart s fun t => ckptRunning t = true ∧ t.ckptBusy = some false ∧ MemorySame s t ∧
      ∀ c, (ctxOf s c).cst = 1 → (ctxOf t c).draining = true) ∧
    (cxlRange s s.ckptBase.toNat (ckptTotal s) = false → exec .ckptStart s = .next { s with ckptCtl := 0x40000010 }) ∧
    (∀ r, restoreRefusal s = r → r ≠ 0 → exec .ckptRestore s = .next { s with ckptCtl := BitVec.ofNat 32 (2 ^ 30 + r * 16) }) ∧
    (restoreRefusal s = 0 → Leads .ckptRestore s fun t => ckptRunning t = true ∧ t.ckptBusy = some true ∧
      (∀ e ∈ tableCtxs s, (ctxOf t e.1).cst = 2 ∧ (ctxOf t e.1).draining = false) ∧
      ∀ k e, heldCkpt s = some k → e ∈ k.posts → mget s.posts e.1 = none → e ∈ t.posts)) ∧
  (∀ s, s.ckptBusy = some true → exec .ckptDone s = .next { s with ckptCtl := 0, ckptBusy := none }) ∧
  (∀ s, MemoryCanonical s → s.ckptBusy = some false → (∀ c ∈ residents s, (ctxOf s c).cst ≠ 1) → cxlRange s s.ckptBase.toNat (ckptTotal s) = true →
    Leads .ckptDone s fun t => t.ckptCtl = 0 ∧ t.ckptBusy = none ∧ MemoryHolds t s.ckptBase.toNat (leBytes 4 0x4B435A4C) ∧
      ∃ k ∈ t.ckpts, (k.ctxs = (residents s).map fun c => (c, ctxOf s c)) ∧ k.posts = s.posts.filter fun e => (residents s).contains e.2.ctx) ∧
  (∀ s c rec rest t, (ctxOf s c).events = rec :: rest → eventTask s c = some t → exec (.eventTask c) s = .next t ∧
    ∃ l, (ctxOf t c).events = rest ++ l) ∧
  (∀ s c rec rest img k kern core, MemoryCanonical s → (ctxOf s c).events = rec :: rest → (ctxOf s c).cst = 1 → (ctxOf s c).draining = false →
    (ctxOf s c).evRun = none → (ctxOf s c).det = false ∨ (ctxOf s c).evDue ≠ 0 → (ctxOf s c).evk = some (img, k) → kernelOf s c img k = some kern →
    runnable kern = true → liveGrids s c < 4096 → gridBefore s s.nextUid = false → firingBefore s s.nextUid = false → (∀ e ∈ s.blocks, e.2.grid ≠ s.nextUid) →
    let off := min ((kern.lmem + 127) / 128 * 128) 360320
    let n := newGrid (modCtx s c fun x => { x with events := rest, evDue := x.evDue - 1 }) c (eventArgs img k (off + 128)) 0 0 []
    eventCore n.2.2 n.1 { n.2.1 with event := some rec } = some core →
    Leads (.eventTask c) s fun t => (ctxOf t c).events = rest ∧ (ctxOf t c).evRun = some s.nextUid ∧
      (∃ gr, mget t.grids s.nextUid = some gr ∧ gr.event = some rec ∧ gr.img = img ∧ gr.kern = k ∧ gr.ctx = c) ∧
      ∃ blk b u g, mget t.blocks blk = some b ∧ b.grid = s.nextUid ∧ b.ctx = c ∧ b.core = core ∧ b.st = .running ∧ b.lmem = off + 128 ∧ b.groups = [u] ∧
        mget t.groups u = some g ∧ g.gwid = 8 ∧ g.sup = true ∧ g.pc = 0 ∧ g.active = ones 8 ∧
        MemoryHolds t (localLoc blk off) (asBytes rec) ∧ MemorySameOutside s t (localLoc blk off) rec.length ∧
        let a := 0xFFFFFFFFFFE00000 + coreNum core * 2 ^ 19 + off
        ∀ L, L < 8 → laneNow g 2 L = BitVec.ofNat 32 a ∧ laneNow g 3 L = BitVec.ofNat 32 (a / 2 ^ 32)) ∧
  (∀ s c rec rest, (ctxOf s c).events = rec :: rest → (ctxOf s c).cst = 1 → (ctxOf s c).draining = false → (ctxOf s c).evRun = none →
    (ctxOf s c).det = false → (ctxOf s c).evk = none → Leads (.eventTask c) s fun t => (ctxOf t c).events = rest ∧ (ctxOf t c).drops = (ctxOf s c).drops + 1)

/-! ### Fault domains, security, the Mint -/

/-- R36, R320, R322, R323: a lost die is recorded for good, and its escrow slice is lost; offlining a memory die clears W in every entry of every
page of a resident context with a byte there, and remembers those that had it; no other byte of memory changes; a die that may not go is refused; an evacuation ends with the die offline, or deferred (a die lost meanwhile ends deferred and degraded: this
model's choice, log entry 51; so is the refusal of a number that names no die, log entry 28); the THRESH-th corrected error of a unit within the
window marks it, with the count of its errors there, and an earlier one or one whose last THRESH errors span more than the window does not; a marked unit that nobody could use any more is retired with a record of 16 bytes. -/
def Obligations.DiesAreLostOfflinedAndHarvested : Prop :=
  (∀ s d, s.ready = true → s.frozen = false → d < 384 →
    (d ∈ s.lostDies → exec (.dieLoss d) s = .next s) ∧
    (d ∉ s.lostDies → Leads (.dieLoss d) s fun t => d ∈ t.lostDies ∧ (∀ e ∈ s.lostDies, e ∈ t.lostDies) ∧ t.lostd = min 255 (s.lostd + 1) ∧
      (isMemDie d = true → mget t.slices (memIndex d) = none) ∧ MemorySame s t)) ∧
  (∀ s v, Answers s → evacuating s = false →
    let d := v % 512
    (isMemDie d = false ∨ d ∈ s.lostDies ∨ d = 168 ∨ d = 215 → exec (.dieOffline v) s = .next { s with offCtl := BitVec.ofNat 32 (4 * 2 ^ 28 + d) }) ∧
    (MemoryCanonical s → (s.ctxs.map (·.1)).Nodup → isMemDie d = true → d ∉ s.lostDies → d ≠ 168 → d ≠ 215 → Leads (.dieOffline v) s fun t =>
      t.offCtl = BitVec.ofNat 32 (2 ^ 28 + d) ∧
      (∀ c ∈ residents s, ∀ e ∈ mappedPages s c, (∃ r ∈ e.2.runs, ∃ x, r.1 ≤ x ∧ x < r.1 + r.2 ∧ x < dramEnd ∧ homeDie x = d) →
        ∀ a ∈ entryAddrs e, entryW t a = false ∧ (entryW s a = true → a ∈ t.evac)) ∧
      (∀ a ∈ t.evac, entryW s a = true ∧ entryW t a = false) ∧
      ∀ b, (∀ a ∈ t.evac, b ≠ a + 7) → Memory.read t.mem b = Memory.read s.mem b)) ∧
  (∀ s v, Answers s → evacuating s = false → 384 ≤ v % 512 → exec (.dieOffline v) s = .next { s with offCtl := BitVec.ofNat 32 (4 * 2 ^ 28 + v % 512) }) ∧
  (∀ s v, Answers s → evacuating s = true → exec (.dieOffline v) s = .next s) ∧
  (∀ s, evacuating s = true →
    let d := s.offCtl.toNat % 512
    Leads .offlineDone s fun t => t.evac = [] ∧ ((t.offCtl = BitVec.ofNat 32 (2 * 2 ^ 28 + d) ∧ d ∈ t.offDies) ∨
      (t.offCtl = BitVec.ofNat 32 (3 * 2 ^ 28 + d) ∧ d ∈ t.degraded)) ∧ (d ∈ s.lostDies → d ∈ t.degraded)) ∧
  (∀ s die kind unit cycle, s.ready = true → s.frozen = false → s.harvCtl.msb = true → unitThere die kind unit = true →
    Leads (.correctedError die kind unit cycle) s fun t => t = { s with errors := t.errors, marked := t.marked } ∧
      t.errors = (die, kind, unit, cycle) :: s.errors ∧
      let thresh := max 1 (s.harvCtl.toNat / 2 ^ 16 % 256)
      let window := 2 ^ min (s.harvCtl.toNat % 64) 40
      let past := errorsOf s (die, kind, unit)
      let others := past.take (thresh - 1)
      (others.length + 1 = thresh → (∀ c ∈ others, cycle - c ≤ window) → (∃ n, (die, kind, unit, n) ∈ t.marked) ∧
        ((∀ m ∈ s.marked, (m.1, m.2.1, m.2.2.1) ≠ (die, kind, unit)) →
          t.marked = s.marked ++ [(die, kind, unit, ((cycle :: past).filter fun c => decide (cycle - c ≤ window)).length)])) ∧
      (others.length + 1 < thresh ∨ (∃ c ∈ others, window < cycle - c) → t.marked = s.marked)) ∧
  (∀ s die kind unit n, (die, kind, unit, n) ∈ s.marked → drainedFor s (die, kind, unit) = true → Leads (.harvestRetire die kind unit) s fun t =>
    (∀ m, (die, kind, unit, m) ∉ t.marked) ∧ (kind = 0 → (die, unit) ∈ t.retiredCores) ∧
    (s.harvest.length < 4096 → ∃ r, t.harvest = s.harvest ++ [r] ∧ r.length = 16) ∧ (4096 ≤ s.harvest.length → t.harvest = s.harvest) ∧ MemorySame s t)

/-- R294, R295, R329-R331: an alarm sets its latch, and by policy erases the keys of every live vault and kills it with cause 0x16; its latch
clears once its source has ended; the freeze erases keys and sets the freeze. A Mint trigger opens a building entry that its kernel waits for,
a failed build fails the entry, and one that R296 allows is installed in an empty slot of the kernel (the lowest: this model's choice, log entry 63), and
ENTRY names it, with a request to every group that
runs the portable version, in a deterministic context to none (what a build makes comes from outside: log entry 32). The reader's emptying of a
trace ring is told by one record of what was dropped (that it is one event is this model's choice, log entry 30). -/
def Obligations.SecurityMintAndTraceEventsAct : Prop :=
  (∀ s src, src < 5 → Leads (.securityAlarm src) s fun t => MemorySame s t ∧ t.secAlarm.getLsbD src = true ∧ src ∈ t.secAsserted ∧
    (s.secPolicy.getLsbD src = false → t.ctxs = s.ctxs ∧ t.groups = s.groups) ∧
    (s.secPolicy.getLsbD src = true → ∀ c, (ctxOf s c).vault = true → (ctxOf s c).cst = 1 ∨ (ctxOf s c).cst = 2 →
      (ctxOf t c).cst = 3 ∧ (ctxOf t c).cause = 0x16 ∧ (ctxOf t c).keys = false)) ∧
  (∀ s src, exec (.alarmSourceEnd src) s = .next { s with secAsserted := s.secAsserted.filter (· != src) }) ∧
  (∀ s v, Answers s → Leads (.secStatusWrite v) s fun t => t = { s with secAlarm := t.secAlarm, secRefused := t.secRefused } ∧
    t.secRefused = (if bit v 15 then 0 else s.secRefused) ∧
    ∀ i, i < 5 → t.secAlarm.getLsbD i = (s.secAlarm.getLsbD i && !(bit v i && !s.secAsserted.contains i))) ∧
  (∀ s, let frozen : State → Prop := fun t => t.frozen = true ∧ t = { s with ctxs := t.ctxs, frozen := true } ∧
      ∀ c, (ctxOf s c).vault = true → ctxOf t c = { ctxOf s c with keys := false, vkeys := [] }
    (Answers s → Leads .secFreeze s frozen) ∧ Leads .freezeLine s frozen) ∧
  (∀ s, Answers s → exec .mintStatClear s = .next { s with mintStat := 0 }) ∧
  (∀ s c img kern k key, kernelOf s c img kern = some k → mintReached s c img kern = some key → mintFind s c kern k = none →
    (s.mint.filter fun x => x.home == mintHome (mintHash k)).length < 1024 → Leads (.mintTrigger c img kern) s fun t => MemorySame s t ∧ t.groups = s.groups ∧
      mgetD (ctxOf t c).triggers key 0 = mgetD (ctxOf s c).triggers key 0 - 1 ∧ ∃ e, t.mint = e :: s.mint ∧ e.st = 1 ∧ e.kern = kern ∧ e.key = mintHash k ∧ e.waiting = [(c, img, kern)]) ∧
  (∀ s c img kern e, s.mint.find? (fun e => e.st == 1 && e.waiting.contains (c, img, kern)) = some e → Leads (.mintBuildDone c img kern none) s fun t =>
    t = { s with mint := t.mint, mintStat := t.mintStat } ∧ t.mintStat = mintFailed s.mintStat ∧
    ∀ x ∈ t.mint, x.order = e.order → x.st = 3 ∧ x.waiting = []) ∧
  (∀ s c img kern e b k slot maps, s.mint.find? (fun e => e.st == 1 && e.waiting.contains (c, img, kern)) = some e → e.waiting = [(c, img, kern)] →
    kernelOf s c img kern = some k → builtOk k b = true → (List.range 16).find? (fun i => (mget k.vers i).isNone) = some slot →
    readMaps (asBytes b.maps) true b.code.length b.nmap 0 = some maps → (∀ v ∈ k.vers, v.2.mint = false) →
    Leads (.mintBuildDone c img kern (some b)) s fun t => MemorySame s t ∧ (∀ x ∈ t.mint, x.order = e.order → x.st = 2 ∧ x.waiting = []) ∧
      (∃ q, kernelOf t c img kern = some q ∧ q.entry = some slot ∧ mget q.vers slot = some ⟨true, true, 0x0101, asBytes b.code, none, maps⟩) ∧
      ∀ u g, mget s.groups u = some g → ∃ h, mget t.groups u = some h ∧ h = { g with xreq := h.xreq, xstat := h.xstat } ∧ ((ctxOf s c).det = true → h = g) ∧
        ∀ gr p, (ctxOf s c).det = false → mget s.grids g.grid = some gr → gr.ctx = c → gr.img = img → gr.kern = kern → portableOf k = some p → g.ver = p.1 →
          g.exited = false → g.xreq = none → h.xreq = some slot) ∧
  (∀ s c die, traces (ctxOf s c) 9 die = true → (ctxOf s c).vault = false → 4 ≤ (ctxOf s c).trlog → Leads (.traceOverflowRecord c die) s fun t =>
    (ringOf (ctxOf t c) die).dropped = 0 ∧ (ringOf (ctxOf t c) die).used = (if (ringOf (ctxOf s c) die).dropped = 0 then 0 else 16))

/-! ### Escrow -/

/-- R92, R348, R350-R354, R363: an escrow word raises its cause, or is on its way to its slice with its register result outstanding while the group goes
on; a deterministic group, which holds the coin, has its result at once, or for an `lqpop` holds its turn until it is written. The next of a group's words reaches its slice (REGISTER_RESULT_WRITTEN): none
of its words or posts is ahead on the way to the same slice. The slice applies it and its status lies in xd (that both come in one step is this
model's choice, log entry 56): `epopen` opens an episode, `epstep` records a step, `epclose` sets the length, `escfg` replaces the context's
factors; a status other than 0 leaves the episodes and factors as they were. `rwpost` accepts a post.
R250, R360, R361: `lqpop` takes at most 256 of the oldest records, as many as it asks for and the queue holds, writes them from its destination on,
gives their number and stores nothing outside its destination; asked for none it writes the counters and gives 0. In a deterministic context
what it writes enters the round buffer, and one without room for it as the word issues raises cause 0x14 (R336). A misaligned destination raises cause 0x04, a destination page that faults as the word issues its cause as for
a uniform access, a context without escrow 0x0E, a missing coin 0x14, the lowest of those first. A page that is gone once the slice resolves it leaves
every record in the queue, gives 0, and the group takes the engine cause with `stok` 0; that a round buffer which lost its room by then is handled as
such a page is this model's choice (log entry 56). -/
def Obligations.EscrowWordsActAndGiveStatus : Prop :=
  let effect : EscKind → State → State → Nat → List Word → Word → Prop := fun kind s t c p v =>
    let key := prmP p 0
    let m := homeOf s key
    let acts : Nat → Prop → Prop := fun st P => v = BitVec.ofNat 32 st ∧ (st = 0 → P) ∧ (st ≠ 0 → t.slices = s.slices ∧ (ctxOf t c).esc = (ctxOf s c).esc)
    match kind with
    | .epopen => acts (openStatus s m c key (prmW p 2)) (∃ e, findEpisode t m c key = some e ∧ e.cap = prmW p 2 ∧ e.ver = p.getD 3 0 ∧ e.steps = [] ∧
        e.closed = none ∧ e.cfg = (ctxOf s c).esc)
    | .epstep => acts (stepStatus s m c key (prmW p 2)) (∃ e, findEpisode t m c key = some e ∧ mget e.steps (prmW p 2) = some (p.getD 3 0, p.getD 4 0, p.getD 5 0))
    | .epclose => acts (closeStatus s m c key (prmW p 2)) (∃ e, findEpisode t m c key = some e ∧ e.closed = some (prmW p 2, p.getD 3 0))
    | .escfg => acts (cfgStatus s c p) ((ctxOf t c).esc = ⟨p.getD 0 0, p.getD 1 0, BitVec.ofNat 32 (fMul fp32 .rne 0 32 (prmW p 0) (prmW p 1)), p.getD 2 0, p.getD 3 0,
        p.getD 4 0, p.getD 5 0, p.getD 6 0, prmW p 7⟩)
    | .lqpop => True
  let sent : Instr → Bool → State → Nat → Group → EscWord → Prop := fun i sm s u g w => ∃ t h, exec i s = .next t ∧ mget t.groups u = some h ∧
    OthersSame s t u ∧ t = { s with groups := t.groups, nextUid := s.nextUid + 1 } ∧
    h = { g with words := g.words ++ [(s.nextUid, w)], pc := g.pc + 4, icnt := g.icnt + 1, replay := none, park := if sm then some .marker else none }
  ((∀ s u g, Acts s u g → ∀ sm xd xa,
     let named : Nat → List Nat := fun n => xd :: (List.range n).map (xa + ·)
     let esc : Instr → EscKind → Nat → Prop := fun i kind n =>
       (¬ Held g (named n) → Raises i s u g 0x03) ∧ WaitsFor i s u g (named n) ∧
       (Ready s g (named n) →
         ((ctxOf s g.ctx).epq = 0 → Raises i s u g 0x0E) ∧
         ((ctxOf s g.ctx).epq ≠ 0 → detOf s g = true → holdsCoin s g = false → Raises i s u g 0x14) ∧
         ((ctxOf s g.ctx).epq ≠ 0 → detOf s g = false → sent i sm s u g ⟨kind, blockOf s g xa n, xd, []⟩) ∧
         ((ctxOf s g.ctx).epq ≠ 0 → detOf s g = true → holdsCoin s g = true → Leads i s fun t => ∃ h v, mget t.groups u = some h ∧ OthersSame s t u ∧
           MemorySame s t ∧ KeepsAllButX g h sm 4 ∧ WritesLanes g h xd (full g) (fun _ => v) ∧ effect kind s t g.ctx (blockOf s g xa n) v))
     esc (.epopen sm xd xa) .epopen 4 ∧ esc (.epstep sm xd xa) .epstep 6 ∧ esc (.epclose sm xd xa) .epclose 4 ∧ esc (.escfg sm xd xa) .escfg 8 ∧
     (¬ Held g (named 4) → Raises (.rwpost sm xd xa) s u g 0x03) ∧ WaitsFor (.rwpost sm xd xa) s u g (named 4) ∧
     (Ready s g (named 4) →
       ((ctxOf s g.ctx).epq = 0 → Raises (.rwpost sm xd xa) s u g 0x0E) ∧
       ((ctxOf s g.ctx).epq ≠ 0 → Leads (.rwpost sm xd xa) s fun t => ∃ h, mget t.groups u = some h ∧ OthersSame s t u ∧ MemorySame s t ∧
         KeepsAllButX g h sm 4 ∧ WritesLanes g h xd (full g) (fun _ => 0) ∧ t.slices = s.slices ∧ ∃ q, t.posts = s.posts ++ [(s.nextUid, q)] ∧
           q.ctx = g.ctx ∧ q.src = 2 * u ∧ q.key = uniPair s g xa ∧ q.t = (uni s g (xa + 2)).toNat ∧ q.r = uni s g (xa + 3)))) ∧
   (∀ s u g, mget s.groups u = some g → g.exited = false →
     (∀ w ∈ wordsNext s u g, w ∈ g.words ∧ earlierPosts s (2 * u) (w.2.home s g.ctx) w.1 = [] ∧
       ∀ v ∈ g.words, v.1 < w.1 → v.2.home s g.ctx ≠ w.2.home s g.ctx) ∧
     (g.words ≠ [] → wordsNext s u g = [] → exec (.registerResultWritten u) s = .next s) ∧
     (wordsNext s u g ≠ [] → ∃ w ∈ wordsNext s u g, Leads (.registerResultWritten u) s fun t => ∃ h, mget t.groups u = some h ∧
       (w.2.kind ≠ .lqpop → ∃ v, OthersSame s t u ∧ MemorySame s t ∧ h = { g with words := mdel g.words w.1, x := h.x, histX := h.histX } ∧
         WritesLanes g h w.2.xd (full g) (fun _ => v) ∧ effect w.2.kind s t g.ctx w.2.prm v) ∧
       (w.2.kind = .lqpop →
         let n := prmW w.2.prm 2
         let len := if n = 0 then 64 else 32 * min n 256
         let queue := (ctxOf s g.ctx).queue
         let k := if n = 0 then 0 else min (min n 256) queue.length
         (∀ c va, destFault s g w.2.dest len = some (c, va) → OthersSame s t u ∧ MemorySame s t ∧ (ctxOf t g.ctx).queue = queue ∧
           h = { g with words := mdel g.words w.1, x := h.x, histX := h.histX, causes := g.causes ++ [⟨c, 0, va, true, none, false⟩] } ∧
           WritesLanes g h w.2.xd (full g) fun _ => 0) ∧
         (∀ us, destFault s g w.2.dest len = none → popUnits s g w.2.dest len = .ok us → us ≠ [] → detOf s g = true → (∀ q ∈ us, isPhys q.loc = true) →
           let bytes := (popTake s g.ctx n).2
           let buffer := bufAdd (modCtx s g.ctx fun x => { x with queue := x.queue.drop k }) g.block
             (((us.take (bytes.length / 4)).flatMap fun q => (List.range q.len).map (q.loc + ·)).zip bytes |>.map fun p => ⟨p.1, p.2, threadIdx s g 0⟩)
           OthersSame s t u ∧ MemorySame s t ∧
           (∀ s2, buffer = .ok s2 → us.take (bytes.length / 4) ≠ [] → t.blocks = s2.blocks ∧ (ctxOf t g.ctx).queue = queue.drop k ∧
             h = { g with words := mdel g.words w.1, x := h.x, histX := h.histX } ∧ WritesLanes g h w.2.xd (full g) fun _ => BitVec.ofNat 32 k) ∧
           (∀ c, buffer = .error c → us.take (bytes.length / 4) ≠ [] → (ctxOf t g.ctx).queue = queue ∧
             h = { g with words := mdel g.words w.1, x := h.x, histX := h.histX, causes := g.causes ++ [⟨c, 0, none, true, none, false⟩] } ∧
             WritesLanes g h w.2.xd (full g) fun _ => 0)) ∧
         (∀ us, destFault s g w.2.dest len = none → popUnits s g w.2.dest len = .ok us → detOf s g = false ∨ (∀ q ∈ us, isPhys q.loc = false) →
           let bytes := if n = 0 then counterBlock s g.ctx else (queue.take k).flatMap asBytes
           let locs := us.flatMap fun q => (List.range q.len).map (q.loc + ·)
           OthersKeep s t u ∧ (ctxOf t g.ctx).queue = queue.drop k ∧
           h = { g with words := mdel g.words w.1, x := h.x, histX := h.histX, seen := h.seen, compl := h.compl, park := h.park } ∧
           WritesLanes g h w.2.xd (full g) (fun _ => BitVec.ofNat 32 k) ∧ (∀ a, a ∉ locs → Memory.read t.mem a = Memory.read s.mem a) ∧
           (MemoryCanonical s → w.2.dest.start % 4 = 0 → locs.Nodup → (∀ r ∈ queue, r.length = 32) → ∀ j a, j < bytes.length → locs[j]? = some a →
             Memory.read t.mem a = bytes.getD j 0)))))) ∧
  (∀ s u g, Acts s u g → ∀ sm xd xa,
     let dst := uniPair s g xa
     let n := (uni s g (xa + 2)).toNat
     let len := if n = 0 then 64 else 32 * min n 256
     let w : EscWord := ⟨.lqpop, blockOf s g xa 3, xd, chosenOf s g.block [dst]⟩
     let queue := (ctxOf s g.ctx).queue
     let k := if n = 0 then 0 else min (min n 256) queue.length
     (¬ Held g [xd, xa, xa + 1, xa + 2] → Raises (.lqpop sm xd xa) s u g 0x03) ∧ WaitsFor (.lqpop sm xd xa) s u g [xd, xa, xa + 1, xa + 2] ∧
     (Ready s g [xd, xa, xa + 1, xa + 2] →
       (dst % 8 ≠ 0 → Raises (.lqpop sm xd xa) s u g 0x04) ∧
       (dst % 8 = 0 → ∀ c, rangeOf s g.block dst len = .error c → c < 0x0E → Raises (.lqpop sm xd xa) s u g c) ∧
       (dst % 8 = 0 → ∀ r, rangeOf s g.block dst len = .ok r →
         (∀ c va, destFault s g w.dest len = some (c, some va) → c < 0x0E → exec (.lqpop sm xd xa) s = .next (raiseAccess (touchVa s g.ctx va) u g c va 1)) ∧
         (destFault s g w.dest len = none →
           ((ctxOf s g.ctx).epq = 0 → Raises (.lqpop sm xd xa) s u g 0x0E) ∧
           ((ctxOf s g.ctx).epq ≠ 0 → detOf s g = true → holdsCoin s g = false → Raises (.lqpop sm xd xa) s u g 0x14) ∧
           ((ctxOf s g.ctx).epq ≠ 0 → detOf s g = false → sent (.lqpop sm xd xa) sm s u g w) ∧
           ((ctxOf s g.ctx).epq ≠ 0 → detOf s g = true → holdsCoin s g = true → ∀ us, popUnits s g w.dest len = .ok us →
             let bytes := (popTake s g.ctx n).2
             let taken := us.take (bytes.length / 4)
             let buffer := bufAdd (modCtx s g.ctx fun x => { x with queue := x.queue.drop k }) g.block
               ((taken.flatMap fun q => (List.range q.len).map (q.loc + ·)).zip bytes |>.map fun p => ⟨p.1, p.2, threadIdx s g 0⟩)
             ((∀ q ∈ taken, isPhys q.loc = false) → sent (.lqpop sm xd xa) true s u g w) ∧
             ((∃ q ∈ taken, isPhys q.loc = true) → (∀ s2, buffer = .ok s2 → sent (.lqpop sm xd xa) true s u g w) ∧
               ∀ c, buffer = .error c → Raises (.lqpop sm xd xa) s u g c))))))

/-- R350, R354-R359, R362: a post is applied when no earlier one of its source, and no earlier escrow word of its group, is on the way to its slice: to an open episode without a reward at its
step it gives that reward. An expired orphan is dropped and counted; a timed-out episode is dropped, or filled with DEFR, and counted. The
discount unit computes the results of the earliest complete episode, which then leaves for the learner queue when its records fit. A host write
of 16 well-formed bytes posts a reward; another one is counted, to the context that its field names (this model's reading, log entry 27). -/
def Obligations.EscrowEventsMoveRewardsOn : Prop :=
  let bumped : State → State → Nat → Nat → Nat → Prop := fun s t c i n =>
    mgetD (ctxOf t c).counters i 0 = min 0xFFFFFFFF (mgetD (ctxOf s c).counters i 0 + n)
  (∀ s id p e, mget s.posts id = some p → (ctxOf s p.ctx).det = false → (ctxOf s p.ctx).cst ≠ 0 → earlierPosts s p.src (homeOf s p.key) id = [] →
    (p.src % 2 = 0 → earlierWords s (p.src / 2) (homeOf s p.key) id = false) → findEpisode s (homeOf s p.key) p.ctx p.key = some e → e.closed = none → p.t < e.cap → mget e.rewards p.t = none → Leads (.rewardApply id) s fun t =>
      mget t.posts id = none ∧ MemorySame s t ∧ t.groups = s.groups ∧
      findEpisode t (homeOf s p.key) p.ctx p.key = some { e with rewards := mset e.rewards p.t p.r }) ∧
  (∀ s m c key t0 i, (ctxOf s c).det = false → (sliceOf s m).orphans.findIdx? (fun o => o.ctx == c && o.key == key && o.t == t0) = some i →
    Leads (.orphanExpire m c key t0) s fun t => (sliceOf t m).orphans = (sliceOf s m).orphans.eraseIdx i ∧ bumped s t c cORPHAN 1 ∧ MemorySame s t) ∧
  (∀ s m c key e, (ctxOf s c).det = false → findEpisode s m c key = some e → e.waitsTout = true →
    (e.cfg.policy.getLsbD 0 = false → Leads (.episodeTimeout m c key) s fun t => findEpisode t m c key = none ∧ bumped s t c cTODROP 1) ∧
    (e.cfg.policy.getLsbD 0 = true → Leads (.episodeTimeout m c key) s fun t => bumped s t c cTOFILL 1 ∧
      ∃ q, findEpisode t m c key = some q ∧ q.filled = true ∧ q.full = true)) ∧
  (∀ s m e q, earliestDone (sliceOf s m).episodes (fun e => e.results.isNone && !(ctxOf s e.ctx).det) = some e → findEpisode s m e.ctx e.key = some q →
    Leads (.discountEpisode m) s fun t => findEpisode t m e.ctx e.key = some { q with results := some q.compute } ∧ MemorySame s t) ∧
  (∀ s m c e, earliestDone (sliceOf s m).episodes (fun e => e.ctx == c && e.results.isSome) = some e → (ctxOf s c).det = false →
    ((ctxOf s c).esc.minver.toNat ≤ e.ver.toNat → e.conflict = false → (ctxOf s c).queue.length + e.records.length ≤ (ctxOf s c).lqcap →
      Leads (.episodeRelease m c) s fun t => (ctxOf t c).queue = (ctxOf s c).queue ++ e.records ∧ findEpisode t m c e.key = none ∧
        bumped s t c cRELEASED e.records.length) ∧
    (e.ver.toNat < (ctxOf s c).esc.minver.toNat → Leads (.episodeRelease m c) s fun t => (ctxOf t c).queue = (ctxOf s c).queue ∧
      findEpisode t m c e.key = none ∧ bumped s t c cSTALE 1)) ∧
  (∀ s v, Answers s →
    let c := v / 2 ^ 88 % 2 ^ 6
    (badPost s v = false → Leads (.escPost 16 v) s fun t => ∃ q, t.posts = s.posts ++ [(s.nextUid, q)] ∧ q.ctx = c ∧ q.key = v % 2 ^ 64 ∧
      q.t = v / 2 ^ 64 % 2 ^ 16 ∧ q.r.toNat = v / 2 ^ 96 % 2 ^ 32) ∧
    (∀ size, size ≠ 16 → (ctxOf s c).cst ≠ 0 → Leads (.escPost size v) s fun t => bumped s t c cPOSTBAD 1 ∧ t.posts = s.posts))

/-! ### Versions -/

/-- R95, R283, R287-R289: a safe point sets `spn`, meets a pending transfer and then yields. One that is refused leaves the
group in its version with the reason in `xstat`, and the safe point retires at once; any other waits for the register results that words before have yet
to write. One that is done puts the group into the
target version; one whose local lines are absent waits. `xfer` asks for a
version, reads the status, or is refused at once when the version cannot run here. -/
def Obligations.SafePointsTransferAndYield : Prop :=
  (∀ s u g, Acts s u g →
    let safe : Instr → Nat → Bool → Nat → Prop := fun i len sm n =>
      let g1 := { g with spn := BitVec.ofNat 32 n }
      (g.xreq = none → Becomes i s u (yieldAt (atPc g1 sm (g.pc + len)))) ∧
      (∀ v, g.xreq = some v → g.words ≠ [] → (∀ r, transfer s u g1 n v ≠ .refused r) → exec i s = .next (setGroup s u { g with park := some .result })) ∧
      (∀ v r, g.xreq = some v → transfer s u g1 n v = .refused r → Becomes i s u
        (yieldAt (atPc { g1 with xreq := none, xstat := BitVec.ofNat 32 (3 * 2 ^ 30 + 0x13 * 2 ^ 16 + r * 2 ^ 8 + v % 256) } sm (g.pc + len)))) ∧
      (∀ v ls, g.xreq = some v → g.words = [] → transfer s u g1 n v = .absent ls → exec i s = .next (setGroup s u { g with park := some (.presence ls) })) ∧
      (∀ v s1 h pc, g.xreq = some v → g.words = [] → transfer s u g1 n v = .done s1 h pc → Leads i s fun t => t.mem = s1.mem ∧ ∃ q, mget t.groups u = some q ∧
        q.ver = v ∧ q.xreq = none ∧ q.xstat = BitVec.ofNat 32 (2 * 2 ^ 30 + v % 256) ∧ q.icnt = g.icnt + 1 ∧ q.spn = BitVec.ofNat 32 n)
    (∀ sm n, safe (.spt sm n) 4 sm n) ∧ (∀ a b, safe (.shortSpt a b) 2 false (a * 16 + b))) ∧
  (∀ s u g, Acts s u g → ∀ sm xd xa,
    let v := (uni s g xa).toNat
    let gives : Word → Option Nat → Word → Prop := fun w req st => Retires (.xfer sm xd xa) s u fun h =>
      h = { g with x := h.x, histX := h.histX, xreq := req, xstat := st, pc := g.pc + 4, icnt := g.icnt + 1, replay := none, park := parkAfter sm h } ∧
      WritesLanes g h xd (full g) fun _ => w
    (¬ Held g [xd, xa] → Raises (.xfer sm xd xa) s u g 0x03) ∧
    (Ready s g [xd, xa] → v = 0xFFFFFFFF → gives g.xstat g.xreq g.xstat) ∧
    (Ready s g [xd, xa] → v ≠ 0xFFFFFFFF → runnableVersion s g v = none →
      let st : Word := BitVec.ofNat 32 (3 * 2 ^ 30 + 0x13 * 2 ^ 16 + 2 ^ 8 + v % 256)
      gives st none st) ∧
    (Ready s g [xd, xa] → v ≠ 0xFFFFFFFF → runnableVersion s g v ≠ none →
      let st : Word := BitVec.ofNat 32 (2 ^ 30 + v % 256)
      gives st (some v) st))

/-! ### Graphs -/

/-- R63, R367, R370-R374: `launch` starts a grid one level deeper with the values of its block, or raises its cause; `gtrig` queues a run of a
loaded graph and gives its number; `fdone` commits its firing and gives the firing's number. Each waits where the spec lets it wait. -/
def Obligations.LaunchTriggerAndCommitWords : Prop :=
  ∀ s u g, Acts s u g →
    let gives : State → Bool → Nat → (Group → Word) → Prop := fun t sm xd w => ∃ h, mget t.groups u = some h ∧ OthersSame s t u ∧ MemorySame s t ∧
      KeepsAllButX g h sm 4 ∧ WritesLanes g h xd (full g) fun _ => w h
    (∀ sm arv xd xa,
      let n := if arv then 18 else 16
      let named := xd :: (List.range n).map (xa + ·)
      let p := blockOf s g xa n
      (¬ Held g named → Raises (.launch sm arv xd xa) s u g 0x03) ∧
      (∀ c, Ready s g named → launchCause s g arv p = some c → Raises (.launch sm arv xd xa) s u g c) ∧
      (∀ a, Ready s g named → launchCause s g arv p = none → launchArgs s g.ctx p = some a → 4096 ≤ liveGrids s g.ctx →
        exec (.launch sm arv xd xa) s = .next (setGroup s u { g with park := some .gridRoom })) ∧
      (∀ a par, Ready s g named → launchCause s g arv p = none → launchArgs s g.ctx p = some a → liveGrids s g.ctx < 4096 → mget s.grids g.grid = some par →
        Leads (.launch sm arv xd xa) s fun t => ∃ gr, mget t.grids s.nextUid = some gr ∧ gives t sm xd (fun _ => gr.gid) ∧
          gr.depth = par.depth + 1 ∧ gr.parent = some (g.grid, u) ∧ gr.ctx = g.ctx ∧ gr.started = [] ∧ gr.retired = [] ∧ gr.committed = false ∧
          gr.cores = logicalCores s (ctxOf s g.ctx).part ∧ (gr.gdx, gr.gdy, gr.gdz, gr.ngrp, gr.gwid, gr.lmem) = (a.gdx, a.gdy, a.gdz, a.ngrp, a.gwid, a.lmem) ∧
          gr.param = a.param ∧ gr.uhnd = a.uhnd)) ∧
    (∀ sm xd xa,
      let gid := (uni s g xa).toNat
      let patch := uniPair s g (xa + 2)
      let named := [xd, xa, xa + 1, xa + 2, xa + 3]
      (¬ Held g named → Raises (.gtrig sm xd xa) s u g 0x03) ∧
      (Ready s g named → mget s.graphs gid = none → Raises (.gtrig sm xd xa) s u g 0x0D) ∧
      (∀ gr, Ready s g named → mget s.graphs gid = some gr → gr.ctx ≠ g.ctx ∨ patch % 16 ≠ 0 ∨ 2 ^ 52 ≤ patch → Raises (.gtrig sm xd xa) s u g 0x0D) ∧
      (∀ gr, Ready s g named → mget s.graphs gid = some gr → gr.ctx = g.ctx → patch % 16 = 0 → patch < 2 ^ 52 → 4 ≤ gr.trigs.length →
        exec (.gtrig sm xd xa) s = .next (setGroup s u { g with park := some (.trigRoom gid) })) ∧
      (∀ gr, Ready s g named → mget s.graphs gid = some gr → gr.ctx = g.ctx → patch % 16 = 0 → patch < 2 ^ 52 → gr.trigs.length < 4 →
        Leads (.gtrig sm xd xa) s fun t => gives t sm xd (fun _ => BitVec.ofNat 32 (gr.issued + 1)) ∧
          ∃ q, mget t.graphs gid = some q ∧ q.issued = gr.issued + 1 ∧ ∃ x, q.trigs = gr.trigs ++ [x] ∧ x.patch = patch)) ∧
    (∀ sm xd,
      (¬ Held g [xd] → Raises (.fdone sm xd) s u g 0x03) ∧
      (∀ gr, Ready s g [xd] → mget s.grids g.grid = some gr → gr.firing = none ∨ gr.committed = true → Raises (.fdone sm xd) s u g 0x0D) ∧
      (∀ gr f, Ready s g [xd] → mget s.grids g.grid = some gr → gr.firing = some f → gr.committed = false → groupCmds s u ≠ [] →
        exec (.fdone sm xd) s = .next (setGroup s u { g with park := some .commit })) ∧
      (∀ gr gid node st f, Ready s g [xd] → mget s.grids g.grid = some gr → gr.firing = some (gid, node, st, f) → gr.committed = false → groupCmds s u = [] →
        Leads (.fdone sm xd) s fun t => gives t sm xd (fun _ => BitVec.ofNat 32 f) ∧ mget t.grids g.grid = some { gr with committed := true }))

/-- R366-R369: a load begins and ends with a graph or with its reason; a host trigger is queued or dropped and counted; a run starts with its
patches applied, or with every node skipped when the list is bad (that a list which cannot be read is a bad one is the model's reading of R368: log
entry 22); a launch node starts its grid, or fails with cause 0x0D and skips the nodes not
yet started; a run that is over, or that a kill has ended, leaves with its completion record written at CREC (RUN, counted from 1, STATUS, NODE, CAUSE
and zeros) where each of its words can be stored, and its vector raised. -/
def Obligations.GraphsLoadRunAndComplete : Prop :=
  let recorded : State → State → Graph → Nat → Nat → Nat → List Vis → Prop := fun s t g status node cause ids =>
    let bs := leBytes 4 (g.runs + 1) ++ leBytes 2 status ++ leBytes 2 node ++ leBytes 1 cause ++ leBytes 23 0
    let order := [1, 2, 3, 4, 5, 6, 7, 0]
    let put : Nat → State → Nat → State := fun pa z i => putUnit z hostAgent g.ctx (pa + 4 * i) (some (g.crec + 4 * i)) ((bs.drop (4 * i)).take 4) true
      [{ scope := .sys, blk := 0, clu := 0, ctx := g.ctx, ids := ids, eng := false }]
    t.msix = s.msix ++ [g.vec] ∧ (MemoryCanonical s → ∀ pa,
      (∀ n i, order[n]? = some i → resolve ((order.take n).foldl (put pa) s) g.ctx (g.crec + 4 * i) 1 = .ok (pa + 4 * i)) →
      MemoryHolds t pa bs ∧ MemorySameOutside s t pa 32)
  (∀ s v, Answers s → s.loading = none → exec (.gload v) s = .next { s with loading := some v, gload := BitVec.ofNat 32 (2 ^ 30) }) ∧
  (∀ s v, s.loading = some v →
    (∀ r, loadGraph s v = .error r → exec .graphLoadEnd s = .next { s with loading := none, gload := BitVec.ofNat 32 (3 * 2 ^ 30 + r) }) ∧
    (∀ g, loadGraph s v = .ok g → Leads .graphLoadEnd s fun t => t.loading = none ∧ t.gload = BitVec.ofNat 32 (2 * 2 ^ 30) ∧
      mget t.graphs (v / 2 ^ 46 % 2 ^ 10) = some g ∧ ∀ n, n ≠ v / 2 ^ 46 % 2 ^ 10 → mget t.graphs n = mget s.graphs n)) ∧
  (∀ s v g, Answers s → mget s.graphs (v / 2 ^ 48 % 2 ^ 10) = some g →
    let good := g.ctx = v / 2 ^ 58 % 2 ^ 6 ∧ ((ctxOf s g.ctx).cst = 1 ∨ (ctxOf s g.ctx).cst = 2) ∧ g.trigs.length < 4
    (good → Leads (.gtrigWrite v) s fun t => ∃ q x, mget t.graphs (v / 2 ^ 48 % 2 ^ 10) = some q ∧ q.trigs = g.trigs ++ [x] ∧ x.patch = v % 2 ^ 48 * 16 ∧
      t.graphStat = s.graphStat) ∧
    (¬ good → Leads (.gtrigWrite v) s fun t => t.graphs = s.graphs ∧
      t.graphStat = if s.graphStat.toNat / 2 ^ 16 = 0xFFFF then s.graphStat else s.graphStat + 0x10000)) ∧
  (∀ s, Answers s → exec .graphStatClear s = .next { s with graphStat := 0 }) ∧
  (∀ s gid g x rest, mget s.graphs gid = some g → g.trigs = x :: rest → g.run = none → g.killed = none → (ctxOf s g.ctx).cst = 1 →
    Leads (.graphRunStart gid) s fun t => MemorySame s t ∧ t.groups = s.groups ∧ ∃ q r, mget t.graphs gid = some q ∧ q.trigs = rest ∧ q.run = some r ∧
      (∀ ps, readPatches s g x.patch = some ps → q.nodes = ps.foldl applyPatch g.nodes ∧ r.fail = none ∧ r.st = g.nodes.map fun _ => NodeSt.waiting) ∧
      (readPatches s g x.patch = none → q.nodes = g.nodes ∧ r.fail = some (0xFFFF, 0x0D) ∧ r.st = g.nodes.map fun _ => NodeSt.skipped)) ∧
  (∀ s gid node g r n, mget s.graphs gid = some g → g.run = some r → g.nodes[node]? = some n → n.kind = 0 → n.fn = 0 → r.st[node]? = some .waiting →
    (∀ e ∈ g.edges, e.2 = node → r.st[e.1]? = some .completed) → g.killed = none → (ctxOf s g.ctx).cst = 1 → liveGrids s g.ctx < 4096 →
    (∀ a, launchArgs s g.ctx n.pb = some a → Leads (.graphNodeStart gid node) s fun t => ∃ gr q k, mget t.grids s.nextUid = some gr ∧ gr.depth = 0 ∧
      gr.node = some (gid, node) ∧ gr.kern = a.kern ∧ mget t.graphs gid = some q ∧ q.run = some k ∧ k.st[node]? = some .running) ∧
    (launchArgs s g.ctx n.pb = none → Leads (.graphNodeStart gid node) s fun t => ∃ q k, mget t.graphs gid = some q ∧ q.run = some k ∧
      k.st[node]? = some .failed ∧ k.fail = r.fail.or (some (node, 0x0D)) ∧
      ∀ m, m ≠ node → r.st[m]? = some .waiting → (∃ e ∈ g.edges, e.2 = m) → k.st[m]? = some .skipped)) ∧
  (∀ s gid g r, mget s.graphs gid = some g → g.run = some r → g.killed = none → r.over = true → (ctxOf s g.ctx).cst = 1 →
    Leads (.graphRunComplete gid) s fun t =>
      let ids := r.rel.foldl (fun l x => union l x.2) r.acq
      (r.fail = none → recorded s t g 0 0xFFFF 0 ids ∧ t.graphStat = s.graphStat) ∧
      (∀ node cause, r.fail = some (node, cause) → recorded s t g 1 node cause ids) ∧
      ∃ q, mget t.graphs gid = some q ∧ q.run = none ∧ q.runs = g.runs + 1 ∧ q.trigs = g.trigs) ∧
  (∀ s gid g cause, mget s.graphs gid = some g → g.killed = some cause → g.run ≠ none ∨ g.trigs ≠ [] →
    Leads (.graphRunComplete gid) s fun t => recorded s t g 2 0xFFFF cause [])

/-- R45, R379, R382-R384: a firing that may start, and that comes before every other block that has room (of its own graph's firings the table's order
tells), does, as a grid of one block on a core assigned to its stage, and the stage moves on to the next; a
move of the governor takes a core without a firing from the donor to the recipient (which cores a stage holds from the start is this model's choice,
log entry 58); a rebinding request is noted or refused, and at the end of its period (in a deterministic context once the last firing's
round has closed) it binds anew or is refused (that a refused one writes nothing
is this model's reading, log entry 23). -/
def Obligations.StageGraphsFireMoveAndRebind : Prop :=
  (∀ s gid node st core gr g x, mget s.graphs gid = some gr → stageGraphOf s gid node = some g → g.stages[st]? = some x → (ctxOf s gr.ctx).cst = 1 →
    (ctxOf s gr.ctx).draining = false → g.ready (ctxOf s gr.ctx).det st = true →
    (∀ f ∈ readyFirings s, firingCanStart s f.2.1 f.2.2.1 f.2.2.2 = true →
      if f.2.1 = gid ∧ f.2.2.1 = node then g.place st ≤ g.place f.2.2.2 else mgetD g.since st 0 ≤ f.1) →
    gridBefore s (mgetD g.since st 0) = false → firingFits s gr.ctx g st x core = true → Leads (.firingDispatch gid node st core) s fun t => ∃ n k,
      mget t.grids s.nextUid = some n ∧ n.firing = some (gid, node, st, g.next.getD st 0) ∧ n.gdx * n.gdy * n.gdz = 1 ∧ n.started = [0] ∧
      stageGraphOf t gid node = some k ∧ k.next = g.next.set st (g.next.getD st 0 + 1) ∧ k.flight = g.flight ++ [(st, g.next.getD st 0, s.nextUid)] ∧
      k.occ = g.occ ∧ MemorySame s t) ∧
  (∀ s gid node gr g m i, mget s.graphs gid = some gr → stageGraphOf s gid node = some g →
    g.moves.find? (fun m => (idleCore s gr.ctx g m.1).isSome) = some m → idleCore s gr.ctx g m.1 = some i → m.1 ≠ m.2 → m.1 < g.cores.length → m.2 < g.cores.length →
    Leads (.governorMove gid node) s fun t => MemorySame s t ∧ t.groups = s.groups ∧ ∃ k, stageGraphOf t gid node = some k ∧
      k.moves = g.moves.filter (· != m) ∧ k.cores.getD m.1 [] = (g.cores.getD m.1 []).filter (· != i) ∧ k.cores.getD m.2 [] = g.cores.getD m.2 [] ++ [i] ∧
      ∀ o, o ≠ m.1 → o ≠ m.2 → k.cores.getD o [] = g.cores.getD o []) ∧
  (∀ s v, Answers s →
    let gid := v / 2 ^ 48 % 2 ^ 10
    let node := v / 2 ^ 36 % 2 ^ 12
    (∀ gr g, mget s.graphs gid = some gr → gr.ctx = v / 2 ^ 58 % 2 ^ 6 → stageGraphOf s gid node = some g → Leads (.sgRebind v) s fun t =>
      t.sgRebind = BitVec.ofNat 32 (2 ^ 30) ∧ (∃ k, stageGraphOf t gid node = some k ∧ k = { g with rebind := true, since := k.since }) ∧ MemorySame s t) ∧
    (stageGraphOf s gid node = none → Leads (.sgRebind v) s fun t => t.sgRebind = BitVec.ofNat 32 (3 * 2 ^ 30 + 7) ∧ MemorySame s t)) ∧
  (∀ s gid node gr g, mget s.graphs gid = some gr → stageGraphOf s gid node = some g → g.rebind = true → g.periodDone = true →
    g.settled (ctxOf s gr.ctx).det = true → (ctxOf s gr.ctx).cst = 1 →
    (∀ n, bindGraph s gr.ctx g.desc g.result g.arena g.arenaBytes g.periods g.acq = .status n → Leads (.sgRebindApply gid node) s fun t =>
      t.sgRebind = BitVec.ofNat 32 (3 * 2 ^ 30 + n) ∧ (∃ k, stageGraphOf t gid node = some k ∧ k = { g with rebind := false, since := k.since }) ∧ MemorySame s t) ∧
    (∀ b, bindGraph s gr.ctx g.desc g.result g.arena g.arenaBytes g.periods g.acq = .ok b → b.edges.map (·.init) = g.edges.map (·.init) →
      schedWritable s gr.ctx b.result (resultBytes b).length = true → Leads (.sgRebindApply gid node) s fun t =>
        t.sgRebind = BitVec.ofNat 32 (2 * 2 ^ 30) ∧ ∃ k, stageGraphOf t gid node = some k ∧ k.stages = b.stages ∧ k.edges = b.edges ∧ k.table = b.table ∧
          k.next = b.next ∧ k.done = [] ∧ k.rebind = false ∧ k.base = g.base + g.begun))

/-! ### The machine as a whole -/

/-- R29, R30, R32, R36, R38, R322, R329: right after power is applied the panel is in stage 1 and not ready, no die is lost, the gate and clock
registers of every region, the four interrupt registers, `HARV_CTL` and `SEC_POLICY` hold the values the spec gives; no context, grid, block, group,
command or graph exists and memory lists nothing. (What an unlisted byte reads as, the grade and the fused pattern are the model's choices:
log entries 3 and 4.) -/
def Obligations.ResetState : Prop :=
  State.reset.stage = 1 ∧ State.reset.ready = false ∧ State.reset.lostd = 0 ∧ State.reset.frozen = false ∧
  State.reset.irqReady = 0x80000000 ∧ State.reset.irqPower = 1 ∧ State.reset.irqPgreq = 0x80000002 ∧ State.reset.irqLink = 3 ∧
  (∀ n, (regionOf State.reset n).cstep = 0x00020040 ∧ (regionOf State.reset n).clk = 0x00000410 ∧
    (regionOf State.reset n).alarm = false ∧ (regionOf State.reset n).latch = false) ∧
  State.reset.harvCtl = 0x80100020 ∧ State.reset.secPolicy = 0x1F ∧ State.reset.mintCtl = 0x80001000 ∧
  (∀ l, linkStatus State.reset l = 0) ∧ (∀ c, (ctxOf State.reset c).cst = 0) ∧
  State.reset.ctxs = [] ∧ State.reset.grids = [] ∧ State.reset.blocks = [] ∧ State.reset.groups = [] ∧ State.reset.cmds = [] ∧
  State.reset.graphs = [] ∧ State.reset.reports = [] ∧ State.reset.pgAnswer = 0 ∧ State.reset.mem = [] ∧ moves State.reset = []

/-- Memory is in its canonical form at reset (the form is the model's choice: log entry 4). -/
def Obligations.ResetMemoryIsCanonical : Prop :=
  MemoryCanonical State.reset

/-- Every step keeps memory in its canonical form (the model's choice: log entry 4): whatever happens, words, events of the panel itself and events from outside. -/
def Obligations.StepKeepsMemoryCanonical : Prop :=
  ∀ s t, MemoryCanonical s → step s = .next t → MemoryCanonical t

/-- R90, R91, R98-R101, R103-R110: decoding and encoding agree. Every well-formed instruction has bits, and the decoder reads it back from them with
every operand; and whatever the decoder reads from an opcode-table word is well formed. -/
def Obligations.DecodeOfEncode : Prop :=
  (∀ i : Instr, i.wf = true → ∃ w, encode i = some w ∧ decodeTableWord (if i.isShort then 16 else 64) w = some i) ∧
  (∀ nbits w i, decodeTableWord nbits w = some i → i.wf = true)

/-- R90, R98, R100, R105, R107, R110: words written out from the spec's encodings decode to the instructions they stand for, and words with a
reserved code, an odd pair or a field that must be zero decode to none. -/
def Obligations.WordsOfTheSpecDecode : Prop :=
  decodeTableWord 32 0x40060C20 = some (.vadd true 3 3 4 0) ∧ decodeTableWord 32 0x62182458 = some (.vfmul true 12 9 11 0) ∧
  decodeTableWord 32 0x35122020 = some (.vld false .w false 9 8 0 0) ∧ decodeTableWord 32 0x2D2825C0 = some (.vquant false .ts8 20 9 3 0) ∧
  decodeTableWord 32 0x9417FFFE = some (.br false .ne (-2)) ∧ decodeTableWord 32 0x9D140B10 = some (.sld false .d 10 2 16) ∧
  decodeTableWord 32 0xAC3CA0C0 = some (.mxmm false 30 40) ∧ decodeTableWord 32 0xB2000105 = some (.trap false 5) ∧
  decodeTableWord 32 0xB3120100 = some (.srd false 9 0x100) ∧ decodeTableWord 32 0xB1184000 = some (.epopen false 12 16) ∧
  decodeTableWord 16 0x00D0 = some (.shortVadd 3 4) ∧ decodeTableWord 16 0x63F6 = some (.shortBr 15 13 2) ∧
  decodeTableWord 32 0x94D00000 = none ∧ decodeTableWord 32 0x9D160B10 = none ∧ decodeTableWord 32 0xB9000001 = none ∧
  decodeTableWord 32 0xB8000004 = none

/-- R50, R51, R98, R102, R344, R345: with an empty tape and the move that issues group u chosen, a step is exec of the instruction that the fetch
gives, on the group with its pending paths aged (but not in trap handling, which parks the group: R48) and its park over, its version's lines pinned
(R298) and the code read; the fetch gives the
instruction that the bytes at pc decode to, in N-form and in D-form; an event from outside is exec of its row; a frozen panel takes none but a
power-on. Around exec a step does what `attempted` and `ending` do. `attempted`: the ages stand only if the word issued (a word that traps or waits to
execute again has not: the model's choice, log entry 51), and in a deterministic context the core's rotation moves past the group if it issued, else
stays at it (log entry 61). `ending`: a context that a lost die emptied ends, trace records and samples are written, and the counter of free values
moves on. -/
def Obligations.StepRunsTheDecodedInstruction : Prop :=
  (∀ s core u g i n, s.inputs = [] → choose (Config.schedPick s.free) (moves s) = some (.issue core u) →
    let s1 := noteIssue s core u
    let g1 := { g with park := none, table := if g.hstack = none then ageTable g.table else g.table }
    let s2 := pinFetch (setGroup s1 u g1) u g1
    mget s.groups u = some g → inService s1 g = false → fetchAt s2 u g1 g1.pc = .instr i n →
      step s = ending s (some (u, i)) (attempted s core u (exec i { noteFetch s2 u g1 g1.pc n with cur := some u }))) ∧
  (∀ s core u g t h, mget s.groups u = some g → mget t.groups u = some h →
    let issued : Prop := h.icnt ≠ g.icnt ∨ ∃ p, h.park = some p ∧ again p = false
    ∃ r, attempted s core u (.next t) = .next r ∧
      (issued → mget r.groups u = some h) ∧ (¬ issued → mget r.groups u = some { h with table := g.table }) ∧
      (∀ v, v ≠ u → mget r.groups v = mget t.groups v) ∧ r.mem = t.mem ∧ (detCore s core = false → r.cores = t.cores) ∧
      (detCore s core = true → issued → (coreOf r core).rot = turnKey s g + 1) ∧
      (detCore s core = true → ¬ issued → (coreOf r core).rot = turnKey s g)) ∧
  (∀ s u g bs i, nativeCode s g = true → g.pc % 4 = 0 → fetchUnit s u g g.pc = .ok bs →
    let imm := match fetchUnit s u g (g.pc + 4) with | .ok b => leNat b | .error _ => 0
    (decodeNative (leNat bs) imm = some (i, 1) → fetchAt s u g g.pc = .instr i 4) ∧
    (∀ b, fetchUnit s u g (g.pc + 4) = .ok b → decodeNative (leNat bs) (leNat b) = some (i, 2) → fetchAt s u g g.pc = .instr i 8)) ∧
  (∀ s u g p0 i n, nativeCode s g = false → g.pc % 2 = 0 → parcelAt s u g g.pc = .ok p0 →
    decodeParcels p0 (parcelOr s u g (g.pc + 2)) (parcelOr s u g (g.pc + 4)) (parcelOr s u g (g.pc + 6)) = some (i, n) →
    (∀ k, k < n → ∃ v, parcelAt s u g (g.pc + 2 * k) = .ok v) → fetchAt s u g g.pc = .instr i (2 * n)) ∧
  (∀ s i rest, s.inputs = some i :: rest → encode i = none → s.frozen = false ∨ (∃ l d, i = .powerOn l d) →
    step s = ending { s with inputs := rest } none (exec i { s with inputs := rest })) ∧
  (∀ s i rest, s.inputs = some i :: rest → encode i = none → s.frozen = true → (∀ l d, i ≠ .powerOn l d) →
    step s = .next (stepEnd { s with inputs := rest } none { s with inputs := rest }))

/-- R129: `ssel.cnd xd, xa, xb` tests a condition on the current flags and sets xd to xa or to xb; xd takes it in every lane, x0 discards it. -/
def Obligations.SselPicksByItsCondition : Prop :=
  ∀ sm xd xa xb s u g, Acts s u g → Ready s g [xd, xa, xb] →
    let pick (b : Bool) (c : Cond) : Prop :=
      Retires (.ssel sm c xd xa xb) s u fun h => KeepsAllButX g h sm 4 ∧ WritesLanes g h xd (full g) fun _ => if b = true then uni s g xa else uni s g xb
    let f := flagsRead s g
    pick true .al ∧ pick f.z .eq ∧ pick (!f.z) .ne ∧ pick (f.n != f.v) .lt ∧ pick (f.n == f.v) .ge ∧
    pick (f.z || f.n != f.v) .le ∧ pick (!f.z && f.n == f.v) .gt ∧ pick (!f.c) .ltu

/-- R25: when a die is lost, every port on it is lost with it (its link is disabled, for the reason that the die is lost), and other ports are
unaffected. -/
def Obligations.LostDiesLoseTheirPorts : Prop :=
  ∀ s d, Answers s → d < 384 → s.lostDies.contains d = false → Leads (.dieLoss d) s fun t =>
    (∀ l, linkThere l = true → linkDie l = d → linkStatus t l = BitVec.ofNat 32 (2 * 2 ^ 30 + 2)) ∧
    (∀ l, linkDie l ≠ d → linkStatus t l = linkStatus s l) ∧
    (∀ k, linkDie (.cxl k) ≠ d → mget t.cxlCap k = mget s.cxlCap k) ∧ (∀ k, linkDie (.peer k) ≠ d → mget t.peers k = mget s.peers k)
end

