-- ==== Sys2Proof/Laws/Maps.lean ====
section
/-!
SUPPORT. Laws of finite maps: what a map lists after an update.
-/
namespace Sys2Proof.Machine

@[simp] theorem mget_nil {α : Type} (n : Nat) : mget ([] : AMap α) n = none := rfl
@[simp] theorem mget_mset_same {α : Type} (m : AMap α) (n : Nat) (v : α) : mget (mset m n v) n = some v := by
  induction m with
  | nil => simp [mset, mget]
  | cons e m ih =>
    obtain ⟨k, w⟩ := e
    by_cases h : k = n <;> simp [mset, mget, h, ih]
theorem mget_mset_other {α : Type} (m : AMap α) {n i : Nat} (v : α) (h : i ≠ n) : mget (mset m n v) i = mget m i := by
  induction m with
  | nil => simp [mset, mget, Ne.symm h]
  | cons e m ih =>
    obtain ⟨k, w⟩ := e
    by_cases hk : k = n
    · subst hk; simp [mset, mget, Ne.symm h]
    · simp only [mset, hk, if_false, mget]
      rw [ih]
theorem mget_mset {α : Type} (m : AMap α) (n i : Nat) (v : α) : mget (mset m n v) i = if i = n then some v else mget m i := by
  by_cases h : i = n
  · subst h; simp
  · simp [h, mget_mset_other m v h]
@[simp] theorem mgetD_mset_same {α : Type} (m : AMap α) (n : Nat) (v d : α) : mgetD (mset m n v) n d = v := by simp [mgetD]
theorem mgetD_mset_other {α : Type} (m : AMap α) {n i : Nat} (v d : α) (h : i ≠ n) : mgetD (mset m n v) i d = mgetD m i d := by
  simp [mgetD, mget_mset_other m v h]
theorem mgetD_mset {α : Type} (m : AMap α) (n i : Nat) (v d : α) : mgetD (mset m n v) i d = if i = n then v else mgetD m i d := by
  simp only [mgetD, mget_mset]; split <;> rfl
theorem mget_mmod {α : Type} (m : AMap α) (n i : Nat) (f : α → α) : mget (mmod m n f) i = if i = n then (mget m n).map f else mget m i := by
  unfold mmod
  cases h : mget m n with
  | none => by_cases hi : i = n
            · subst hi; simp [h]
            · simp [hi]
  | some v => simp [mget_mset]
theorem mget_mdel {α : Type} (m : AMap α) (n i : Nat) : mget (mdel m n) i = if i = n then none else mget m i := by
  induction m with
  | nil => simp [mdel]
  | cons e m ih =>
    obtain ⟨k, w⟩ := e
    have hd : mdel ((k, w) :: m) n = if k = n then mdel m n else (k, w) :: mdel m n := by
      by_cases hk : k = n <;> simp [mdel, hk]
    rw [hd]
    by_cases hk : k = n
    · subst hk
      by_cases hi : i = k
      · subst hi; simpa using ih
      · simp [hi, ih, mget, Ne.symm hi]
    · by_cases hki : k = i
      · subst hki; simp [mget, hk]
      · simp [mget, hk, hki, ih]

/-! ### Bytes of numbers -/

@[simp] theorem leBytes_length (n v : Nat) : (leBytes n v).length = n := by
  induction n generalizing v with
  | zero => rfl
  | succ n ih => simp [leBytes, ih]
/-- A number is the number of its n bytes, modulo 256 to the n. -/
theorem leNat_leBytes (n v : Nat) : leNat (leBytes n v) = v % 256 ^ n := by
  induction n generalizing v with
  | zero => simp [leBytes, leNat, Nat.mod_one]
  | succ n ih =>
    have h : (BitVec.ofNat 8 (v % 256)).toNat = v % 256 := by
      rw [BitVec.toNat_ofNat]; omega
    rw [leBytes, leNat, ih, h, Nat.pow_succ, Nat.mul_comm (256 ^ n) 256, Nat.mod_mul]

end Sys2Proof.Machine
end

