-- ==== Sys2Proof/Laws/Memory.lean ====
section
/-!
SUPPORT. Laws of the byte memory: every operation keeps the canonical form, a read after a write gives what was written, and a write leaves
every other address alone.
-/
namespace Sys2Proof.Machine.Memory

theorem wfAbove_mono {lo lo' : Nat} {m : List Host.Cell} (h : lo' ≤ lo) (hw : wfAbove lo m = true) : wfAbove lo' m = true := by
  cases m with
  | nil => rfl
  | cons c m =>
    obtain ⟨k, v⟩ := c
    simp only [wfAbove, Bool.and_eq_true, decide_eq_true_eq] at hw ⊢
    exact ⟨⟨by omega, hw.1.2⟩, hw.2⟩
/-- Nothing is listed below the bound of a canonical memory. -/
theorem read_below {lo a : Nat} {m : List Host.Cell} (hw : wfAbove lo m = true) (ha : a < lo) : read m a = unlisted := by
  induction m generalizing lo with
  | nil => rfl
  | cons c m ih =>
    obtain ⟨k, v⟩ := c
    simp only [wfAbove, Bool.and_eq_true, decide_eq_true_eq] at hw
    have : k ≠ a := by omega
    simp only [read, this, if_false]
    exact ih hw.2 (by omega)
theorem write_wfAbove {lo a : Nat} {m : List Host.Cell} (b : Byte) (hw : wfAbove lo m = true) (ha : lo ≤ a) :
    wfAbove lo (write m a b) = true := by
  induction m generalizing lo with
  | nil => by_cases hb : b = unlisted <;> simp [write, hb, wfAbove, ha]
  | cons c m ih =>
    obtain ⟨k, v⟩ := c
    simp only [wfAbove, Bool.and_eq_true, decide_eq_true_eq] at hw
    obtain ⟨⟨h1, h2⟩, h3⟩ := hw
    by_cases hlt : a < k
    · by_cases hb : b = unlisted
      · simp [write, hlt, hb, wfAbove, h1, h2, h3]
      · have h3' : wfAbove (a + 1) ((k, v) :: m) = true := by
          simp [wfAbove, h2, h3]; omega
        simp only [write, hlt, if_true, hb, if_false]
        rw [wfAbove, h3']; simp [ha, hb]
    · by_cases heq : a = k
      · subst heq
        by_cases hb : b = unlisted
        · simp only [write, hb, if_true, Nat.lt_irrefl, if_false]
          exact wfAbove_mono (by omega) h3
        · simp [write, hb, wfAbove, h1, h3]
      · have hka : k + 1 ≤ a := by omega
        simp only [write, hlt, heq, if_false, wfAbove, h1, h2, ih h3 hka, decide_true, Bool.and_self]
/-- A write keeps the canonical form. -/
theorem write_wf {m : List Host.Cell} (a : Nat) (b : Byte) (hw : wf m = true) : wf (write m a b) = true :=
  write_wfAbove b hw (Nat.zero_le a)
/-- A store of several bytes keeps the canonical form. -/
theorem writeN_wf {m : List Host.Cell} (a : Nat) (bs : List Byte) (hw : wf m = true) : wf (writeN m a bs) = true := by
  induction bs generalizing m a with
  | nil => exact hw
  | cons b bs ih => exact ih (a + 1) (write_wf a b hw)
theorem filter_wfAbove {lo : Nat} {m : List Host.Cell} (p : Host.Cell → Bool) (hw : wfAbove lo m = true) :
    wfAbove lo (m.filter p) = true := by
  induction m generalizing lo with
  | nil => rfl
  | cons c m ih =>
    obtain ⟨k, v⟩ := c
    simp only [wfAbove, Bool.and_eq_true, decide_eq_true_eq] at hw
    by_cases hp : p (k, v) = true
    · simp [List.filter, hp, wfAbove, hw.1.1, hw.1.2, ih hw.2]
    · simp only [List.filter, hp]
      exact wfAbove_mono (by omega) (ih hw.2)
/-- Entries dropped by any test leave the canonical form. -/
theorem filter_wf {m : List Host.Cell} (p : Host.Cell → Bool) (hw : wf m = true) : wf (m.filter p) = true := filter_wfAbove p hw
/-- A cleared range leaves the canonical form. -/
theorem clear_wf {m : List Host.Cell} (lo hi : Nat) (hw : wf m = true) : wf (clear m lo hi) = true := filter_wf _ hw
/-- A fold of writes keeps the canonical form. -/
theorem foldl_write_wf {α : Type} (f : α → Nat) (v : α → Byte) (l : List α) {m : List Host.Cell} (hw : wf m = true) :
    wf (l.foldl (fun m c => write m (f c) (v c)) m) = true := by
  induction l generalizing m with
  | nil => exact hw
  | cons c l ih => exact ih (write_wf _ _ hw)
/-- The memory at reset is canonical. -/
theorem reset_wf : wf State.reset.mem = true := rfl

/-- A write leaves every other address alone. -/
theorem read_write_other (m : List Host.Cell) {a a' : Nat} (b : Byte) (h : a' ≠ a) : read (write m a b) a' = read m a' := by
  induction m with
  | nil => by_cases hb : b = unlisted <;> simp [write, hb, read, Ne.symm h]
  | cons c m ih =>
    obtain ⟨k, v⟩ := c
    by_cases hlt : a < k
    · by_cases hb : b = unlisted <;> simp [write, hlt, hb, read, Ne.symm h]
    · by_cases heq : a = k
      · subst heq
        by_cases hb : b = unlisted <;> simp [write, hb, read, Ne.symm h]
      · simp only [write, hlt, heq, if_false, read]
        rw [ih]
theorem read_write_sameAbove {lo : Nat} {m : List Host.Cell} (a : Nat) (b : Byte) (hw : wfAbove lo m = true) : read (write m a b) a = b := by
  induction m generalizing lo with
  | nil => by_cases hb : b = unlisted <;> simp [write, hb, read]
  | cons c m ih =>
    obtain ⟨k, v⟩ := c
    simp only [wfAbove, Bool.and_eq_true, decide_eq_true_eq] at hw
    by_cases hlt : a < k
    · by_cases hb : b = unlisted
      · have hka : k ≠ a := by omega
        simp [write, hlt, hb, read, hka, read_below hw.2 (show a < k + 1 by omega)]
      · simp [write, hlt, hb, read]
    · by_cases heq : a = k
      · subst heq
        by_cases hb : b = unlisted
        · simp [write, hb, read_below hw.2 (Nat.lt_succ_self a)]
        · simp [write, hb, read]
      · have hka : k ≠ a := fun h => heq h.symm
        simp [write, hlt, heq, read, hka, ih hw.2]
/-- A read after a write to the same address gives what was written. -/
theorem read_write_same {m : List Host.Cell} (a : Nat) (b : Byte) (hw : wf m = true) : read (write m a b) a = b :=
  read_write_sameAbove a b hw
/-- A store of several bytes leaves every address outside them alone. -/
theorem read_writeN_other (m : List Host.Cell) (a a' : Nat) (bs : List Byte) (h : a' < a ∨ a + bs.length ≤ a') :
    read (writeN m a bs) a' = read m a' := by
  induction bs generalizing m a with
  | nil => rfl
  | cons b bs ih =>
    simp only [List.length_cons] at h
    rw [writeN, ih (write m a b) (a + 1) (by omega), read_write_other m b (by omega)]
/-- Each byte of a store reads back. -/
theorem read_writeN_same {m : List Host.Cell} (a i : Nat) (bs : List Byte) (hw : wf m = true) (h : i < bs.length) :
    read (writeN m a bs) (a + i) = bs.getD i 0 := by
  induction bs generalizing m a i with
  | nil => simp at h
  | cons b bs ih =>
    cases i with
    | zero =>
      simp only [writeN, Nat.add_zero]
      rw [read_writeN_other _ (a + 1) a bs (by omega), read_write_same a b hw]; rfl
    | succ i =>
      have := ih (m := write m a b) (a + 1) i (write_wf a b hw) (by simpa using h)
      rw [writeN, show a + (i + 1) = a + 1 + i by omega, this]; rfl
/-- A cleared range reads as unlisted, every other address as before. -/
theorem read_clear (m : List Host.Cell) (lo hi a : Nat) :
    read (clear m lo hi) a = if lo ≤ a ∧ a < hi then unlisted else read m a := by
  induction m with
  | nil => simp [clear, read]
  | cons c m ih =>
    obtain ⟨k, v⟩ := c
    have hd : clear ((k, v) :: m) lo hi = if lo ≤ k ∧ k < hi then clear m lo hi else (k, v) :: clear m lo hi := by
      by_cases hin : lo ≤ k ∧ k < hi
      · simp [clear, hin]
      · simp only [clear, List.filter_cons]
        have hp : (!(decide (lo ≤ k) && decide (k < hi))) = true := by
          simp only [Bool.not_eq_true', Bool.and_eq_false_iff, decide_eq_false_iff_not]; omega
        simp [hp, hin]
    rw [hd]
    by_cases hka : k = a
    · subst hka
      by_cases hin : lo ≤ k ∧ k < hi <;> simp [hin, ih, read]
    · by_cases hin : lo ≤ k ∧ k < hi <;> simp [hin, ih, read, hka]

end Sys2Proof.Machine.Memory
end

