-- ==== Sys2Proof/Laws/State.lean ====
section
/-!
SUPPORT. What each state update leaves in each field: one lemma per field and update.
-/
namespace Sys2Proof.Machine

@[simp] theorem setGroup_lostd (s : State) (u : Nat) (g : Group) : (setGroup s u g).lostd = s.lostd := rfl
@[simp] theorem setGroup_grade (s : State) (u : Nat) (g : Group) : (setGroup s u g).grade = s.grade := rfl
@[simp] theorem setGroup_stage (s : State) (u : Nat) (g : Group) : (setGroup s u g).stage = s.stage := rfl
@[simp] theorem setGroup_ready (s : State) (u : Nat) (g : Group) : (setGroup s u g).ready = s.ready := rfl
@[simp] theorem setGroup_irqReady (s : State) (u : Nat) (g : Group) : (setGroup s u g).irqReady = s.irqReady := rfl
@[simp] theorem setGroup_irqPower (s : State) (u : Nat) (g : Group) : (setGroup s u g).irqPower = s.irqPower := rfl
@[simp] theorem setGroup_irqPgreq (s : State) (u : Nat) (g : Group) : (setGroup s u g).irqPgreq = s.irqPgreq := rfl
@[simp] theorem setGroup_irqLink (s : State) (u : Nat) (g : Group) : (setGroup s u g).irqLink = s.irqLink := rfl
@[simp] theorem setGroup_msix (s : State) (u : Nat) (g : Group) : (setGroup s u g).msix = s.msix := rfl
@[simp] theorem setGroup_links (s : State) (u : Nat) (g : Group) : (setGroup s u g).links = s.links := rfl
@[simp] theorem setGroup_cxlCap (s : State) (u : Nat) (g : Group) : (setGroup s u g).cxlCap = s.cxlCap := rfl
@[simp] theorem setGroup_peers (s : State) (u : Nat) (g : Group) : (setGroup s u g).peers = s.peers := rfl
@[simp] theorem setGroup_regions (s : State) (u : Nat) (g : Group) : (setGroup s u g).regions = s.regions := rfl
@[simp] theorem setGroup_lostDies (s : State) (u : Nat) (g : Group) : (setGroup s u g).lostDies = s.lostDies := rfl
@[simp] theorem setGroup_offDies (s : State) (u : Nat) (g : Group) : (setGroup s u g).offDies = s.offDies := rfl
@[simp] theorem setGroup_degraded (s : State) (u : Nat) (g : Group) : (setGroup s u g).degraded = s.degraded := rfl
@[simp] theorem setGroup_downLinks (s : State) (u : Nat) (g : Group) : (setGroup s u g).downLinks = s.downLinks := rfl
@[simp] theorem setGroup_sites (s : State) (u : Nat) (g : Group) : (setGroup s u g).sites = s.sites := rfl
@[simp] theorem setGroup_retiredCores (s : State) (u : Nat) (g : Group) : (setGroup s u g).retiredCores = s.retiredCores := rfl
@[simp] theorem setGroup_retiredEngines (s : State) (u : Nat) (g : Group) : (setGroup s u g).retiredEngines = s.retiredEngines := rfl
@[simp] theorem setGroup_retiredSlices (s : State) (u : Nat) (g : Group) : (setGroup s u g).retiredSlices = s.retiredSlices := rfl
@[simp] theorem setGroup_harvest (s : State) (u : Nat) (g : Group) : (setGroup s u g).harvest = s.harvest := rfl
@[simp] theorem setGroup_reports (s : State) (u : Nat) (g : Group) : (setGroup s u g).reports = s.reports := rfl
@[simp] theorem setGroup_volatileRet (s : State) (u : Nat) (g : Group) : (setGroup s u g).volatileRet = s.volatileRet := rfl
@[simp] theorem setGroup_harvCtl (s : State) (u : Nat) (g : Group) : (setGroup s u g).harvCtl = s.harvCtl := rfl
@[simp] theorem setGroup_errors (s : State) (u : Nat) (g : Group) : (setGroup s u g).errors = s.errors := rfl
@[simp] theorem setGroup_marked (s : State) (u : Nat) (g : Group) : (setGroup s u g).marked = s.marked := rfl
@[simp] theorem setGroup_offCtl (s : State) (u : Nat) (g : Group) : (setGroup s u g).offCtl = s.offCtl := rfl
@[simp] theorem setGroup_evac (s : State) (u : Nat) (g : Group) : (setGroup s u g).evac = s.evac := rfl
@[simp] theorem setGroup_ckptCtl (s : State) (u : Nat) (g : Group) : (setGroup s u g).ckptCtl = s.ckptCtl := rfl
@[simp] theorem setGroup_ckptBase (s : State) (u : Nat) (g : Group) : (setGroup s u g).ckptBase = s.ckptBase := rfl
@[simp] theorem setGroup_ckpts (s : State) (u : Nat) (g : Group) : (setGroup s u g).ckpts = s.ckpts := rfl
@[simp] theorem setGroup_ckptBusy (s : State) (u : Nat) (g : Group) : (setGroup s u g).ckptBusy = s.ckptBusy := rfl
@[simp] theorem setGroup_xlatInv (s : State) (u : Nat) (g : Group) : (setGroup s u g).xlatInv = s.xlatInv := rfl
@[simp] theorem setGroup_xlatHeld (s : State) (u : Nat) (g : Group) : (setGroup s u g).xlatHeld = s.xlatHeld := rfl
@[simp] theorem setGroup_pgAnswer (s : State) (u : Nat) (g : Group) : (setGroup s u g).pgAnswer = s.pgAnswer := rfl
@[simp] theorem setGroup_pgStale (s : State) (u : Nat) (g : Group) : (setGroup s u g).pgStale = s.pgStale := rfl
@[simp] theorem setGroup_ctxCreate (s : State) (u : Nat) (g : Group) : (setGroup s u g).ctxCreate = s.ctxCreate := rfl
@[simp] theorem setGroup_creating (s : State) (u : Nat) (g : Group) : (setGroup s u g).creating = s.creating := rfl
@[simp] theorem setGroup_createHeld (s : State) (u : Nat) (g : Group) : (setGroup s u g).createHeld = s.createHeld := rfl
@[simp] theorem setGroup_gload (s : State) (u : Nat) (g : Group) : (setGroup s u g).gload = s.gload := rfl
@[simp] theorem setGroup_loading (s : State) (u : Nat) (g : Group) : (setGroup s u g).loading = s.loading := rfl
@[simp] theorem setGroup_graphStat (s : State) (u : Nat) (g : Group) : (setGroup s u g).graphStat = s.graphStat := rfl
@[simp] theorem setGroup_sgRebind (s : State) (u : Nat) (g : Group) : (setGroup s u g).sgRebind = s.sgRebind := rfl
@[simp] theorem setGroup_importStat (s : State) (u : Nat) (g : Group) : (setGroup s u g).importStat = s.importStat := rfl
@[simp] theorem setGroup_importing (s : State) (u : Nat) (g : Group) : (setGroup s u g).importing = s.importing := rfl
@[simp] theorem setGroup_importHeld (s : State) (u : Nat) (g : Group) : (setGroup s u g).importHeld = s.importHeld := rfl
@[simp] theorem setGroup_secPolicy (s : State) (u : Nat) (g : Group) : (setGroup s u g).secPolicy = s.secPolicy := rfl
@[simp] theorem setGroup_secRefused (s : State) (u : Nat) (g : Group) : (setGroup s u g).secRefused = s.secRefused := rfl
@[simp] theorem setGroup_secAlarm (s : State) (u : Nat) (g : Group) : (setGroup s u g).secAlarm = s.secAlarm := rfl
@[simp] theorem setGroup_secAsserted (s : State) (u : Nat) (g : Group) : (setGroup s u g).secAsserted = s.secAsserted := rfl
@[simp] theorem setGroup_frozen (s : State) (u : Nat) (g : Group) : (setGroup s u g).frozen = s.frozen := rfl
@[simp] theorem setGroup_mintCtl (s : State) (u : Nat) (g : Group) : (setGroup s u g).mintCtl = s.mintCtl := rfl
@[simp] theorem setGroup_mintStat (s : State) (u : Nat) (g : Group) : (setGroup s u g).mintStat = s.mintStat := rfl
@[simp] theorem setGroup_mint (s : State) (u : Nat) (g : Group) : (setGroup s u g).mint = s.mint := rfl
@[simp] theorem setGroup_monitors (s : State) (u : Nat) (g : Group) : (setGroup s u g).monitors = s.monitors := rfl
@[simp] theorem setGroup_mem (s : State) (u : Nat) (g : Group) : (setGroup s u g).mem = s.mem := rfl
@[simp] theorem setGroup_log (s : State) (u : Nat) (g : Group) : (setGroup s u g).log = s.log := rfl
@[simp] theorem setGroup_fenceLog (s : State) (u : Nat) (g : Group) : (setGroup s u g).fenceLog = s.fenceLog := rfl
@[simp] theorem setGroup_bound (s : State) (u : Nat) (g : Group) : (setGroup s u g).bound = s.bound := rfl
@[simp] theorem setGroup_ctxs (s : State) (u : Nat) (g : Group) : (setGroup s u g).ctxs = s.ctxs := rfl
@[simp] theorem setGroup_grids (s : State) (u : Nat) (g : Group) : (setGroup s u g).grids = s.grids := rfl
@[simp] theorem setGroup_blocks (s : State) (u : Nat) (g : Group) : (setGroup s u g).blocks = s.blocks := rfl
@[simp] theorem setGroup_groups (s : State) (u : Nat) (g : Group) : (setGroup s u g).groups = mset s.groups u g := rfl
@[simp] theorem setGroup_cores (s : State) (u : Nat) (g : Group) : (setGroup s u g).cores = s.cores := rfl
@[simp] theorem setGroup_clusters (s : State) (u : Nat) (g : Group) : (setGroup s u g).clusters = s.clusters := rfl
@[simp] theorem setGroup_cmds (s : State) (u : Nat) (g : Group) : (setGroup s u g).cmds = s.cmds := rfl
@[simp] theorem setGroup_slices (s : State) (u : Nat) (g : Group) : (setGroup s u g).slices = s.slices := rfl
@[simp] theorem setGroup_posts (s : State) (u : Nat) (g : Group) : (setGroup s u g).posts = s.posts := rfl
@[simp] theorem setGroup_graphs (s : State) (u : Nat) (g : Group) : (setGroup s u g).graphs = s.graphs := rfl
@[simp] theorem setGroup_evSeq (s : State) (u : Nat) (g : Group) : (setGroup s u g).evSeq = s.evSeq := rfl
@[simp] theorem setGroup_hostData (s : State) (u : Nat) (g : Group) : (setGroup s u g).hostData = s.hostData := rfl
@[simp] theorem setGroup_fwMeas (s : State) (u : Nat) (g : Group) : (setGroup s u g).fwMeas = s.fwMeas := rfl
@[simp] theorem setGroup_fw (s : State) (u : Nat) (g : Group) : (setGroup s u g).fw = s.fw := rfl
@[simp] theorem setGroup_cur (s : State) (u : Nat) (g : Group) : (setGroup s u g).cur = s.cur := rfl
@[simp] theorem setGroup_inputs (s : State) (u : Nat) (g : Group) : (setGroup s u g).inputs = s.inputs := rfl
@[simp] theorem setGroup_free (s : State) (u : Nat) (g : Group) : (setGroup s u g).free = s.free := rfl
@[simp] theorem setGroup_nextUid (s : State) (u : Nat) (g : Group) : (setGroup s u g).nextUid = s.nextUid := rfl

@[simp] theorem modGroup_lostd (s : State) (u : Nat) (f : Group → Group) : (modGroup s u f).lostd = s.lostd := rfl
@[simp] theorem modGroup_grade (s : State) (u : Nat) (f : Group → Group) : (modGroup s u f).grade = s.grade := rfl
@[simp] theorem modGroup_stage (s : State) (u : Nat) (f : Group → Group) : (modGroup s u f).stage = s.stage := rfl
@[simp] theorem modGroup_ready (s : State) (u : Nat) (f : Group → Group) : (modGroup s u f).ready = s.ready := rfl
@[simp] theorem modGroup_irqReady (s : State) (u : Nat) (f : Group → Group) : (modGroup s u f).irqReady = s.irqReady := rfl
@[simp] theorem modGroup_irqPower (s : State) (u : Nat) (f : Group → Group) : (modGroup s u f).irqPower = s.irqPower := rfl
@[simp] theorem modGroup_irqPgreq (s : State) (u : Nat) (f : Group → Group) : (modGroup s u f).irqPgreq = s.irqPgreq := rfl
@[simp] theorem modGroup_irqLink (s : State) (u : Nat) (f : Group → Group) : (modGroup s u f).irqLink = s.irqLink := rfl
@[simp] theorem modGroup_msix (s : State) (u : Nat) (f : Group → Group) : (modGroup s u f).msix = s.msix := rfl
@[simp] theorem modGroup_links (s : State) (u : Nat) (f : Group → Group) : (modGroup s u f).links = s.links := rfl
@[simp] theorem modGroup_cxlCap (s : State) (u : Nat) (f : Group → Group) : (modGroup s u f).cxlCap = s.cxlCap := rfl
@[simp] theorem modGroup_peers (s : State) (u : Nat) (f : Group → Group) : (modGroup s u f).peers = s.peers := rfl
@[simp] theorem modGroup_regions (s : State) (u : Nat) (f : Group → Group) : (modGroup s u f).regions = s.regions := rfl
@[simp] theorem modGroup_lostDies (s : State) (u : Nat) (f : Group → Group) : (modGroup s u f).lostDies = s.lostDies := rfl
@[simp] theorem modGroup_offDies (s : State) (u : Nat) (f : Group → Group) : (modGroup s u f).offDies = s.offDies := rfl
@[simp] theorem modGroup_degraded (s : State) (u : Nat) (f : Group → Group) : (modGroup s u f).degraded = s.degraded := rfl
@[simp] theorem modGroup_downLinks (s : State) (u : Nat) (f : Group → Group) : (modGroup s u f).downLinks = s.downLinks := rfl
@[simp] theorem modGroup_sites (s : State) (u : Nat) (f : Group → Group) : (modGroup s u f).sites = s.sites := rfl
@[simp] theorem modGroup_retiredCores (s : State) (u : Nat) (f : Group → Group) : (modGroup s u f).retiredCores = s.retiredCores := rfl
@[simp] theorem modGroup_retiredEngines (s : State) (u : Nat) (f : Group → Group) : (modGroup s u f).retiredEngines = s.retiredEngines := rfl
@[simp] theorem modGroup_retiredSlices (s : State) (u : Nat) (f : Group → Group) : (modGroup s u f).retiredSlices = s.retiredSlices := rfl
@[simp] theorem modGroup_harvest (s : State) (u : Nat) (f : Group → Group) : (modGroup s u f).harvest = s.harvest := rfl
@[simp] theorem modGroup_reports (s : State) (u : Nat) (f : Group → Group) : (modGroup s u f).reports = s.reports := rfl
@[simp] theorem modGroup_volatileRet (s : State) (u : Nat) (f : Group → Group) : (modGroup s u f).volatileRet = s.volatileRet := rfl
@[simp] theorem modGroup_harvCtl (s : State) (u : Nat) (f : Group → Group) : (modGroup s u f).harvCtl = s.harvCtl := rfl
@[simp] theorem modGroup_errors (s : State) (u : Nat) (f : Group → Group) : (modGroup s u f).errors = s.errors := rfl
@[simp] theorem modGroup_marked (s : State) (u : Nat) (f : Group → Group) : (modGroup s u f).marked = s.marked := rfl
@[simp] theorem modGroup_offCtl (s : State) (u : Nat) (f : Group → Group) : (modGroup s u f).offCtl = s.offCtl := rfl
@[simp] theorem modGroup_evac (s : State) (u : Nat) (f : Group → Group) : (modGroup s u f).evac = s.evac := rfl
@[simp] theorem modGroup_ckptCtl (s : State) (u : Nat) (f : Group → Group) : (modGroup s u f).ckptCtl = s.ckptCtl := rfl
@[simp] theorem modGroup_ckptBase (s : State) (u : Nat) (f : Group → Group) : (modGroup s u f).ckptBase = s.ckptBase := rfl
@[simp] theorem modGroup_ckpts (s : State) (u : Nat) (f : Group → Group) : (modGroup s u f).ckpts = s.ckpts := rfl
@[simp] theorem modGroup_ckptBusy (s : State) (u : Nat) (f : Group → Group) : (modGroup s u f).ckptBusy = s.ckptBusy := rfl
@[simp] theorem modGroup_xlatInv (s : State) (u : Nat) (f : Group → Group) : (modGroup s u f).xlatInv = s.xlatInv := rfl
@[simp] theorem modGroup_xlatHeld (s : State) (u : Nat) (f : Group → Group) : (modGroup s u f).xlatHeld = s.xlatHeld := rfl
@[simp] theorem modGroup_pgAnswer (s : State) (u : Nat) (f : Group → Group) : (modGroup s u f).pgAnswer = s.pgAnswer := rfl
@[simp] theorem modGroup_pgStale (s : State) (u : Nat) (f : Group → Group) : (modGroup s u f).pgStale = s.pgStale := rfl
@[simp] theorem modGroup_ctxCreate (s : State) (u : Nat) (f : Group → Group) : (modGroup s u f).ctxCreate = s.ctxCreate := rfl
@[simp] theorem modGroup_creating (s : State) (u : Nat) (f : Group → Group) : (modGroup s u f).creating = s.creating := rfl
@[simp] theorem modGroup_createHeld (s : State) (u : Nat) (f : Group → Group) : (modGroup s u f).createHeld = s.createHeld := rfl
@[simp] theorem modGroup_gload (s : State) (u : Nat) (f : Group → Group) : (modGroup s u f).gload = s.gload := rfl
@[simp] theorem modGroup_loading (s : State) (u : Nat) (f : Group → Group) : (modGroup s u f).loading = s.loading := rfl
@[simp] theorem modGroup_graphStat (s : State) (u : Nat) (f : Group → Group) : (modGroup s u f).graphStat = s.graphStat := rfl
@[simp] theorem modGroup_sgRebind (s : State) (u : Nat) (f : Group → Group) : (modGroup s u f).sgRebind = s.sgRebind := rfl
@[simp] theorem modGroup_importStat (s : State) (u : Nat) (f : Group → Group) : (modGroup s u f).importStat = s.importStat := rfl
@[simp] theorem modGroup_importing (s : State) (u : Nat) (f : Group → Group) : (modGroup s u f).importing = s.importing := rfl
@[simp] theorem modGroup_importHeld (s : State) (u : Nat) (f : Group → Group) : (modGroup s u f).importHeld = s.importHeld := rfl
@[simp] theorem modGroup_secPolicy (s : State) (u : Nat) (f : Group → Group) : (modGroup s u f).secPolicy = s.secPolicy := rfl
@[simp] theorem modGroup_secRefused (s : State) (u : Nat) (f : Group → Group) : (modGroup s u f).secRefused = s.secRefused := rfl
@[simp] theorem modGroup_secAlarm (s : State) (u : Nat) (f : Group → Group) : (modGroup s u f).secAlarm = s.secAlarm := rfl
@[simp] theorem modGroup_secAsserted (s : State) (u : Nat) (f : Group → Group) : (modGroup s u f).secAsserted = s.secAsserted := rfl
@[simp] theorem modGroup_frozen (s : State) (u : Nat) (f : Group → Group) : (modGroup s u f).frozen = s.frozen := rfl
@[simp] theorem modGroup_mintCtl (s : State) (u : Nat) (f : Group → Group) : (modGroup s u f).mintCtl = s.mintCtl := rfl
@[simp] theorem modGroup_mintStat (s : State) (u : Nat) (f : Group → Group) : (modGroup s u f).mintStat = s.mintStat := rfl
@[simp] theorem modGroup_mint (s : State) (u : Nat) (f : Group → Group) : (modGroup s u f).mint = s.mint := rfl
@[simp] theorem modGroup_monitors (s : State) (u : Nat) (f : Group → Group) : (modGroup s u f).monitors = s.monitors := rfl
@[simp] theorem modGroup_mem (s : State) (u : Nat) (f : Group → Group) : (modGroup s u f).mem = s.mem := rfl
@[simp] theorem modGroup_log (s : State) (u : Nat) (f : Group → Group) : (modGroup s u f).log = s.log := rfl
@[simp] theorem modGroup_fenceLog (s : State) (u : Nat) (f : Group → Group) : (modGroup s u f).fenceLog = s.fenceLog := rfl
@[simp] theorem modGroup_bound (s : State) (u : Nat) (f : Group → Group) : (modGroup s u f).bound = s.bound := rfl
@[simp] theorem modGroup_ctxs (s : State) (u : Nat) (f : Group → Group) : (modGroup s u f).ctxs = s.ctxs := rfl
@[simp] theorem modGroup_grids (s : State) (u : Nat) (f : Group → Group) : (modGroup s u f).grids = s.grids := rfl
@[simp] theorem modGroup_blocks (s : State) (u : Nat) (f : Group → Group) : (modGroup s u f).blocks = s.blocks := rfl
@[simp] theorem modGroup_groups (s : State) (u : Nat) (f : Group → Group) : (modGroup s u f).groups = mmod s.groups u f := rfl
@[simp] theorem modGroup_cores (s : State) (u : Nat) (f : Group → Group) : (modGroup s u f).cores = s.cores := rfl
@[simp] theorem modGroup_clusters (s : State) (u : Nat) (f : Group → Group) : (modGroup s u f).clusters = s.clusters := rfl
@[simp] theorem modGroup_cmds (s : State) (u : Nat) (f : Group → Group) : (modGroup s u f).cmds = s.cmds := rfl
@[simp] theorem modGroup_slices (s : State) (u : Nat) (f : Group → Group) : (modGroup s u f).slices = s.slices := rfl
@[simp] theorem modGroup_posts (s : State) (u : Nat) (f : Group → Group) : (modGroup s u f).posts = s.posts := rfl
@[simp] theorem modGroup_graphs (s : State) (u : Nat) (f : Group → Group) : (modGroup s u f).graphs = s.graphs := rfl
@[simp] theorem modGroup_evSeq (s : State) (u : Nat) (f : Group → Group) : (modGroup s u f).evSeq = s.evSeq := rfl
@[simp] theorem modGroup_hostData (s : State) (u : Nat) (f : Group → Group) : (modGroup s u f).hostData = s.hostData := rfl
@[simp] theorem modGroup_fwMeas (s : State) (u : Nat) (f : Group → Group) : (modGroup s u f).fwMeas = s.fwMeas := rfl
@[simp] theorem modGroup_fw (s : State) (u : Nat) (f : Group → Group) : (modGroup s u f).fw = s.fw := rfl
@[simp] theorem modGroup_cur (s : State) (u : Nat) (f : Group → Group) : (modGroup s u f).cur = s.cur := rfl
@[simp] theorem modGroup_inputs (s : State) (u : Nat) (f : Group → Group) : (modGroup s u f).inputs = s.inputs := rfl
@[simp] theorem modGroup_free (s : State) (u : Nat) (f : Group → Group) : (modGroup s u f).free = s.free := rfl
@[simp] theorem modGroup_nextUid (s : State) (u : Nat) (f : Group → Group) : (modGroup s u f).nextUid = s.nextUid := rfl

@[simp] theorem modCtx_lostd (s : State) (c : Nat) (f : Ctx → Ctx) : (modCtx s c f).lostd = s.lostd := rfl
@[simp] theorem modCtx_grade (s : State) (c : Nat) (f : Ctx → Ctx) : (modCtx s c f).grade = s.grade := rfl
@[simp] theorem modCtx_stage (s : State) (c : Nat) (f : Ctx → Ctx) : (modCtx s c f).stage = s.stage := rfl
@[simp] theorem modCtx_ready (s : State) (c : Nat) (f : Ctx → Ctx) : (modCtx s c f).ready = s.ready := rfl
@[simp] theorem modCtx_irqReady (s : State) (c : Nat) (f : Ctx → Ctx) : (modCtx s c f).irqReady = s.irqReady := rfl
@[simp] theorem modCtx_irqPower (s : State) (c : Nat) (f : Ctx → Ctx) : (modCtx s c f).irqPower = s.irqPower := rfl
@[simp] theorem modCtx_irqPgreq (s : State) (c : Nat) (f : Ctx → Ctx) : (modCtx s c f).irqPgreq = s.irqPgreq := rfl
@[simp] theorem modCtx_irqLink (s : State) (c : Nat) (f : Ctx → Ctx) : (modCtx s c f).irqLink = s.irqLink := rfl
@[simp] theorem modCtx_msix (s : State) (c : Nat) (f : Ctx → Ctx) : (modCtx s c f).msix = s.msix := rfl
@[simp] theorem modCtx_links (s : State) (c : Nat) (f : Ctx → Ctx) : (modCtx s c f).links = s.links := rfl
@[simp] theorem modCtx_cxlCap (s : State) (c : Nat) (f : Ctx → Ctx) : (modCtx s c f).cxlCap = s.cxlCap := rfl
@[simp] theorem modCtx_peers (s : State) (c : Nat) (f : Ctx → Ctx) : (modCtx s c f).peers = s.peers := rfl
@[simp] theorem modCtx_regions (s : State) (c : Nat) (f : Ctx → Ctx) : (modCtx s c f).regions = s.regions := rfl
@[simp] theorem modCtx_lostDies (s : State) (c : Nat) (f : Ctx → Ctx) : (modCtx s c f).lostDies = s.lostDies := rfl
@[simp] theorem modCtx_offDies (s : State) (c : Nat) (f : Ctx → Ctx) : (modCtx s c f).offDies = s.offDies := rfl
@[simp] theorem modCtx_degraded (s : State) (c : Nat) (f : Ctx → Ctx) : (modCtx s c f).degraded = s.degraded := rfl
@[simp] theorem modCtx_downLinks (s : State) (c : Nat) (f : Ctx → Ctx) : (modCtx s c f).downLinks = s.downLinks := rfl
@[simp] theorem modCtx_sites (s : State) (c : Nat) (f : Ctx → Ctx) : (modCtx s c f).sites = s.sites := rfl
@[simp] theorem modCtx_retiredCores (s : State) (c : Nat) (f : Ctx → Ctx) : (modCtx s c f).retiredCores = s.retiredCores := rfl
@[simp] theorem modCtx_retiredEngines (s : State) (c : Nat) (f : Ctx → Ctx) : (modCtx s c f).retiredEngines = s.retiredEngines := rfl
@[simp] theorem modCtx_retiredSlices (s : State) (c : Nat) (f : Ctx → Ctx) : (modCtx s c f).retiredSlices = s.retiredSlices := rfl
@[simp] theorem modCtx_harvest (s : State) (c : Nat) (f : Ctx → Ctx) : (modCtx s c f).harvest = s.harvest := rfl
@[simp] theorem modCtx_reports (s : State) (c : Nat) (f : Ctx → Ctx) : (modCtx s c f).reports = s.reports := rfl
@[simp] theorem modCtx_volatileRet (s : State) (c : Nat) (f : Ctx → Ctx) : (modCtx s c f).volatileRet = s.volatileRet := rfl
@[simp] theorem modCtx_harvCtl (s : State) (c : Nat) (f : Ctx → Ctx) : (modCtx s c f).harvCtl = s.harvCtl := rfl
@[simp] theorem modCtx_errors (s : State) (c : Nat) (f : Ctx → Ctx) : (modCtx s c f).errors = s.errors := rfl
@[simp] theorem modCtx_marked (s : State) (c : Nat) (f : Ctx → Ctx) : (modCtx s c f).marked = s.marked := rfl
@[simp] theorem modCtx_offCtl (s : State) (c : Nat) (f : Ctx → Ctx) : (modCtx s c f).offCtl = s.offCtl := rfl
@[simp] theorem modCtx_evac (s : State) (c : Nat) (f : Ctx → Ctx) : (modCtx s c f).evac = s.evac := rfl
@[simp] theorem modCtx_ckptCtl (s : State) (c : Nat) (f : Ctx → Ctx) : (modCtx s c f).ckptCtl = s.ckptCtl := rfl
@[simp] theorem modCtx_ckptBase (s : State) (c : Nat) (f : Ctx → Ctx) : (modCtx s c f).ckptBase = s.ckptBase := rfl
@[simp] theorem modCtx_ckpts (s : State) (c : Nat) (f : Ctx → Ctx) : (modCtx s c f).ckpts = s.ckpts := rfl
@[simp] theorem modCtx_ckptBusy (s : State) (c : Nat) (f : Ctx → Ctx) : (modCtx s c f).ckptBusy = s.ckptBusy := rfl
@[simp] theorem modCtx_xlatInv (s : State) (c : Nat) (f : Ctx → Ctx) : (modCtx s c f).xlatInv = s.xlatInv := rfl
@[simp] theorem modCtx_xlatHeld (s : State) (c : Nat) (f : Ctx → Ctx) : (modCtx s c f).xlatHeld = s.xlatHeld := rfl
@[simp] theorem modCtx_pgAnswer (s : State) (c : Nat) (f : Ctx → Ctx) : (modCtx s c f).pgAnswer = s.pgAnswer := rfl
@[simp] theorem modCtx_pgStale (s : State) (c : Nat) (f : Ctx → Ctx) : (modCtx s c f).pgStale = s.pgStale := rfl
@[simp] theorem modCtx_ctxCreate (s : State) (c : Nat) (f : Ctx → Ctx) : (modCtx s c f).ctxCreate = s.ctxCreate := rfl
@[simp] theorem modCtx_creating (s : State) (c : Nat) (f : Ctx → Ctx) : (modCtx s c f).creating = s.creating := rfl
@[simp] theorem modCtx_createHeld (s : State) (c : Nat) (f : Ctx → Ctx) : (modCtx s c f).createHeld = s.createHeld := rfl
@[simp] theorem modCtx_gload (s : State) (c : Nat) (f : Ctx → Ctx) : (modCtx s c f).gload = s.gload := rfl
@[simp] theorem modCtx_loading (s : State) (c : Nat) (f : Ctx → Ctx) : (modCtx s c f).loading = s.loading := rfl
@[simp] theorem modCtx_graphStat (s : State) (c : Nat) (f : Ctx → Ctx) : (modCtx s c f).graphStat = s.graphStat := rfl
@[simp] theorem modCtx_sgRebind (s : State) (c : Nat) (f : Ctx → Ctx) : (modCtx s c f).sgRebind = s.sgRebind := rfl
@[simp] theorem modCtx_importStat (s : State) (c : Nat) (f : Ctx → Ctx) : (modCtx s c f).importStat = s.importStat := rfl
@[simp] theorem modCtx_importing (s : State) (c : Nat) (f : Ctx → Ctx) : (modCtx s c f).importing = s.importing := rfl
@[simp] theorem modCtx_importHeld (s : State) (c : Nat) (f : Ctx → Ctx) : (modCtx s c f).importHeld = s.importHeld := rfl
@[simp] theorem modCtx_secPolicy (s : State) (c : Nat) (f : Ctx → Ctx) : (modCtx s c f).secPolicy = s.secPolicy := rfl
@[simp] theorem modCtx_secRefused (s : State) (c : Nat) (f : Ctx → Ctx) : (modCtx s c f).secRefused = s.secRefused := rfl
@[simp] theorem modCtx_secAlarm (s : State) (c : Nat) (f : Ctx → Ctx) : (modCtx s c f).secAlarm = s.secAlarm := rfl
@[simp] theorem modCtx_secAsserted (s : State) (c : Nat) (f : Ctx → Ctx) : (modCtx s c f).secAsserted = s.secAsserted := rfl
@[simp] theorem modCtx_frozen (s : State) (c : Nat) (f : Ctx → Ctx) : (modCtx s c f).frozen = s.frozen := rfl
@[simp] theorem modCtx_mintCtl (s : State) (c : Nat) (f : Ctx → Ctx) : (modCtx s c f).mintCtl = s.mintCtl := rfl
@[simp] theorem modCtx_mintStat (s : State) (c : Nat) (f : Ctx → Ctx) : (modCtx s c f).mintStat = s.mintStat := rfl
@[simp] theorem modCtx_mint (s : State) (c : Nat) (f : Ctx → Ctx) : (modCtx s c f).mint = s.mint := rfl
@[simp] theorem modCtx_monitors (s : State) (c : Nat) (f : Ctx → Ctx) : (modCtx s c f).monitors = s.monitors := rfl
@[simp] theorem modCtx_mem (s : State) (c : Nat) (f : Ctx → Ctx) : (modCtx s c f).mem = s.mem := rfl
@[simp] theorem modCtx_log (s : State) (c : Nat) (f : Ctx → Ctx) : (modCtx s c f).log = s.log := rfl
@[simp] theorem modCtx_fenceLog (s : State) (c : Nat) (f : Ctx → Ctx) : (modCtx s c f).fenceLog = s.fenceLog := rfl
@[simp] theorem modCtx_bound (s : State) (c : Nat) (f : Ctx → Ctx) : (modCtx s c f).bound = s.bound := rfl
@[simp] theorem modCtx_ctxs (s : State) (c : Nat) (f : Ctx → Ctx) : (modCtx s c f).ctxs = mset s.ctxs c (f (ctxOf s c)) := rfl
@[simp] theorem modCtx_grids (s : State) (c : Nat) (f : Ctx → Ctx) : (modCtx s c f).grids = s.grids := rfl
@[simp] theorem modCtx_blocks (s : State) (c : Nat) (f : Ctx → Ctx) : (modCtx s c f).blocks = s.blocks := rfl
@[simp] theorem modCtx_groups (s : State) (c : Nat) (f : Ctx → Ctx) : (modCtx s c f).groups = s.groups := rfl
@[simp] theorem modCtx_cores (s : State) (c : Nat) (f : Ctx → Ctx) : (modCtx s c f).cores = s.cores := rfl
@[simp] theorem modCtx_clusters (s : State) (c : Nat) (f : Ctx → Ctx) : (modCtx s c f).clusters = s.clusters := rfl
@[simp] theorem modCtx_cmds (s : State) (c : Nat) (f : Ctx → Ctx) : (modCtx s c f).cmds = s.cmds := rfl
@[simp] theorem modCtx_slices (s : State) (c : Nat) (f : Ctx → Ctx) : (modCtx s c f).slices = s.slices := rfl
@[simp] theorem modCtx_posts (s : State) (c : Nat) (f : Ctx → Ctx) : (modCtx s c f).posts = s.posts := rfl
@[simp] theorem modCtx_graphs (s : State) (c : Nat) (f : Ctx → Ctx) : (modCtx s c f).graphs = s.graphs := rfl
@[simp] theorem modCtx_evSeq (s : State) (c : Nat) (f : Ctx → Ctx) : (modCtx s c f).evSeq = s.evSeq := rfl
@[simp] theorem modCtx_hostData (s : State) (c : Nat) (f : Ctx → Ctx) : (modCtx s c f).hostData = s.hostData := rfl
@[simp] theorem modCtx_fwMeas (s : State) (c : Nat) (f : Ctx → Ctx) : (modCtx s c f).fwMeas = s.fwMeas := rfl
@[simp] theorem modCtx_fw (s : State) (c : Nat) (f : Ctx → Ctx) : (modCtx s c f).fw = s.fw := rfl
@[simp] theorem modCtx_cur (s : State) (c : Nat) (f : Ctx → Ctx) : (modCtx s c f).cur = s.cur := rfl
@[simp] theorem modCtx_inputs (s : State) (c : Nat) (f : Ctx → Ctx) : (modCtx s c f).inputs = s.inputs := rfl
@[simp] theorem modCtx_free (s : State) (c : Nat) (f : Ctx → Ctx) : (modCtx s c f).free = s.free := rfl
@[simp] theorem modCtx_nextUid (s : State) (c : Nat) (f : Ctx → Ctx) : (modCtx s c f).nextUid = s.nextUid := rfl

@[simp] theorem modGrid_lostd (s : State) (n : Nat) (f : Grid → Grid) : (modGrid s n f).lostd = s.lostd := rfl
@[simp] theorem modGrid_grade (s : State) (n : Nat) (f : Grid → Grid) : (modGrid s n f).grade = s.grade := rfl
@[simp] theorem modGrid_stage (s : State) (n : Nat) (f : Grid → Grid) : (modGrid s n f).stage = s.stage := rfl
@[simp] theorem modGrid_ready (s : State) (n : Nat) (f : Grid → Grid) : (modGrid s n f).ready = s.ready := rfl
@[simp] theorem modGrid_irqReady (s : State) (n : Nat) (f : Grid → Grid) : (modGrid s n f).irqReady = s.irqReady := rfl
@[simp] theorem modGrid_irqPower (s : State) (n : Nat) (f : Grid → Grid) : (modGrid s n f).irqPower = s.irqPower := rfl
@[simp] theorem modGrid_irqPgreq (s : State) (n : Nat) (f : Grid → Grid) : (modGrid s n f).irqPgreq = s.irqPgreq := rfl
@[simp] theorem modGrid_irqLink (s : State) (n : Nat) (f : Grid → Grid) : (modGrid s n f).irqLink = s.irqLink := rfl
@[simp] theorem modGrid_msix (s : State) (n : Nat) (f : Grid → Grid) : (modGrid s n f).msix = s.msix := rfl
@[simp] theorem modGrid_links (s : State) (n : Nat) (f : Grid → Grid) : (modGrid s n f).links = s.links := rfl
@[simp] theorem modGrid_cxlCap (s : State) (n : Nat) (f : Grid → Grid) : (modGrid s n f).cxlCap = s.cxlCap := rfl
@[simp] theorem modGrid_peers (s : State) (n : Nat) (f : Grid → Grid) : (modGrid s n f).peers = s.peers := rfl
@[simp] theorem modGrid_regions (s : State) (n : Nat) (f : Grid → Grid) : (modGrid s n f).regions = s.regions := rfl
@[simp] theorem modGrid_lostDies (s : State) (n : Nat) (f : Grid → Grid) : (modGrid s n f).lostDies = s.lostDies := rfl
@[simp] theorem modGrid_offDies (s : State) (n : Nat) (f : Grid → Grid) : (modGrid s n f).offDies = s.offDies := rfl
@[simp] theorem modGrid_degraded (s : State) (n : Nat) (f : Grid → Grid) : (modGrid s n f).degraded = s.degraded := rfl
@[simp] theorem modGrid_downLinks (s : State) (n : Nat) (f : Grid → Grid) : (modGrid s n f).downLinks = s.downLinks := rfl
@[simp] theorem modGrid_sites (s : State) (n : Nat) (f : Grid → Grid) : (modGrid s n f).sites = s.sites := rfl
@[simp] theorem modGrid_retiredCores (s : State) (n : Nat) (f : Grid → Grid) : (modGrid s n f).retiredCores = s.retiredCores := rfl
@[simp] theorem modGrid_retiredEngines (s : State) (n : Nat) (f : Grid → Grid) : (modGrid s n f).retiredEngines = s.retiredEngines := rfl
@[simp] theorem modGrid_retiredSlices (s : State) (n : Nat) (f : Grid → Grid) : (modGrid s n f).retiredSlices = s.retiredSlices := rfl
@[simp] theorem modGrid_harvest (s : State) (n : Nat) (f : Grid → Grid) : (modGrid s n f).harvest = s.harvest := rfl
@[simp] theorem modGrid_reports (s : State) (n : Nat) (f : Grid → Grid) : (modGrid s n f).reports = s.reports := rfl
@[simp] theorem modGrid_volatileRet (s : State) (n : Nat) (f : Grid → Grid) : (modGrid s n f).volatileRet = s.volatileRet := rfl
@[simp] theorem modGrid_harvCtl (s : State) (n : Nat) (f : Grid → Grid) : (modGrid s n f).harvCtl = s.harvCtl := rfl
@[simp] theorem modGrid_errors (s : State) (n : Nat) (f : Grid → Grid) : (modGrid s n f).errors = s.errors := rfl
@[simp] theorem modGrid_marked (s : State) (n : Nat) (f : Grid → Grid) : (modGrid s n f).marked = s.marked := rfl
@[simp] theorem modGrid_offCtl (s : State) (n : Nat) (f : Grid → Grid) : (modGrid s n f).offCtl = s.offCtl := rfl
@[simp] theorem modGrid_evac (s : State) (n : Nat) (f : Grid → Grid) : (modGrid s n f).evac = s.evac := rfl
@[simp] theorem modGrid_ckptCtl (s : State) (n : Nat) (f : Grid → Grid) : (modGrid s n f).ckptCtl = s.ckptCtl := rfl
@[simp] theorem modGrid_ckptBase (s : State) (n : Nat) (f : Grid → Grid) : (modGrid s n f).ckptBase = s.ckptBase := rfl
@[simp] theorem modGrid_ckpts (s : State) (n : Nat) (f : Grid → Grid) : (modGrid s n f).ckpts = s.ckpts := rfl
@[simp] theorem modGrid_ckptBusy (s : State) (n : Nat) (f : Grid → Grid) : (modGrid s n f).ckptBusy = s.ckptBusy := rfl
@[simp] theorem modGrid_xlatInv (s : State) (n : Nat) (f : Grid → Grid) : (modGrid s n f).xlatInv = s.xlatInv := rfl
@[simp] theorem modGrid_xlatHeld (s : State) (n : Nat) (f : Grid → Grid) : (modGrid s n f).xlatHeld = s.xlatHeld := rfl
@[simp] theorem modGrid_pgAnswer (s : State) (n : Nat) (f : Grid → Grid) : (modGrid s n f).pgAnswer = s.pgAnswer := rfl
@[simp] theorem modGrid_pgStale (s : State) (n : Nat) (f : Grid → Grid) : (modGrid s n f).pgStale = s.pgStale := rfl
@[simp] theorem modGrid_ctxCreate (s : State) (n : Nat) (f : Grid → Grid) : (modGrid s n f).ctxCreate = s.ctxCreate := rfl
@[simp] theorem modGrid_creating (s : State) (n : Nat) (f : Grid → Grid) : (modGrid s n f).creating = s.creating := rfl
@[simp] theorem modGrid_createHeld (s : State) (n : Nat) (f : Grid → Grid) : (modGrid s n f).createHeld = s.createHeld := rfl
@[simp] theorem modGrid_gload (s : State) (n : Nat) (f : Grid → Grid) : (modGrid s n f).gload = s.gload := rfl
@[simp] theorem modGrid_loading (s : State) (n : Nat) (f : Grid → Grid) : (modGrid s n f).loading = s.loading := rfl
@[simp] theorem modGrid_graphStat (s : State) (n : Nat) (f : Grid → Grid) : (modGrid s n f).graphStat = s.graphStat := rfl
@[simp] theorem modGrid_sgRebind (s : State) (n : Nat) (f : Grid → Grid) : (modGrid s n f).sgRebind = s.sgRebind := rfl
@[simp] theorem modGrid_importStat (s : State) (n : Nat) (f : Grid → Grid) : (modGrid s n f).importStat = s.importStat := rfl
@[simp] theorem modGrid_importing (s : State) (n : Nat) (f : Grid → Grid) : (modGrid s n f).importing = s.importing := rfl
@[simp] theorem modGrid_importHeld (s : State) (n : Nat) (f : Grid → Grid) : (modGrid s n f).importHeld = s.importHeld := rfl
@[simp] theorem modGrid_secPolicy (s : State) (n : Nat) (f : Grid → Grid) : (modGrid s n f).secPolicy = s.secPolicy := rfl
@[simp] theorem modGrid_secRefused (s : State) (n : Nat) (f : Grid → Grid) : (modGrid s n f).secRefused = s.secRefused := rfl
@[simp] theorem modGrid_secAlarm (s : State) (n : Nat) (f : Grid → Grid) : (modGrid s n f).secAlarm = s.secAlarm := rfl
@[simp] theorem modGrid_secAsserted (s : State) (n : Nat) (f : Grid → Grid) : (modGrid s n f).secAsserted = s.secAsserted := rfl
@[simp] theorem modGrid_frozen (s : State) (n : Nat) (f : Grid → Grid) : (modGrid s n f).frozen = s.frozen := rfl
@[simp] theorem modGrid_mintCtl (s : State) (n : Nat) (f : Grid → Grid) : (modGrid s n f).mintCtl = s.mintCtl := rfl
@[simp] theorem modGrid_mintStat (s : State) (n : Nat) (f : Grid → Grid) : (modGrid s n f).mintStat = s.mintStat := rfl
@[simp] theorem modGrid_mint (s : State) (n : Nat) (f : Grid → Grid) : (modGrid s n f).mint = s.mint := rfl
@[simp] theorem modGrid_monitors (s : State) (n : Nat) (f : Grid → Grid) : (modGrid s n f).monitors = s.monitors := rfl
@[simp] theorem modGrid_mem (s : State) (n : Nat) (f : Grid → Grid) : (modGrid s n f).mem = s.mem := rfl
@[simp] theorem modGrid_log (s : State) (n : Nat) (f : Grid → Grid) : (modGrid s n f).log = s.log := rfl
@[simp] theorem modGrid_fenceLog (s : State) (n : Nat) (f : Grid → Grid) : (modGrid s n f).fenceLog = s.fenceLog := rfl
@[simp] theorem modGrid_bound (s : State) (n : Nat) (f : Grid → Grid) : (modGrid s n f).bound = s.bound := rfl
@[simp] theorem modGrid_ctxs (s : State) (n : Nat) (f : Grid → Grid) : (modGrid s n f).ctxs = s.ctxs := rfl
@[simp] theorem modGrid_grids (s : State) (n : Nat) (f : Grid → Grid) : (modGrid s n f).grids = mmod s.grids n f := rfl
@[simp] theorem modGrid_blocks (s : State) (n : Nat) (f : Grid → Grid) : (modGrid s n f).blocks = s.blocks := rfl
@[simp] theorem modGrid_groups (s : State) (n : Nat) (f : Grid → Grid) : (modGrid s n f).groups = s.groups := rfl
@[simp] theorem modGrid_cores (s : State) (n : Nat) (f : Grid → Grid) : (modGrid s n f).cores = s.cores := rfl
@[simp] theorem modGrid_clusters (s : State) (n : Nat) (f : Grid → Grid) : (modGrid s n f).clusters = s.clusters := rfl
@[simp] theorem modGrid_cmds (s : State) (n : Nat) (f : Grid → Grid) : (modGrid s n f).cmds = s.cmds := rfl
@[simp] theorem modGrid_slices (s : State) (n : Nat) (f : Grid → Grid) : (modGrid s n f).slices = s.slices := rfl
@[simp] theorem modGrid_posts (s : State) (n : Nat) (f : Grid → Grid) : (modGrid s n f).posts = s.posts := rfl
@[simp] theorem modGrid_graphs (s : State) (n : Nat) (f : Grid → Grid) : (modGrid s n f).graphs = s.graphs := rfl
@[simp] theorem modGrid_evSeq (s : State) (n : Nat) (f : Grid → Grid) : (modGrid s n f).evSeq = s.evSeq := rfl
@[simp] theorem modGrid_hostData (s : State) (n : Nat) (f : Grid → Grid) : (modGrid s n f).hostData = s.hostData := rfl
@[simp] theorem modGrid_fwMeas (s : State) (n : Nat) (f : Grid → Grid) : (modGrid s n f).fwMeas = s.fwMeas := rfl
@[simp] theorem modGrid_fw (s : State) (n : Nat) (f : Grid → Grid) : (modGrid s n f).fw = s.fw := rfl
@[simp] theorem modGrid_cur (s : State) (n : Nat) (f : Grid → Grid) : (modGrid s n f).cur = s.cur := rfl
@[simp] theorem modGrid_inputs (s : State) (n : Nat) (f : Grid → Grid) : (modGrid s n f).inputs = s.inputs := rfl
@[simp] theorem modGrid_free (s : State) (n : Nat) (f : Grid → Grid) : (modGrid s n f).free = s.free := rfl
@[simp] theorem modGrid_nextUid (s : State) (n : Nat) (f : Grid → Grid) : (modGrid s n f).nextUid = s.nextUid := rfl

@[simp] theorem modBlock_lostd (s : State) (n : Nat) (f : Block → Block) : (modBlock s n f).lostd = s.lostd := rfl
@[simp] theorem modBlock_grade (s : State) (n : Nat) (f : Block → Block) : (modBlock s n f).grade = s.grade := rfl
@[simp] theorem modBlock_stage (s : State) (n : Nat) (f : Block → Block) : (modBlock s n f).stage = s.stage := rfl
@[simp] theorem modBlock_ready (s : State) (n : Nat) (f : Block → Block) : (modBlock s n f).ready = s.ready := rfl
@[simp] theorem modBlock_irqReady (s : State) (n : Nat) (f : Block → Block) : (modBlock s n f).irqReady = s.irqReady := rfl
@[simp] theorem modBlock_irqPower (s : State) (n : Nat) (f : Block → Block) : (modBlock s n f).irqPower = s.irqPower := rfl
@[simp] theorem modBlock_irqPgreq (s : State) (n : Nat) (f : Block → Block) : (modBlock s n f).irqPgreq = s.irqPgreq := rfl
@[simp] theorem modBlock_irqLink (s : State) (n : Nat) (f : Block → Block) : (modBlock s n f).irqLink = s.irqLink := rfl
@[simp] theorem modBlock_msix (s : State) (n : Nat) (f : Block → Block) : (modBlock s n f).msix = s.msix := rfl
@[simp] theorem modBlock_links (s : State) (n : Nat) (f : Block → Block) : (modBlock s n f).links = s.links := rfl
@[simp] theorem modBlock_cxlCap (s : State) (n : Nat) (f : Block → Block) : (modBlock s n f).cxlCap = s.cxlCap := rfl
@[simp] theorem modBlock_peers (s : State) (n : Nat) (f : Block → Block) : (modBlock s n f).peers = s.peers := rfl
@[simp] theorem modBlock_regions (s : State) (n : Nat) (f : Block → Block) : (modBlock s n f).regions = s.regions := rfl
@[simp] theorem modBlock_lostDies (s : State) (n : Nat) (f : Block → Block) : (modBlock s n f).lostDies = s.lostDies := rfl
@[simp] theorem modBlock_offDies (s : State) (n : Nat) (f : Block → Block) : (modBlock s n f).offDies = s.offDies := rfl
@[simp] theorem modBlock_degraded (s : State) (n : Nat) (f : Block → Block) : (modBlock s n f).degraded = s.degraded := rfl
@[simp] theorem modBlock_downLinks (s : State) (n : Nat) (f : Block → Block) : (modBlock s n f).downLinks = s.downLinks := rfl
@[simp] theorem modBlock_sites (s : State) (n : Nat) (f : Block → Block) : (modBlock s n f).sites = s.sites := rfl
@[simp] theorem modBlock_retiredCores (s : State) (n : Nat) (f : Block → Block) : (modBlock s n f).retiredCores = s.retiredCores := rfl
@[simp] theorem modBlock_retiredEngines (s : State) (n : Nat) (f : Block → Block) : (modBlock s n f).retiredEngines = s.retiredEngines := rfl
@[simp] theorem modBlock_retiredSlices (s : State) (n : Nat) (f : Block → Block) : (modBlock s n f).retiredSlices = s.retiredSlices := rfl
@[simp] theorem modBlock_harvest (s : State) (n : Nat) (f : Block → Block) : (modBlock s n f).harvest = s.harvest := rfl
@[simp] theorem modBlock_reports (s : State) (n : Nat) (f : Block → Block) : (modBlock s n f).reports = s.reports := rfl
@[simp] theorem modBlock_volatileRet (s : State) (n : Nat) (f : Block → Block) : (modBlock s n f).volatileRet = s.volatileRet := rfl
@[simp] theorem modBlock_harvCtl (s : State) (n : Nat) (f : Block → Block) : (modBlock s n f).harvCtl = s.harvCtl := rfl
@[simp] theorem modBlock_errors (s : State) (n : Nat) (f : Block → Block) : (modBlock s n f).errors = s.errors := rfl
@[simp] theorem modBlock_marked (s : State) (n : Nat) (f : Block → Block) : (modBlock s n f).marked = s.marked := rfl
@[simp] theorem modBlock_offCtl (s : State) (n : Nat) (f : Block → Block) : (modBlock s n f).offCtl = s.offCtl := rfl
@[simp] theorem modBlock_evac (s : State) (n : Nat) (f : Block → Block) : (modBlock s n f).evac = s.evac := rfl
@[simp] theorem modBlock_ckptCtl (s : State) (n : Nat) (f : Block → Block) : (modBlock s n f).ckptCtl = s.ckptCtl := rfl
@[simp] theorem modBlock_ckptBase (s : State) (n : Nat) (f : Block → Block) : (modBlock s n f).ckptBase = s.ckptBase := rfl
@[simp] theorem modBlock_ckpts (s : State) (n : Nat) (f : Block → Block) : (modBlock s n f).ckpts = s.ckpts := rfl
@[simp] theorem modBlock_ckptBusy (s : State) (n : Nat) (f : Block → Block) : (modBlock s n f).ckptBusy = s.ckptBusy := rfl
@[simp] theorem modBlock_xlatInv (s : State) (n : Nat) (f : Block → Block) : (modBlock s n f).xlatInv = s.xlatInv := rfl
@[simp] theorem modBlock_xlatHeld (s : State) (n : Nat) (f : Block → Block) : (modBlock s n f).xlatHeld = s.xlatHeld := rfl
@[simp] theorem modBlock_pgAnswer (s : State) (n : Nat) (f : Block → Block) : (modBlock s n f).pgAnswer = s.pgAnswer := rfl
@[simp] theorem modBlock_pgStale (s : State) (n : Nat) (f : Block → Block) : (modBlock s n f).pgStale = s.pgStale := rfl
@[simp] theorem modBlock_ctxCreate (s : State) (n : Nat) (f : Block → Block) : (modBlock s n f).ctxCreate = s.ctxCreate := rfl
@[simp] theorem modBlock_creating (s : State) (n : Nat) (f : Block → Block) : (modBlock s n f).creating = s.creating := rfl
@[simp] theorem modBlock_createHeld (s : State) (n : Nat) (f : Block → Block) : (modBlock s n f).createHeld = s.createHeld := rfl
@[simp] theorem modBlock_gload (s : State) (n : Nat) (f : Block → Block) : (modBlock s n f).gload = s.gload := rfl
@[simp] theorem modBlock_loading (s : State) (n : Nat) (f : Block → Block) : (modBlock s n f).loading = s.loading := rfl
@[simp] theorem modBlock_graphStat (s : State) (n : Nat) (f : Block → Block) : (modBlock s n f).graphStat = s.graphStat := rfl
@[simp] theorem modBlock_sgRebind (s : State) (n : Nat) (f : Block → Block) : (modBlock s n f).sgRebind = s.sgRebind := rfl
@[simp] theorem modBlock_importStat (s : State) (n : Nat) (f : Block → Block) : (modBlock s n f).importStat = s.importStat := rfl
@[simp] theorem modBlock_importing (s : State) (n : Nat) (f : Block → Block) : (modBlock s n f).importing = s.importing := rfl
@[simp] theorem modBlock_importHeld (s : State) (n : Nat) (f : Block → Block) : (modBlock s n f).importHeld = s.importHeld := rfl
@[simp] theorem modBlock_secPolicy (s : State) (n : Nat) (f : Block → Block) : (modBlock s n f).secPolicy = s.secPolicy := rfl
@[simp] theorem modBlock_secRefused (s : State) (n : Nat) (f : Block → Block) : (modBlock s n f).secRefused = s.secRefused := rfl
@[simp] theorem modBlock_secAlarm (s : State) (n : Nat) (f : Block → Block) : (modBlock s n f).secAlarm = s.secAlarm := rfl
@[simp] theorem modBlock_secAsserted (s : State) (n : Nat) (f : Block → Block) : (modBlock s n f).secAsserted = s.secAsserted := rfl
@[simp] theorem modBlock_frozen (s : State) (n : Nat) (f : Block → Block) : (modBlock s n f).frozen = s.frozen := rfl
@[simp] theorem modBlock_mintCtl (s : State) (n : Nat) (f : Block → Block) : (modBlock s n f).mintCtl = s.mintCtl := rfl
@[simp] theorem modBlock_mintStat (s : State) (n : Nat) (f : Block → Block) : (modBlock s n f).mintStat = s.mintStat := rfl
@[simp] theorem modBlock_mint (s : State) (n : Nat) (f : Block → Block) : (modBlock s n f).mint = s.mint := rfl
@[simp] theorem modBlock_monitors (s : State) (n : Nat) (f : Block → Block) : (modBlock s n f).monitors = s.monitors := rfl
@[simp] theorem modBlock_mem (s : State) (n : Nat) (f : Block → Block) : (modBlock s n f).mem = s.mem := rfl
@[simp] theorem modBlock_log (s : State) (n : Nat) (f : Block → Block) : (modBlock s n f).log = s.log := rfl
@[simp] theorem modBlock_fenceLog (s : State) (n : Nat) (f : Block → Block) : (modBlock s n f).fenceLog = s.fenceLog := rfl
@[simp] theorem modBlock_bound (s : State) (n : Nat) (f : Block → Block) : (modBlock s n f).bound = s.bound := rfl
@[simp] theorem modBlock_ctxs (s : State) (n : Nat) (f : Block → Block) : (modBlock s n f).ctxs = s.ctxs := rfl
@[simp] theorem modBlock_grids (s : State) (n : Nat) (f : Block → Block) : (modBlock s n f).grids = s.grids := rfl
@[simp] theorem modBlock_blocks (s : State) (n : Nat) (f : Block → Block) : (modBlock s n f).blocks = mmod s.blocks n f := rfl
@[simp] theorem modBlock_groups (s : State) (n : Nat) (f : Block → Block) : (modBlock s n f).groups = s.groups := rfl
@[simp] theorem modBlock_cores (s : State) (n : Nat) (f : Block → Block) : (modBlock s n f).cores = s.cores := rfl
@[simp] theorem modBlock_clusters (s : State) (n : Nat) (f : Block → Block) : (modBlock s n f).clusters = s.clusters := rfl
@[simp] theorem modBlock_cmds (s : State) (n : Nat) (f : Block → Block) : (modBlock s n f).cmds = s.cmds := rfl
@[simp] theorem modBlock_slices (s : State) (n : Nat) (f : Block → Block) : (modBlock s n f).slices = s.slices := rfl
@[simp] theorem modBlock_posts (s : State) (n : Nat) (f : Block → Block) : (modBlock s n f).posts = s.posts := rfl
@[simp] theorem modBlock_graphs (s : State) (n : Nat) (f : Block → Block) : (modBlock s n f).graphs = s.graphs := rfl
@[simp] theorem modBlock_evSeq (s : State) (n : Nat) (f : Block → Block) : (modBlock s n f).evSeq = s.evSeq := rfl
@[simp] theorem modBlock_hostData (s : State) (n : Nat) (f : Block → Block) : (modBlock s n f).hostData = s.hostData := rfl
@[simp] theorem modBlock_fwMeas (s : State) (n : Nat) (f : Block → Block) : (modBlock s n f).fwMeas = s.fwMeas := rfl
@[simp] theorem modBlock_fw (s : State) (n : Nat) (f : Block → Block) : (modBlock s n f).fw = s.fw := rfl
@[simp] theorem modBlock_cur (s : State) (n : Nat) (f : Block → Block) : (modBlock s n f).cur = s.cur := rfl
@[simp] theorem modBlock_inputs (s : State) (n : Nat) (f : Block → Block) : (modBlock s n f).inputs = s.inputs := rfl
@[simp] theorem modBlock_free (s : State) (n : Nat) (f : Block → Block) : (modBlock s n f).free = s.free := rfl
@[simp] theorem modBlock_nextUid (s : State) (n : Nat) (f : Block → Block) : (modBlock s n f).nextUid = s.nextUid := rfl

@[simp] theorem modCore_lostd (s : State) (c : Nat) (f : Core → Core) : (modCore s c f).lostd = s.lostd := rfl
@[simp] theorem modCore_grade (s : State) (c : Nat) (f : Core → Core) : (modCore s c f).grade = s.grade := rfl
@[simp] theorem modCore_stage (s : State) (c : Nat) (f : Core → Core) : (modCore s c f).stage = s.stage := rfl
@[simp] theorem modCore_ready (s : State) (c : Nat) (f : Core → Core) : (modCore s c f).ready = s.ready := rfl
@[simp] theorem modCore_irqReady (s : State) (c : Nat) (f : Core → Core) : (modCore s c f).irqReady = s.irqReady := rfl
@[simp] theorem modCore_irqPower (s : State) (c : Nat) (f : Core → Core) : (modCore s c f).irqPower = s.irqPower := rfl
@[simp] theorem modCore_irqPgreq (s : State) (c : Nat) (f : Core → Core) : (modCore s c f).irqPgreq = s.irqPgreq := rfl
@[simp] theorem modCore_irqLink (s : State) (c : Nat) (f : Core → Core) : (modCore s c f).irqLink = s.irqLink := rfl
@[simp] theorem modCore_msix (s : State) (c : Nat) (f : Core → Core) : (modCore s c f).msix = s.msix := rfl
@[simp] theorem modCore_links (s : State) (c : Nat) (f : Core → Core) : (modCore s c f).links = s.links := rfl
@[simp] theorem modCore_cxlCap (s : State) (c : Nat) (f : Core → Core) : (modCore s c f).cxlCap = s.cxlCap := rfl
@[simp] theorem modCore_peers (s : State) (c : Nat) (f : Core → Core) : (modCore s c f).peers = s.peers := rfl
@[simp] theorem modCore_regions (s : State) (c : Nat) (f : Core → Core) : (modCore s c f).regions = s.regions := rfl
@[simp] theorem modCore_lostDies (s : State) (c : Nat) (f : Core → Core) : (modCore s c f).lostDies = s.lostDies := rfl
@[simp] theorem modCore_offDies (s : State) (c : Nat) (f : Core → Core) : (modCore s c f).offDies = s.offDies := rfl
@[simp] theorem modCore_degraded (s : State) (c : Nat) (f : Core → Core) : (modCore s c f).degraded = s.degraded := rfl
@[simp] theorem modCore_downLinks (s : State) (c : Nat) (f : Core → Core) : (modCore s c f).downLinks = s.downLinks := rfl
@[simp] theorem modCore_sites (s : State) (c : Nat) (f : Core → Core) : (modCore s c f).sites = s.sites := rfl
@[simp] theorem modCore_retiredCores (s : State) (c : Nat) (f : Core → Core) : (modCore s c f).retiredCores = s.retiredCores := rfl
@[simp] theorem modCore_retiredEngines (s : State) (c : Nat) (f : Core → Core) : (modCore s c f).retiredEngines = s.retiredEngines := rfl
@[simp] theorem modCore_retiredSlices (s : State) (c : Nat) (f : Core → Core) : (modCore s c f).retiredSlices = s.retiredSlices := rfl
@[simp] theorem modCore_harvest (s : State) (c : Nat) (f : Core → Core) : (modCore s c f).harvest = s.harvest := rfl
@[simp] theorem modCore_reports (s : State) (c : Nat) (f : Core → Core) : (modCore s c f).reports = s.reports := rfl
@[simp] theorem modCore_volatileRet (s : State) (c : Nat) (f : Core → Core) : (modCore s c f).volatileRet = s.volatileRet := rfl
@[simp] theorem modCore_harvCtl (s : State) (c : Nat) (f : Core → Core) : (modCore s c f).harvCtl = s.harvCtl := rfl
@[simp] theorem modCore_errors (s : State) (c : Nat) (f : Core → Core) : (modCore s c f).errors = s.errors := rfl
@[simp] theorem modCore_marked (s : State) (c : Nat) (f : Core → Core) : (modCore s c f).marked = s.marked := rfl
@[simp] theorem modCore_offCtl (s : State) (c : Nat) (f : Core → Core) : (modCore s c f).offCtl = s.offCtl := rfl
@[simp] theorem modCore_evac (s : State) (c : Nat) (f : Core → Core) : (modCore s c f).evac = s.evac := rfl
@[simp] theorem modCore_ckptCtl (s : State) (c : Nat) (f : Core → Core) : (modCore s c f).ckptCtl = s.ckptCtl := rfl
@[simp] theorem modCore_ckptBase (s : State) (c : Nat) (f : Core → Core) : (modCore s c f).ckptBase = s.ckptBase := rfl
@[simp] theorem modCore_ckpts (s : State) (c : Nat) (f : Core → Core) : (modCore s c f).ckpts = s.ckpts := rfl
@[simp] theorem modCore_ckptBusy (s : State) (c : Nat) (f : Core → Core) : (modCore s c f).ckptBusy = s.ckptBusy := rfl
@[simp] theorem modCore_xlatInv (s : State) (c : Nat) (f : Core → Core) : (modCore s c f).xlatInv = s.xlatInv := rfl
@[simp] theorem modCore_xlatHeld (s : State) (c : Nat) (f : Core → Core) : (modCore s c f).xlatHeld = s.xlatHeld := rfl
@[simp] theorem modCore_pgAnswer (s : State) (c : Nat) (f : Core → Core) : (modCore s c f).pgAnswer = s.pgAnswer := rfl
@[simp] theorem modCore_pgStale (s : State) (c : Nat) (f : Core → Core) : (modCore s c f).pgStale = s.pgStale := rfl
@[simp] theorem modCore_ctxCreate (s : State) (c : Nat) (f : Core → Core) : (modCore s c f).ctxCreate = s.ctxCreate := rfl
@[simp] theorem modCore_creating (s : State) (c : Nat) (f : Core → Core) : (modCore s c f).creating = s.creating := rfl
@[simp] theorem modCore_createHeld (s : State) (c : Nat) (f : Core → Core) : (modCore s c f).createHeld = s.createHeld := rfl
@[simp] theorem modCore_gload (s : State) (c : Nat) (f : Core → Core) : (modCore s c f).gload = s.gload := rfl
@[simp] theorem modCore_loading (s : State) (c : Nat) (f : Core → Core) : (modCore s c f).loading = s.loading := rfl
@[simp] theorem modCore_graphStat (s : State) (c : Nat) (f : Core → Core) : (modCore s c f).graphStat = s.graphStat := rfl
@[simp] theorem modCore_sgRebind (s : State) (c : Nat) (f : Core → Core) : (modCore s c f).sgRebind = s.sgRebind := rfl
@[simp] theorem modCore_importStat (s : State) (c : Nat) (f : Core → Core) : (modCore s c f).importStat = s.importStat := rfl
@[simp] theorem modCore_importing (s : State) (c : Nat) (f : Core → Core) : (modCore s c f).importing = s.importing := rfl
@[simp] theorem modCore_importHeld (s : State) (c : Nat) (f : Core → Core) : (modCore s c f).importHeld = s.importHeld := rfl
@[simp] theorem modCore_secPolicy (s : State) (c : Nat) (f : Core → Core) : (modCore s c f).secPolicy = s.secPolicy := rfl
@[simp] theorem modCore_secRefused (s : State) (c : Nat) (f : Core → Core) : (modCore s c f).secRefused = s.secRefused := rfl
@[simp] theorem modCore_secAlarm (s : State) (c : Nat) (f : Core → Core) : (modCore s c f).secAlarm = s.secAlarm := rfl
@[simp] theorem modCore_secAsserted (s : State) (c : Nat) (f : Core → Core) : (modCore s c f).secAsserted = s.secAsserted := rfl
@[simp] theorem modCore_frozen (s : State) (c : Nat) (f : Core → Core) : (modCore s c f).frozen = s.frozen := rfl
@[simp] theorem modCore_mintCtl (s : State) (c : Nat) (f : Core → Core) : (modCore s c f).mintCtl = s.mintCtl := rfl
@[simp] theorem modCore_mintStat (s : State) (c : Nat) (f : Core → Core) : (modCore s c f).mintStat = s.mintStat := rfl
@[simp] theorem modCore_mint (s : State) (c : Nat) (f : Core → Core) : (modCore s c f).mint = s.mint := rfl
@[simp] theorem modCore_monitors (s : State) (c : Nat) (f : Core → Core) : (modCore s c f).monitors = s.monitors := rfl
@[simp] theorem modCore_mem (s : State) (c : Nat) (f : Core → Core) : (modCore s c f).mem = s.mem := rfl
@[simp] theorem modCore_log (s : State) (c : Nat) (f : Core → Core) : (modCore s c f).log = s.log := rfl
@[simp] theorem modCore_fenceLog (s : State) (c : Nat) (f : Core → Core) : (modCore s c f).fenceLog = s.fenceLog := rfl
@[simp] theorem modCore_bound (s : State) (c : Nat) (f : Core → Core) : (modCore s c f).bound = s.bound := rfl
@[simp] theorem modCore_ctxs (s : State) (c : Nat) (f : Core → Core) : (modCore s c f).ctxs = s.ctxs := rfl
@[simp] theorem modCore_grids (s : State) (c : Nat) (f : Core → Core) : (modCore s c f).grids = s.grids := rfl
@[simp] theorem modCore_blocks (s : State) (c : Nat) (f : Core → Core) : (modCore s c f).blocks = s.blocks := rfl
@[simp] theorem modCore_groups (s : State) (c : Nat) (f : Core → Core) : (modCore s c f).groups = s.groups := rfl
@[simp] theorem modCore_cores (s : State) (c : Nat) (f : Core → Core) : (modCore s c f).cores = mset s.cores c (f (coreOf s c)) := rfl
@[simp] theorem modCore_clusters (s : State) (c : Nat) (f : Core → Core) : (modCore s c f).clusters = s.clusters := rfl
@[simp] theorem modCore_cmds (s : State) (c : Nat) (f : Core → Core) : (modCore s c f).cmds = s.cmds := rfl
@[simp] theorem modCore_slices (s : State) (c : Nat) (f : Core → Core) : (modCore s c f).slices = s.slices := rfl
@[simp] theorem modCore_posts (s : State) (c : Nat) (f : Core → Core) : (modCore s c f).posts = s.posts := rfl
@[simp] theorem modCore_graphs (s : State) (c : Nat) (f : Core → Core) : (modCore s c f).graphs = s.graphs := rfl
@[simp] theorem modCore_evSeq (s : State) (c : Nat) (f : Core → Core) : (modCore s c f).evSeq = s.evSeq := rfl
@[simp] theorem modCore_hostData (s : State) (c : Nat) (f : Core → Core) : (modCore s c f).hostData = s.hostData := rfl
@[simp] theorem modCore_fwMeas (s : State) (c : Nat) (f : Core → Core) : (modCore s c f).fwMeas = s.fwMeas := rfl
@[simp] theorem modCore_fw (s : State) (c : Nat) (f : Core → Core) : (modCore s c f).fw = s.fw := rfl
@[simp] theorem modCore_cur (s : State) (c : Nat) (f : Core → Core) : (modCore s c f).cur = s.cur := rfl
@[simp] theorem modCore_inputs (s : State) (c : Nat) (f : Core → Core) : (modCore s c f).inputs = s.inputs := rfl
@[simp] theorem modCore_free (s : State) (c : Nat) (f : Core → Core) : (modCore s c f).free = s.free := rfl
@[simp] theorem modCore_nextUid (s : State) (c : Nat) (f : Core → Core) : (modCore s c f).nextUid = s.nextUid := rfl

@[simp] theorem modCluster_lostd (s : State) (c : Nat) (f : Cluster → Cluster) : (modCluster s c f).lostd = s.lostd := rfl
@[simp] theorem modCluster_grade (s : State) (c : Nat) (f : Cluster → Cluster) : (modCluster s c f).grade = s.grade := rfl
@[simp] theorem modCluster_stage (s : State) (c : Nat) (f : Cluster → Cluster) : (modCluster s c f).stage = s.stage := rfl
@[simp] theorem modCluster_ready (s : State) (c : Nat) (f : Cluster → Cluster) : (modCluster s c f).ready = s.ready := rfl
@[simp] theorem modCluster_irqReady (s : State) (c : Nat) (f : Cluster → Cluster) : (modCluster s c f).irqReady = s.irqReady := rfl
@[simp] theorem modCluster_irqPower (s : State) (c : Nat) (f : Cluster → Cluster) : (modCluster s c f).irqPower = s.irqPower := rfl
@[simp] theorem modCluster_irqPgreq (s : State) (c : Nat) (f : Cluster → Cluster) : (modCluster s c f).irqPgreq = s.irqPgreq := rfl
@[simp] theorem modCluster_irqLink (s : State) (c : Nat) (f : Cluster → Cluster) : (modCluster s c f).irqLink = s.irqLink := rfl
@[simp] theorem modCluster_msix (s : State) (c : Nat) (f : Cluster → Cluster) : (modCluster s c f).msix = s.msix := rfl
@[simp] theorem modCluster_links (s : State) (c : Nat) (f : Cluster → Cluster) : (modCluster s c f).links = s.links := rfl
@[simp] theorem modCluster_cxlCap (s : State) (c : Nat) (f : Cluster → Cluster) : (modCluster s c f).cxlCap = s.cxlCap := rfl
@[simp] theorem modCluster_peers (s : State) (c : Nat) (f : Cluster → Cluster) : (modCluster s c f).peers = s.peers := rfl
@[simp] theorem modCluster_regions (s : State) (c : Nat) (f : Cluster → Cluster) : (modCluster s c f).regions = s.regions := rfl
@[simp] theorem modCluster_lostDies (s : State) (c : Nat) (f : Cluster → Cluster) : (modCluster s c f).lostDies = s.lostDies := rfl
@[simp] theorem modCluster_offDies (s : State) (c : Nat) (f : Cluster → Cluster) : (modCluster s c f).offDies = s.offDies := rfl
@[simp] theorem modCluster_degraded (s : State) (c : Nat) (f : Cluster → Cluster) : (modCluster s c f).degraded = s.degraded := rfl
@[simp] theorem modCluster_downLinks (s : State) (c : Nat) (f : Cluster → Cluster) : (modCluster s c f).downLinks = s.downLinks := rfl
@[simp] theorem modCluster_sites (s : State) (c : Nat) (f : Cluster → Cluster) : (modCluster s c f).sites = s.sites := rfl
@[simp] theorem modCluster_retiredCores (s : State) (c : Nat) (f : Cluster → Cluster) : (modCluster s c f).retiredCores = s.retiredCores := rfl
@[simp] theorem modCluster_retiredEngines (s : State) (c : Nat) (f : Cluster → Cluster) : (modCluster s c f).retiredEngines = s.retiredEngines := rfl
@[simp] theorem modCluster_retiredSlices (s : State) (c : Nat) (f : Cluster → Cluster) : (modCluster s c f).retiredSlices = s.retiredSlices := rfl
@[simp] theorem modCluster_harvest (s : State) (c : Nat) (f : Cluster → Cluster) : (modCluster s c f).harvest = s.harvest := rfl
@[simp] theorem modCluster_reports (s : State) (c : Nat) (f : Cluster → Cluster) : (modCluster s c f).reports = s.reports := rfl
@[simp] theorem modCluster_volatileRet (s : State) (c : Nat) (f : Cluster → Cluster) : (modCluster s c f).volatileRet = s.volatileRet := rfl
@[simp] theorem modCluster_harvCtl (s : State) (c : Nat) (f : Cluster → Cluster) : (modCluster s c f).harvCtl = s.harvCtl := rfl
@[simp] theorem modCluster_errors (s : State) (c : Nat) (f : Cluster → Cluster) : (modCluster s c f).errors = s.errors := rfl
@[simp] theorem modCluster_marked (s : State) (c : Nat) (f : Cluster → Cluster) : (modCluster s c f).marked = s.marked := rfl
@[simp] theorem modCluster_offCtl (s : State) (c : Nat) (f : Cluster → Cluster) : (modCluster s c f).offCtl = s.offCtl := rfl
@[simp] theorem modCluster_evac (s : State) (c : Nat) (f : Cluster → Cluster) : (modCluster s c f).evac = s.evac := rfl
@[simp] theorem modCluster_ckptCtl (s : State) (c : Nat) (f : Cluster → Cluster) : (modCluster s c f).ckptCtl = s.ckptCtl := rfl
@[simp] theorem modCluster_ckptBase (s : State) (c : Nat) (f : Cluster → Cluster) : (modCluster s c f).ckptBase = s.ckptBase := rfl
@[simp] theorem modCluster_ckpts (s : State) (c : Nat) (f : Cluster → Cluster) : (modCluster s c f).ckpts = s.ckpts := rfl
@[simp] theorem modCluster_ckptBusy (s : State) (c : Nat) (f : Cluster → Cluster) : (modCluster s c f).ckptBusy = s.ckptBusy := rfl
@[simp] theorem modCluster_xlatInv (s : State) (c : Nat) (f : Cluster → Cluster) : (modCluster s c f).xlatInv = s.xlatInv := rfl
@[simp] theorem modCluster_xlatHeld (s : State) (c : Nat) (f : Cluster → Cluster) : (modCluster s c f).xlatHeld = s.xlatHeld := rfl
@[simp] theorem modCluster_pgAnswer (s : State) (c : Nat) (f : Cluster → Cluster) : (modCluster s c f).pgAnswer = s.pgAnswer := rfl
@[simp] theorem modCluster_pgStale (s : State) (c : Nat) (f : Cluster → Cluster) : (modCluster s c f).pgStale = s.pgStale := rfl
@[simp] theorem modCluster_ctxCreate (s : State) (c : Nat) (f : Cluster → Cluster) : (modCluster s c f).ctxCreate = s.ctxCreate := rfl
@[simp] theorem modCluster_creating (s : State) (c : Nat) (f : Cluster → Cluster) : (modCluster s c f).creating = s.creating := rfl
@[simp] theorem modCluster_createHeld (s : State) (c : Nat) (f : Cluster → Cluster) : (modCluster s c f).createHeld = s.createHeld := rfl
@[simp] theorem modCluster_gload (s : State) (c : Nat) (f : Cluster → Cluster) : (modCluster s c f).gload = s.gload := rfl
@[simp] theorem modCluster_loading (s : State) (c : Nat) (f : Cluster → Cluster) : (modCluster s c f).loading = s.loading := rfl
@[simp] theorem modCluster_graphStat (s : State) (c : Nat) (f : Cluster → Cluster) : (modCluster s c f).graphStat = s.graphStat := rfl
@[simp] theorem modCluster_sgRebind (s : State) (c : Nat) (f : Cluster → Cluster) : (modCluster s c f).sgRebind = s.sgRebind := rfl
@[simp] theorem modCluster_importStat (s : State) (c : Nat) (f : Cluster → Cluster) : (modCluster s c f).importStat = s.importStat := rfl
@[simp] theorem modCluster_importing (s : State) (c : Nat) (f : Cluster → Cluster) : (modCluster s c f).importing = s.importing := rfl
@[simp] theorem modCluster_importHeld (s : State) (c : Nat) (f : Cluster → Cluster) : (modCluster s c f).importHeld = s.importHeld := rfl
@[simp] theorem modCluster_secPolicy (s : State) (c : Nat) (f : Cluster → Cluster) : (modCluster s c f).secPolicy = s.secPolicy := rfl
@[simp] theorem modCluster_secRefused (s : State) (c : Nat) (f : Cluster → Cluster) : (modCluster s c f).secRefused = s.secRefused := rfl
@[simp] theorem modCluster_secAlarm (s : State) (c : Nat) (f : Cluster → Cluster) : (modCluster s c f).secAlarm = s.secAlarm := rfl
@[simp] theorem modCluster_secAsserted (s : State) (c : Nat) (f : Cluster → Cluster) : (modCluster s c f).secAsserted = s.secAsserted := rfl
@[simp] theorem modCluster_frozen (s : State) (c : Nat) (f : Cluster → Cluster) : (modCluster s c f).frozen = s.frozen := rfl
@[simp] theorem modCluster_mintCtl (s : State) (c : Nat) (f : Cluster → Cluster) : (modCluster s c f).mintCtl = s.mintCtl := rfl
@[simp] theorem modCluster_mintStat (s : State) (c : Nat) (f : Cluster → Cluster) : (modCluster s c f).mintStat = s.mintStat := rfl
@[simp] theorem modCluster_mint (s : State) (c : Nat) (f : Cluster → Cluster) : (modCluster s c f).mint = s.mint := rfl
@[simp] theorem modCluster_monitors (s : State) (c : Nat) (f : Cluster → Cluster) : (modCluster s c f).monitors = s.monitors := rfl
@[simp] theorem modCluster_mem (s : State) (c : Nat) (f : Cluster → Cluster) : (modCluster s c f).mem = s.mem := rfl
@[simp] theorem modCluster_log (s : State) (c : Nat) (f : Cluster → Cluster) : (modCluster s c f).log = s.log := rfl
@[simp] theorem modCluster_fenceLog (s : State) (c : Nat) (f : Cluster → Cluster) : (modCluster s c f).fenceLog = s.fenceLog := rfl
@[simp] theorem modCluster_bound (s : State) (c : Nat) (f : Cluster → Cluster) : (modCluster s c f).bound = s.bound := rfl
@[simp] theorem modCluster_ctxs (s : State) (c : Nat) (f : Cluster → Cluster) : (modCluster s c f).ctxs = s.ctxs := rfl
@[simp] theorem modCluster_grids (s : State) (c : Nat) (f : Cluster → Cluster) : (modCluster s c f).grids = s.grids := rfl
@[simp] theorem modCluster_blocks (s : State) (c : Nat) (f : Cluster → Cluster) : (modCluster s c f).blocks = s.blocks := rfl
@[simp] theorem modCluster_groups (s : State) (c : Nat) (f : Cluster → Cluster) : (modCluster s c f).groups = s.groups := rfl
@[simp] theorem modCluster_cores (s : State) (c : Nat) (f : Cluster → Cluster) : (modCluster s c f).cores = s.cores := rfl
@[simp] theorem modCluster_clusters (s : State) (c : Nat) (f : Cluster → Cluster) : (modCluster s c f).clusters = mset s.clusters c (f (clusterOf s c)) := rfl
@[simp] theorem modCluster_cmds (s : State) (c : Nat) (f : Cluster → Cluster) : (modCluster s c f).cmds = s.cmds := rfl
@[simp] theorem modCluster_slices (s : State) (c : Nat) (f : Cluster → Cluster) : (modCluster s c f).slices = s.slices := rfl
@[simp] theorem modCluster_posts (s : State) (c : Nat) (f : Cluster → Cluster) : (modCluster s c f).posts = s.posts := rfl
@[simp] theorem modCluster_graphs (s : State) (c : Nat) (f : Cluster → Cluster) : (modCluster s c f).graphs = s.graphs := rfl
@[simp] theorem modCluster_evSeq (s : State) (c : Nat) (f : Cluster → Cluster) : (modCluster s c f).evSeq = s.evSeq := rfl
@[simp] theorem modCluster_hostData (s : State) (c : Nat) (f : Cluster → Cluster) : (modCluster s c f).hostData = s.hostData := rfl
@[simp] theorem modCluster_fwMeas (s : State) (c : Nat) (f : Cluster → Cluster) : (modCluster s c f).fwMeas = s.fwMeas := rfl
@[simp] theorem modCluster_fw (s : State) (c : Nat) (f : Cluster → Cluster) : (modCluster s c f).fw = s.fw := rfl
@[simp] theorem modCluster_cur (s : State) (c : Nat) (f : Cluster → Cluster) : (modCluster s c f).cur = s.cur := rfl
@[simp] theorem modCluster_inputs (s : State) (c : Nat) (f : Cluster → Cluster) : (modCluster s c f).inputs = s.inputs := rfl
@[simp] theorem modCluster_free (s : State) (c : Nat) (f : Cluster → Cluster) : (modCluster s c f).free = s.free := rfl
@[simp] theorem modCluster_nextUid (s : State) (c : Nat) (f : Cluster → Cluster) : (modCluster s c f).nextUid = s.nextUid := rfl

@[simp] theorem modSlice_lostd (s : State) (m : Nat) (f : Slice → Slice) : (modSlice s m f).lostd = s.lostd := rfl
@[simp] theorem modSlice_grade (s : State) (m : Nat) (f : Slice → Slice) : (modSlice s m f).grade = s.grade := rfl
@[simp] theorem modSlice_stage (s : State) (m : Nat) (f : Slice → Slice) : (modSlice s m f).stage = s.stage := rfl
@[simp] theorem modSlice_ready (s : State) (m : Nat) (f : Slice → Slice) : (modSlice s m f).ready = s.ready := rfl
@[simp] theorem modSlice_irqReady (s : State) (m : Nat) (f : Slice → Slice) : (modSlice s m f).irqReady = s.irqReady := rfl
@[simp] theorem modSlice_irqPower (s : State) (m : Nat) (f : Slice → Slice) : (modSlice s m f).irqPower = s.irqPower := rfl
@[simp] theorem modSlice_irqPgreq (s : State) (m : Nat) (f : Slice → Slice) : (modSlice s m f).irqPgreq = s.irqPgreq := rfl
@[simp] theorem modSlice_irqLink (s : State) (m : Nat) (f : Slice → Slice) : (modSlice s m f).irqLink = s.irqLink := rfl
@[simp] theorem modSlice_msix (s : State) (m : Nat) (f : Slice → Slice) : (modSlice s m f).msix = s.msix := rfl
@[simp] theorem modSlice_links (s : State) (m : Nat) (f : Slice → Slice) : (modSlice s m f).links = s.links := rfl
@[simp] theorem modSlice_cxlCap (s : State) (m : Nat) (f : Slice → Slice) : (modSlice s m f).cxlCap = s.cxlCap := rfl
@[simp] theorem modSlice_peers (s : State) (m : Nat) (f : Slice → Slice) : (modSlice s m f).peers = s.peers := rfl
@[simp] theorem modSlice_regions (s : State) (m : Nat) (f : Slice → Slice) : (modSlice s m f).regions = s.regions := rfl
@[simp] theorem modSlice_lostDies (s : State) (m : Nat) (f : Slice → Slice) : (modSlice s m f).lostDies = s.lostDies := rfl
@[simp] theorem modSlice_offDies (s : State) (m : Nat) (f : Slice → Slice) : (modSlice s m f).offDies = s.offDies := rfl
@[simp] theorem modSlice_degraded (s : State) (m : Nat) (f : Slice → Slice) : (modSlice s m f).degraded = s.degraded := rfl
@[simp] theorem modSlice_downLinks (s : State) (m : Nat) (f : Slice → Slice) : (modSlice s m f).downLinks = s.downLinks := rfl
@[simp] theorem modSlice_sites (s : State) (m : Nat) (f : Slice → Slice) : (modSlice s m f).sites = s.sites := rfl
@[simp] theorem modSlice_retiredCores (s : State) (m : Nat) (f : Slice → Slice) : (modSlice s m f).retiredCores = s.retiredCores := rfl
@[simp] theorem modSlice_retiredEngines (s : State) (m : Nat) (f : Slice → Slice) : (modSlice s m f).retiredEngines = s.retiredEngines := rfl
@[simp] theorem modSlice_retiredSlices (s : State) (m : Nat) (f : Slice → Slice) : (modSlice s m f).retiredSlices = s.retiredSlices := rfl
@[simp] theorem modSlice_harvest (s : State) (m : Nat) (f : Slice → Slice) : (modSlice s m f).harvest = s.harvest := rfl
@[simp] theorem modSlice_reports (s : State) (m : Nat) (f : Slice → Slice) : (modSlice s m f).reports = s.reports := rfl
@[simp] theorem modSlice_volatileRet (s : State) (m : Nat) (f : Slice → Slice) : (modSlice s m f).volatileRet = s.volatileRet := rfl
@[simp] theorem modSlice_harvCtl (s : State) (m : Nat) (f : Slice → Slice) : (modSlice s m f).harvCtl = s.harvCtl := rfl
@[simp] theorem modSlice_errors (s : State) (m : Nat) (f : Slice → Slice) : (modSlice s m f).errors = s.errors := rfl
@[simp] theorem modSlice_marked (s : State) (m : Nat) (f : Slice → Slice) : (modSlice s m f).marked = s.marked := rfl
@[simp] theorem modSlice_offCtl (s : State) (m : Nat) (f : Slice → Slice) : (modSlice s m f).offCtl = s.offCtl := rfl
@[simp] theorem modSlice_evac (s : State) (m : Nat) (f : Slice → Slice) : (modSlice s m f).evac = s.evac := rfl
@[simp] theorem modSlice_ckptCtl (s : State) (m : Nat) (f : Slice → Slice) : (modSlice s m f).ckptCtl = s.ckptCtl := rfl
@[simp] theorem modSlice_ckptBase (s : State) (m : Nat) (f : Slice → Slice) : (modSlice s m f).ckptBase = s.ckptBase := rfl
@[simp] theorem modSlice_ckpts (s : State) (m : Nat) (f : Slice → Slice) : (modSlice s m f).ckpts = s.ckpts := rfl
@[simp] theorem modSlice_ckptBusy (s : State) (m : Nat) (f : Slice → Slice) : (modSlice s m f).ckptBusy = s.ckptBusy := rfl
@[simp] theorem modSlice_xlatInv (s : State) (m : Nat) (f : Slice → Slice) : (modSlice s m f).xlatInv = s.xlatInv := rfl
@[simp] theorem modSlice_xlatHeld (s : State) (m : Nat) (f : Slice → Slice) : (modSlice s m f).xlatHeld = s.xlatHeld := rfl
@[simp] theorem modSlice_pgAnswer (s : State) (m : Nat) (f : Slice → Slice) : (modSlice s m f).pgAnswer = s.pgAnswer := rfl
@[simp] theorem modSlice_pgStale (s : State) (m : Nat) (f : Slice → Slice) : (modSlice s m f).pgStale = s.pgStale := rfl
@[simp] theorem modSlice_ctxCreate (s : State) (m : Nat) (f : Slice → Slice) : (modSlice s m f).ctxCreate = s.ctxCreate := rfl
@[simp] theorem modSlice_creating (s : State) (m : Nat) (f : Slice → Slice) : (modSlice s m f).creating = s.creating := rfl
@[simp] theorem modSlice_createHeld (s : State) (m : Nat) (f : Slice → Slice) : (modSlice s m f).createHeld = s.createHeld := rfl
@[simp] theorem modSlice_gload (s : State) (m : Nat) (f : Slice → Slice) : (modSlice s m f).gload = s.gload := rfl
@[simp] theorem modSlice_loading (s : State) (m : Nat) (f : Slice → Slice) : (modSlice s m f).loading = s.loading := rfl
@[simp] theorem modSlice_graphStat (s : State) (m : Nat) (f : Slice → Slice) : (modSlice s m f).graphStat = s.graphStat := rfl
@[simp] theorem modSlice_sgRebind (s : State) (m : Nat) (f : Slice → Slice) : (modSlice s m f).sgRebind = s.sgRebind := rfl
@[simp] theorem modSlice_importStat (s : State) (m : Nat) (f : Slice → Slice) : (modSlice s m f).importStat = s.importStat := rfl
@[simp] theorem modSlice_importing (s : State) (m : Nat) (f : Slice → Slice) : (modSlice s m f).importing = s.importing := rfl
@[simp] theorem modSlice_importHeld (s : State) (m : Nat) (f : Slice → Slice) : (modSlice s m f).importHeld = s.importHeld := rfl
@[simp] theorem modSlice_secPolicy (s : State) (m : Nat) (f : Slice → Slice) : (modSlice s m f).secPolicy = s.secPolicy := rfl
@[simp] theorem modSlice_secRefused (s : State) (m : Nat) (f : Slice → Slice) : (modSlice s m f).secRefused = s.secRefused := rfl
@[simp] theorem modSlice_secAlarm (s : State) (m : Nat) (f : Slice → Slice) : (modSlice s m f).secAlarm = s.secAlarm := rfl
@[simp] theorem modSlice_secAsserted (s : State) (m : Nat) (f : Slice → Slice) : (modSlice s m f).secAsserted = s.secAsserted := rfl
@[simp] theorem modSlice_frozen (s : State) (m : Nat) (f : Slice → Slice) : (modSlice s m f).frozen = s.frozen := rfl
@[simp] theorem modSlice_mintCtl (s : State) (m : Nat) (f : Slice → Slice) : (modSlice s m f).mintCtl = s.mintCtl := rfl
@[simp] theorem modSlice_mintStat (s : State) (m : Nat) (f : Slice → Slice) : (modSlice s m f).mintStat = s.mintStat := rfl
@[simp] theorem modSlice_mint (s : State) (m : Nat) (f : Slice → Slice) : (modSlice s m f).mint = s.mint := rfl
@[simp] theorem modSlice_monitors (s : State) (m : Nat) (f : Slice → Slice) : (modSlice s m f).monitors = s.monitors := rfl
@[simp] theorem modSlice_mem (s : State) (m : Nat) (f : Slice → Slice) : (modSlice s m f).mem = s.mem := rfl
@[simp] theorem modSlice_log (s : State) (m : Nat) (f : Slice → Slice) : (modSlice s m f).log = s.log := rfl
@[simp] theorem modSlice_fenceLog (s : State) (m : Nat) (f : Slice → Slice) : (modSlice s m f).fenceLog = s.fenceLog := rfl
@[simp] theorem modSlice_bound (s : State) (m : Nat) (f : Slice → Slice) : (modSlice s m f).bound = s.bound := rfl
@[simp] theorem modSlice_ctxs (s : State) (m : Nat) (f : Slice → Slice) : (modSlice s m f).ctxs = s.ctxs := rfl
@[simp] theorem modSlice_grids (s : State) (m : Nat) (f : Slice → Slice) : (modSlice s m f).grids = s.grids := rfl
@[simp] theorem modSlice_blocks (s : State) (m : Nat) (f : Slice → Slice) : (modSlice s m f).blocks = s.blocks := rfl
@[simp] theorem modSlice_groups (s : State) (m : Nat) (f : Slice → Slice) : (modSlice s m f).groups = s.groups := rfl
@[simp] theorem modSlice_cores (s : State) (m : Nat) (f : Slice → Slice) : (modSlice s m f).cores = s.cores := rfl
@[simp] theorem modSlice_clusters (s : State) (m : Nat) (f : Slice → Slice) : (modSlice s m f).clusters = s.clusters := rfl
@[simp] theorem modSlice_cmds (s : State) (m : Nat) (f : Slice → Slice) : (modSlice s m f).cmds = s.cmds := rfl
@[simp] theorem modSlice_slices (s : State) (m : Nat) (f : Slice → Slice) : (modSlice s m f).slices = mset s.slices m (f (sliceOf s m)) := rfl
@[simp] theorem modSlice_posts (s : State) (m : Nat) (f : Slice → Slice) : (modSlice s m f).posts = s.posts := rfl
@[simp] theorem modSlice_graphs (s : State) (m : Nat) (f : Slice → Slice) : (modSlice s m f).graphs = s.graphs := rfl
@[simp] theorem modSlice_evSeq (s : State) (m : Nat) (f : Slice → Slice) : (modSlice s m f).evSeq = s.evSeq := rfl
@[simp] theorem modSlice_hostData (s : State) (m : Nat) (f : Slice → Slice) : (modSlice s m f).hostData = s.hostData := rfl
@[simp] theorem modSlice_fwMeas (s : State) (m : Nat) (f : Slice → Slice) : (modSlice s m f).fwMeas = s.fwMeas := rfl
@[simp] theorem modSlice_fw (s : State) (m : Nat) (f : Slice → Slice) : (modSlice s m f).fw = s.fw := rfl
@[simp] theorem modSlice_cur (s : State) (m : Nat) (f : Slice → Slice) : (modSlice s m f).cur = s.cur := rfl
@[simp] theorem modSlice_inputs (s : State) (m : Nat) (f : Slice → Slice) : (modSlice s m f).inputs = s.inputs := rfl
@[simp] theorem modSlice_free (s : State) (m : Nat) (f : Slice → Slice) : (modSlice s m f).free = s.free := rfl
@[simp] theorem modSlice_nextUid (s : State) (m : Nat) (f : Slice → Slice) : (modSlice s m f).nextUid = s.nextUid := rfl

@[simp] theorem modRegion_lostd (s : State) (n : Nat) (f : Region → Region) : (modRegion s n f).lostd = s.lostd := rfl
@[simp] theorem modRegion_grade (s : State) (n : Nat) (f : Region → Region) : (modRegion s n f).grade = s.grade := rfl
@[simp] theorem modRegion_stage (s : State) (n : Nat) (f : Region → Region) : (modRegion s n f).stage = s.stage := rfl
@[simp] theorem modRegion_ready (s : State) (n : Nat) (f : Region → Region) : (modRegion s n f).ready = s.ready := rfl
@[simp] theorem modRegion_irqReady (s : State) (n : Nat) (f : Region → Region) : (modRegion s n f).irqReady = s.irqReady := rfl
@[simp] theorem modRegion_irqPower (s : State) (n : Nat) (f : Region → Region) : (modRegion s n f).irqPower = s.irqPower := rfl
@[simp] theorem modRegion_irqPgreq (s : State) (n : Nat) (f : Region → Region) : (modRegion s n f).irqPgreq = s.irqPgreq := rfl
@[simp] theorem modRegion_irqLink (s : State) (n : Nat) (f : Region → Region) : (modRegion s n f).irqLink = s.irqLink := rfl
@[simp] theorem modRegion_msix (s : State) (n : Nat) (f : Region → Region) : (modRegion s n f).msix = s.msix := rfl
@[simp] theorem modRegion_links (s : State) (n : Nat) (f : Region → Region) : (modRegion s n f).links = s.links := rfl
@[simp] theorem modRegion_cxlCap (s : State) (n : Nat) (f : Region → Region) : (modRegion s n f).cxlCap = s.cxlCap := rfl
@[simp] theorem modRegion_peers (s : State) (n : Nat) (f : Region → Region) : (modRegion s n f).peers = s.peers := rfl
@[simp] theorem modRegion_regions (s : State) (n : Nat) (f : Region → Region) : (modRegion s n f).regions = mset s.regions n (f (regionOf s n)) := rfl
@[simp] theorem modRegion_lostDies (s : State) (n : Nat) (f : Region → Region) : (modRegion s n f).lostDies = s.lostDies := rfl
@[simp] theorem modRegion_offDies (s : State) (n : Nat) (f : Region → Region) : (modRegion s n f).offDies = s.offDies := rfl
@[simp] theorem modRegion_degraded (s : State) (n : Nat) (f : Region → Region) : (modRegion s n f).degraded = s.degraded := rfl
@[simp] theorem modRegion_downLinks (s : State) (n : Nat) (f : Region → Region) : (modRegion s n f).downLinks = s.downLinks := rfl
@[simp] theorem modRegion_sites (s : State) (n : Nat) (f : Region → Region) : (modRegion s n f).sites = s.sites := rfl
@[simp] theorem modRegion_retiredCores (s : State) (n : Nat) (f : Region → Region) : (modRegion s n f).retiredCores = s.retiredCores := rfl
@[simp] theorem modRegion_retiredEngines (s : State) (n : Nat) (f : Region → Region) : (modRegion s n f).retiredEngines = s.retiredEngines := rfl
@[simp] theorem modRegion_retiredSlices (s : State) (n : Nat) (f : Region → Region) : (modRegion s n f).retiredSlices = s.retiredSlices := rfl
@[simp] theorem modRegion_harvest (s : State) (n : Nat) (f : Region → Region) : (modRegion s n f).harvest = s.harvest := rfl
@[simp] theorem modRegion_reports (s : State) (n : Nat) (f : Region → Region) : (modRegion s n f).reports = s.reports := rfl
@[simp] theorem modRegion_volatileRet (s : State) (n : Nat) (f : Region → Region) : (modRegion s n f).volatileRet = s.volatileRet := rfl
@[simp] theorem modRegion_harvCtl (s : State) (n : Nat) (f : Region → Region) : (modRegion s n f).harvCtl = s.harvCtl := rfl
@[simp] theorem modRegion_errors (s : State) (n : Nat) (f : Region → Region) : (modRegion s n f).errors = s.errors := rfl
@[simp] theorem modRegion_marked (s : State) (n : Nat) (f : Region → Region) : (modRegion s n f).marked = s.marked := rfl
@[simp] theorem modRegion_offCtl (s : State) (n : Nat) (f : Region → Region) : (modRegion s n f).offCtl = s.offCtl := rfl
@[simp] theorem modRegion_evac (s : State) (n : Nat) (f : Region → Region) : (modRegion s n f).evac = s.evac := rfl
@[simp] theorem modRegion_ckptCtl (s : State) (n : Nat) (f : Region → Region) : (modRegion s n f).ckptCtl = s.ckptCtl := rfl
@[simp] theorem modRegion_ckptBase (s : State) (n : Nat) (f : Region → Region) : (modRegion s n f).ckptBase = s.ckptBase := rfl
@[simp] theorem modRegion_ckpts (s : State) (n : Nat) (f : Region → Region) : (modRegion s n f).ckpts = s.ckpts := rfl
@[simp] theorem modRegion_ckptBusy (s : State) (n : Nat) (f : Region → Region) : (modRegion s n f).ckptBusy = s.ckptBusy := rfl
@[simp] theorem modRegion_xlatInv (s : State) (n : Nat) (f : Region → Region) : (modRegion s n f).xlatInv = s.xlatInv := rfl
@[simp] theorem modRegion_xlatHeld (s : State) (n : Nat) (f : Region → Region) : (modRegion s n f).xlatHeld = s.xlatHeld := rfl
@[simp] theorem modRegion_pgAnswer (s : State) (n : Nat) (f : Region → Region) : (modRegion s n f).pgAnswer = s.pgAnswer := rfl
@[simp] theorem modRegion_pgStale (s : State) (n : Nat) (f : Region → Region) : (modRegion s n f).pgStale = s.pgStale := rfl
@[simp] theorem modRegion_ctxCreate (s : State) (n : Nat) (f : Region → Region) : (modRegion s n f).ctxCreate = s.ctxCreate := rfl
@[simp] theorem modRegion_creating (s : State) (n : Nat) (f : Region → Region) : (modRegion s n f).creating = s.creating := rfl
@[simp] theorem modRegion_createHeld (s : State) (n : Nat) (f : Region → Region) : (modRegion s n f).createHeld = s.createHeld := rfl
@[simp] theorem modRegion_gload (s : State) (n : Nat) (f : Region → Region) : (modRegion s n f).gload = s.gload := rfl
@[simp] theorem modRegion_loading (s : State) (n : Nat) (f : Region → Region) : (modRegion s n f).loading = s.loading := rfl
@[simp] theorem modRegion_graphStat (s : State) (n : Nat) (f : Region → Region) : (modRegion s n f).graphStat = s.graphStat := rfl
@[simp] theorem modRegion_sgRebind (s : State) (n : Nat) (f : Region → Region) : (modRegion s n f).sgRebind = s.sgRebind := rfl
@[simp] theorem modRegion_importStat (s : State) (n : Nat) (f : Region → Region) : (modRegion s n f).importStat = s.importStat := rfl
@[simp] theorem modRegion_importing (s : State) (n : Nat) (f : Region → Region) : (modRegion s n f).importing = s.importing := rfl
@[simp] theorem modRegion_importHeld (s : State) (n : Nat) (f : Region → Region) : (modRegion s n f).importHeld = s.importHeld := rfl
@[simp] theorem modRegion_secPolicy (s : State) (n : Nat) (f : Region → Region) : (modRegion s n f).secPolicy = s.secPolicy := rfl
@[simp] theorem modRegion_secRefused (s : State) (n : Nat) (f : Region → Region) : (modRegion s n f).secRefused = s.secRefused := rfl
@[simp] theorem modRegion_secAlarm (s : State) (n : Nat) (f : Region → Region) : (modRegion s n f).secAlarm = s.secAlarm := rfl
@[simp] theorem modRegion_secAsserted (s : State) (n : Nat) (f : Region → Region) : (modRegion s n f).secAsserted = s.secAsserted := rfl
@[simp] theorem modRegion_frozen (s : State) (n : Nat) (f : Region → Region) : (modRegion s n f).frozen = s.frozen := rfl
@[simp] theorem modRegion_mintCtl (s : State) (n : Nat) (f : Region → Region) : (modRegion s n f).mintCtl = s.mintCtl := rfl
@[simp] theorem modRegion_mintStat (s : State) (n : Nat) (f : Region → Region) : (modRegion s n f).mintStat = s.mintStat := rfl
@[simp] theorem modRegion_mint (s : State) (n : Nat) (f : Region → Region) : (modRegion s n f).mint = s.mint := rfl
@[simp] theorem modRegion_monitors (s : State) (n : Nat) (f : Region → Region) : (modRegion s n f).monitors = s.monitors := rfl
@[simp] theorem modRegion_mem (s : State) (n : Nat) (f : Region → Region) : (modRegion s n f).mem = s.mem := rfl
@[simp] theorem modRegion_log (s : State) (n : Nat) (f : Region → Region) : (modRegion s n f).log = s.log := rfl
@[simp] theorem modRegion_fenceLog (s : State) (n : Nat) (f : Region → Region) : (modRegion s n f).fenceLog = s.fenceLog := rfl
@[simp] theorem modRegion_bound (s : State) (n : Nat) (f : Region → Region) : (modRegion s n f).bound = s.bound := rfl
@[simp] theorem modRegion_ctxs (s : State) (n : Nat) (f : Region → Region) : (modRegion s n f).ctxs = s.ctxs := rfl
@[simp] theorem modRegion_grids (s : State) (n : Nat) (f : Region → Region) : (modRegion s n f).grids = s.grids := rfl
@[simp] theorem modRegion_blocks (s : State) (n : Nat) (f : Region → Region) : (modRegion s n f).blocks = s.blocks := rfl
@[simp] theorem modRegion_groups (s : State) (n : Nat) (f : Region → Region) : (modRegion s n f).groups = s.groups := rfl
@[simp] theorem modRegion_cores (s : State) (n : Nat) (f : Region → Region) : (modRegion s n f).cores = s.cores := rfl
@[simp] theorem modRegion_clusters (s : State) (n : Nat) (f : Region → Region) : (modRegion s n f).clusters = s.clusters := rfl
@[simp] theorem modRegion_cmds (s : State) (n : Nat) (f : Region → Region) : (modRegion s n f).cmds = s.cmds := rfl
@[simp] theorem modRegion_slices (s : State) (n : Nat) (f : Region → Region) : (modRegion s n f).slices = s.slices := rfl
@[simp] theorem modRegion_posts (s : State) (n : Nat) (f : Region → Region) : (modRegion s n f).posts = s.posts := rfl
@[simp] theorem modRegion_graphs (s : State) (n : Nat) (f : Region → Region) : (modRegion s n f).graphs = s.graphs := rfl
@[simp] theorem modRegion_evSeq (s : State) (n : Nat) (f : Region → Region) : (modRegion s n f).evSeq = s.evSeq := rfl
@[simp] theorem modRegion_hostData (s : State) (n : Nat) (f : Region → Region) : (modRegion s n f).hostData = s.hostData := rfl
@[simp] theorem modRegion_fwMeas (s : State) (n : Nat) (f : Region → Region) : (modRegion s n f).fwMeas = s.fwMeas := rfl
@[simp] theorem modRegion_fw (s : State) (n : Nat) (f : Region → Region) : (modRegion s n f).fw = s.fw := rfl
@[simp] theorem modRegion_cur (s : State) (n : Nat) (f : Region → Region) : (modRegion s n f).cur = s.cur := rfl
@[simp] theorem modRegion_inputs (s : State) (n : Nat) (f : Region → Region) : (modRegion s n f).inputs = s.inputs := rfl
@[simp] theorem modRegion_free (s : State) (n : Nat) (f : Region → Region) : (modRegion s n f).free = s.free := rfl
@[simp] theorem modRegion_nextUid (s : State) (n : Nat) (f : Region → Region) : (modRegion s n f).nextUid = s.nextUid := rfl

@[simp] theorem retireAt_ctx (g : Group) (sm : Bool) (pc : Nat) : (retireAt g sm pc).ctx = g.ctx := rfl
@[simp] theorem retireAt_grid (g : Group) (sm : Bool) (pc : Nat) : (retireAt g sm pc).grid = g.grid := rfl
@[simp] theorem retireAt_block (g : Group) (sm : Bool) (pc : Nat) : (retireAt g sm pc).block = g.block := rfl
@[simp] theorem retireAt_gidx (g : Group) (sm : Bool) (pc : Nat) : (retireAt g sm pc).gidx = g.gidx := rfl
@[simp] theorem retireAt_gwid (g : Group) (sm : Bool) (pc : Nat) : (retireAt g sm pc).gwid = g.gwid := rfl
@[simp] theorem retireAt_slot (g : Group) (sm : Bool) (pc : Nat) : (retireAt g sm pc).slot = g.slot := rfl
@[simp] theorem retireAt_x (g : Group) (sm : Bool) (pc : Nat) : (retireAt g sm pc).x = g.x := rfl
@[simp] theorem retireAt_k (g : Group) (sm : Bool) (pc : Nat) : (retireAt g sm pc).k = g.k := rfl
@[simp] theorem retireAt_win (g : Group) (sm : Bool) (pc : Nat) : (retireAt g sm pc).win = g.win := rfl
@[simp] theorem retireAt_flags (g : Group) (sm : Bool) (pc : Nat) : (retireAt g sm pc).flags = g.flags := rfl
@[simp] theorem retireAt_histX (g : Group) (sm : Bool) (pc : Nat) : (retireAt g sm pc).histX = g.histX := rfl
@[simp] theorem retireAt_histK (g : Group) (sm : Bool) (pc : Nat) : (retireAt g sm pc).histK = g.histK := rfl
@[simp] theorem retireAt_histW (g : Group) (sm : Bool) (pc : Nat) : (retireAt g sm pc).histW = g.histW := rfl
@[simp] theorem retireAt_histF (g : Group) (sm : Bool) (pc : Nat) : (retireAt g sm pc).histF = g.histF := rfl
@[simp] theorem retireAt_active (g : Group) (sm : Bool) (pc : Nat) : (retireAt g sm pc).active = g.active := rfl
@[simp] theorem retireAt_table (g : Group) (sm : Bool) (pc : Nat) : (retireAt g sm pc).table = g.table := rfl
@[simp] theorem retireAt_level (g : Group) (sm : Bool) (pc : Nat) : (retireAt g sm pc).level = g.level := rfl
@[simp] theorem retireAt_pc (g : Group) (sm : Bool) (pc : Nat) : (retireAt g sm pc).pc = pc := rfl
@[simp] theorem retireAt_agelim (g : Group) (sm : Bool) (pc : Nat) : (retireAt g sm pc).agelim = g.agelim := rfl
@[simp] theorem retireAt_mode (g : Group) (sm : Bool) (pc : Nat) : (retireAt g sm pc).mode = g.mode := rfl
@[simp] theorem retireAt_qthr (g : Group) (sm : Bool) (pc : Nat) : (retireAt g sm pc).qthr = g.qthr := rfl
@[simp] theorem retireAt_qscale (g : Group) (sm : Bool) (pc : Nat) : (retireAt g sm pc).qscale = g.qscale := rfl
@[simp] theorem retireAt_qside (g : Group) (sm : Bool) (pc : Nat) : (retireAt g sm pc).qside = g.qside := rfl
@[simp] theorem retireAt_srx (g : Group) (sm : Bool) (pc : Nat) : (retireAt g sm pc).srx = g.srx := rfl
@[simp] theorem retireAt_gang (g : Group) (sm : Bool) (pc : Nat) : (retireAt g sm pc).gang = g.gang := rfl
@[simp] theorem retireAt_icnt (g : Group) (sm : Bool) (pc : Nat) : (retireAt g sm pc).icnt = g.icnt + 1 := rfl
@[simp] theorem retireAt_spn (g : Group) (sm : Bool) (pc : Nat) : (retireAt g sm pc).spn = g.spn := rfl
@[simp] theorem retireAt_ver (g : Group) (sm : Bool) (pc : Nat) : (retireAt g sm pc).ver = g.ver := rfl
@[simp] theorem retireAt_xstat (g : Group) (sm : Bool) (pc : Nat) : (retireAt g sm pc).xstat = g.xstat := rfl
@[simp] theorem retireAt_xreq (g : Group) (sm : Bool) (pc : Nat) : (retireAt g sm pc).xreq = g.xreq := rfl
@[simp] theorem retireAt_sup (g : Group) (sm : Bool) (pc : Nat) : (retireAt g sm pc).sup = g.sup := rfl
@[simp] theorem retireAt_scause (g : Group) (sm : Bool) (pc : Nat) : (retireAt g sm pc).scause = g.scause := rfl
@[simp] theorem retireAt_sepc (g : Group) (sm : Bool) (pc : Nat) : (retireAt g sm pc).sepc = g.sepc := rfl
@[simp] theorem retireAt_sfmask (g : Group) (sm : Bool) (pc : Nat) : (retireAt g sm pc).sfmask = g.sfmask := rfl
@[simp] theorem retireAt_stok (g : Group) (sm : Bool) (pc : Nat) : (retireAt g sm pc).stok = g.stok := rfl
@[simp] theorem retireAt_sretc (g : Group) (sm : Bool) (pc : Nat) : (retireAt g sm pc).sretc = g.sretc := rfl
@[simp] theorem retireAt_faults (g : Group) (sm : Bool) (pc : Nat) : (retireAt g sm pc).faults = g.faults := rfl
@[simp] theorem retireAt_trapCmd (g : Group) (sm : Bool) (pc : Nat) : (retireAt g sm pc).trapCmd = g.trapCmd := rfl
@[simp] theorem retireAt_trapAt (g : Group) (sm : Bool) (pc : Nat) : (retireAt g sm pc).trapAt = g.trapAt := rfl
@[simp] theorem retireAt_hstack (g : Group) (sm : Bool) (pc : Nat) : (retireAt g sm pc).hstack = g.hstack := rfl
@[simp] theorem retireAt_uhnd (g : Group) (sm : Bool) (pc : Nat) : (retireAt g sm pc).uhnd = g.uhnd := rfl
@[simp] theorem retireAt_inUser (g : Group) (sm : Bool) (pc : Nat) : (retireAt g sm pc).inUser = g.inUser := rfl
@[simp] theorem retireAt_ext (g : Group) (sm : Bool) (pc : Nat) : (retireAt g sm pc).ext = g.ext := rfl
@[simp] theorem retireAt_cnt (g : Group) (sm : Bool) (pc : Nat) : (retireAt g sm pc).cnt = g.cnt := rfl
@[simp] theorem retireAt_seen (g : Group) (sm : Bool) (pc : Nat) : (retireAt g sm pc).seen = g.seen := rfl
@[simp] theorem retireAt_waited (g : Group) (sm : Bool) (pc : Nat) : (retireAt g sm pc).waited = g.waited := rfl
@[simp] theorem retireAt_compl (g : Group) (sm : Bool) (pc : Nat) : (retireAt g sm pc).compl = g.compl := rfl
@[simp] theorem retireAt_pfSnap (g : Group) (sm : Bool) (pc : Nat) : (retireAt g sm pc).pfSnap = g.pfSnap := rfl
@[simp] theorem retireAt_park (g : Group) (sm : Bool) (pc : Nat) : (retireAt g sm pc).park = if sm && outstanding g then some .marker else none := rfl
@[simp] theorem retireAt_halted (g : Group) (sm : Bool) (pc : Nat) : (retireAt g sm pc).halted = g.halted := rfl
@[simp] theorem retireAt_exited (g : Group) (sm : Bool) (pc : Nat) : (retireAt g sm pc).exited = g.exited := rfl
@[simp] theorem retireAt_causes (g : Group) (sm : Bool) (pc : Nat) : (retireAt g sm pc).causes = g.causes := rfl
@[simp] theorem retireAt_replay (g : Group) (sm : Bool) (pc : Nat) : (retireAt g sm pc).replay = none := rfl
@[simp] theorem retireAt_pub (g : Group) (sm : Bool) (pc : Nat) : (retireAt g sm pc).pub = g.pub := rfl
@[simp] theorem retireAt_got (g : Group) (sm : Bool) (pc : Nat) : (retireAt g sm pc).got = g.got := rfl
@[simp] theorem retireAt_ldTime (g : Group) (sm : Bool) (pc : Nat) : (retireAt g sm pc).ldTime = g.ldTime := rfl
@[simp] theorem retireAt_parkSeq (g : Group) (sm : Bool) (pc : Nat) : (retireAt g sm pc).parkSeq = g.parkSeq := rfl
@[simp] theorem retireAt_words (g : Group) (sm : Bool) (pc : Nat) : (retireAt g sm pc).words = g.words := rfl
@[simp] theorem retireAt_trapping (g : Group) (sm : Bool) (pc : Nat) : (retireAt g sm pc).trapping = g.trapping := rfl

@[simp] theorem writeFlags_ctx (s : State) (g : Group) (f : Flags) : (writeFlags s g f).ctx = g.ctx := rfl
@[simp] theorem writeFlags_grid (s : State) (g : Group) (f : Flags) : (writeFlags s g f).grid = g.grid := rfl
@[simp] theorem writeFlags_block (s : State) (g : Group) (f : Flags) : (writeFlags s g f).block = g.block := rfl
@[simp] theorem writeFlags_gidx (s : State) (g : Group) (f : Flags) : (writeFlags s g f).gidx = g.gidx := rfl
@[simp] theorem writeFlags_gwid (s : State) (g : Group) (f : Flags) : (writeFlags s g f).gwid = g.gwid := rfl
@[simp] theorem writeFlags_slot (s : State) (g : Group) (f : Flags) : (writeFlags s g f).slot = g.slot := rfl
@[simp] theorem writeFlags_x (s : State) (g : Group) (f : Flags) : (writeFlags s g f).x = g.x := rfl
@[simp] theorem writeFlags_k (s : State) (g : Group) (f : Flags) : (writeFlags s g f).k = g.k := rfl
@[simp] theorem writeFlags_win (s : State) (g : Group) (f : Flags) : (writeFlags s g f).win = g.win := rfl
@[simp] theorem writeFlags_flags (s : State) (g : Group) (f : Flags) : (writeFlags s g f).flags = f := rfl
@[simp] theorem writeFlags_histX (s : State) (g : Group) (f : Flags) : (writeFlags s g f).histX = g.histX := rfl
@[simp] theorem writeFlags_histK (s : State) (g : Group) (f : Flags) : (writeFlags s g f).histK = g.histK := rfl
@[simp] theorem writeFlags_histW (s : State) (g : Group) (f : Flags) : (writeFlags s g f).histW = g.histW := rfl
@[simp] theorem writeFlags_active (s : State) (g : Group) (f : Flags) : (writeFlags s g f).active = g.active := rfl
@[simp] theorem writeFlags_table (s : State) (g : Group) (f : Flags) : (writeFlags s g f).table = g.table := rfl
@[simp] theorem writeFlags_level (s : State) (g : Group) (f : Flags) : (writeFlags s g f).level = g.level := rfl
@[simp] theorem writeFlags_pc (s : State) (g : Group) (f : Flags) : (writeFlags s g f).pc = g.pc := rfl
@[simp] theorem writeFlags_agelim (s : State) (g : Group) (f : Flags) : (writeFlags s g f).agelim = g.agelim := rfl
@[simp] theorem writeFlags_mode (s : State) (g : Group) (f : Flags) : (writeFlags s g f).mode = g.mode := rfl
@[simp] theorem writeFlags_qthr (s : State) (g : Group) (f : Flags) : (writeFlags s g f).qthr = g.qthr := rfl
@[simp] theorem writeFlags_qscale (s : State) (g : Group) (f : Flags) : (writeFlags s g f).qscale = g.qscale := rfl
@[simp] theorem writeFlags_qside (s : State) (g : Group) (f : Flags) : (writeFlags s g f).qside = g.qside := rfl
@[simp] theorem writeFlags_srx (s : State) (g : Group) (f : Flags) : (writeFlags s g f).srx = g.srx := rfl
@[simp] theorem writeFlags_gang (s : State) (g : Group) (f : Flags) : (writeFlags s g f).gang = g.gang := rfl
@[simp] theorem writeFlags_icnt (s : State) (g : Group) (f : Flags) : (writeFlags s g f).icnt = g.icnt := rfl
@[simp] theorem writeFlags_spn (s : State) (g : Group) (f : Flags) : (writeFlags s g f).spn = g.spn := rfl
@[simp] theorem writeFlags_ver (s : State) (g : Group) (f : Flags) : (writeFlags s g f).ver = g.ver := rfl
@[simp] theorem writeFlags_xstat (s : State) (g : Group) (f : Flags) : (writeFlags s g f).xstat = g.xstat := rfl
@[simp] theorem writeFlags_xreq (s : State) (g : Group) (f : Flags) : (writeFlags s g f).xreq = g.xreq := rfl
@[simp] theorem writeFlags_sup (s : State) (g : Group) (f : Flags) : (writeFlags s g f).sup = g.sup := rfl
@[simp] theorem writeFlags_scause (s : State) (g : Group) (f : Flags) : (writeFlags s g f).scause = g.scause := rfl
@[simp] theorem writeFlags_sepc (s : State) (g : Group) (f : Flags) : (writeFlags s g f).sepc = g.sepc := rfl
@[simp] theorem writeFlags_sfmask (s : State) (g : Group) (f : Flags) : (writeFlags s g f).sfmask = g.sfmask := rfl
@[simp] theorem writeFlags_stok (s : State) (g : Group) (f : Flags) : (writeFlags s g f).stok = g.stok := rfl
@[simp] theorem writeFlags_sretc (s : State) (g : Group) (f : Flags) : (writeFlags s g f).sretc = g.sretc := rfl
@[simp] theorem writeFlags_faults (s : State) (g : Group) (f : Flags) : (writeFlags s g f).faults = g.faults := rfl
@[simp] theorem writeFlags_trapCmd (s : State) (g : Group) (f : Flags) : (writeFlags s g f).trapCmd = g.trapCmd := rfl
@[simp] theorem writeFlags_trapAt (s : State) (g : Group) (f : Flags) : (writeFlags s g f).trapAt = g.trapAt := rfl
@[simp] theorem writeFlags_hstack (s : State) (g : Group) (f : Flags) : (writeFlags s g f).hstack = g.hstack := rfl
@[simp] theorem writeFlags_uhnd (s : State) (g : Group) (f : Flags) : (writeFlags s g f).uhnd = g.uhnd := rfl
@[simp] theorem writeFlags_inUser (s : State) (g : Group) (f : Flags) : (writeFlags s g f).inUser = g.inUser := rfl
@[simp] theorem writeFlags_ext (s : State) (g : Group) (f : Flags) : (writeFlags s g f).ext = g.ext := rfl
@[simp] theorem writeFlags_cnt (s : State) (g : Group) (f : Flags) : (writeFlags s g f).cnt = g.cnt := rfl
@[simp] theorem writeFlags_seen (s : State) (g : Group) (f : Flags) : (writeFlags s g f).seen = g.seen := rfl
@[simp] theorem writeFlags_waited (s : State) (g : Group) (f : Flags) : (writeFlags s g f).waited = g.waited := rfl
@[simp] theorem writeFlags_compl (s : State) (g : Group) (f : Flags) : (writeFlags s g f).compl = g.compl := rfl
@[simp] theorem writeFlags_pfSnap (s : State) (g : Group) (f : Flags) : (writeFlags s g f).pfSnap = g.pfSnap := rfl
@[simp] theorem writeFlags_park (s : State) (g : Group) (f : Flags) : (writeFlags s g f).park = g.park := rfl
@[simp] theorem writeFlags_halted (s : State) (g : Group) (f : Flags) : (writeFlags s g f).halted = g.halted := rfl
@[simp] theorem writeFlags_exited (s : State) (g : Group) (f : Flags) : (writeFlags s g f).exited = g.exited := rfl
@[simp] theorem writeFlags_causes (s : State) (g : Group) (f : Flags) : (writeFlags s g f).causes = g.causes := rfl
@[simp] theorem writeFlags_replay (s : State) (g : Group) (f : Flags) : (writeFlags s g f).replay = g.replay := rfl
@[simp] theorem writeFlags_pub (s : State) (g : Group) (f : Flags) : (writeFlags s g f).pub = g.pub := rfl
@[simp] theorem writeFlags_got (s : State) (g : Group) (f : Flags) : (writeFlags s g f).got = g.got := rfl
@[simp] theorem writeFlags_ldTime (s : State) (g : Group) (f : Flags) : (writeFlags s g f).ldTime = g.ldTime := rfl
@[simp] theorem writeFlags_parkSeq (s : State) (g : Group) (f : Flags) : (writeFlags s g f).parkSeq = g.parkSeq := rfl
@[simp] theorem writeFlags_words (s : State) (g : Group) (f : Flags) : (writeFlags s g f).words = g.words := rfl
@[simp] theorem writeFlags_trapping (s : State) (g : Group) (f : Flags) : (writeFlags s g f).trapping = g.trapping := rfl

@[simp] theorem writeWin_ctx (s : State) (g : Group) (a : Nat) (w : Window) : (writeWin s g a w).ctx = g.ctx := rfl
@[simp] theorem writeWin_grid (s : State) (g : Group) (a : Nat) (w : Window) : (writeWin s g a w).grid = g.grid := rfl
@[simp] theorem writeWin_block (s : State) (g : Group) (a : Nat) (w : Window) : (writeWin s g a w).block = g.block := rfl
@[simp] theorem writeWin_gidx (s : State) (g : Group) (a : Nat) (w : Window) : (writeWin s g a w).gidx = g.gidx := rfl
@[simp] theorem writeWin_gwid (s : State) (g : Group) (a : Nat) (w : Window) : (writeWin s g a w).gwid = g.gwid := rfl
@[simp] theorem writeWin_slot (s : State) (g : Group) (a : Nat) (w : Window) : (writeWin s g a w).slot = g.slot := rfl
@[simp] theorem writeWin_x (s : State) (g : Group) (a : Nat) (w : Window) : (writeWin s g a w).x = g.x := rfl
@[simp] theorem writeWin_k (s : State) (g : Group) (a : Nat) (w : Window) : (writeWin s g a w).k = g.k := rfl
@[simp] theorem writeWin_win (s : State) (g : Group) (a : Nat) (w : Window) : (writeWin s g a w).win = mset g.win a w := rfl
@[simp] theorem writeWin_flags (s : State) (g : Group) (a : Nat) (w : Window) : (writeWin s g a w).flags = g.flags := rfl
@[simp] theorem writeWin_histX (s : State) (g : Group) (a : Nat) (w : Window) : (writeWin s g a w).histX = g.histX := rfl
@[simp] theorem writeWin_histK (s : State) (g : Group) (a : Nat) (w : Window) : (writeWin s g a w).histK = g.histK := rfl
@[simp] theorem writeWin_histF (s : State) (g : Group) (a : Nat) (w : Window) : (writeWin s g a w).histF = g.histF := rfl
@[simp] theorem writeWin_active (s : State) (g : Group) (a : Nat) (w : Window) : (writeWin s g a w).active = g.active := rfl
@[simp] theorem writeWin_table (s : State) (g : Group) (a : Nat) (w : Window) : (writeWin s g a w).table = g.table := rfl
@[simp] theorem writeWin_level (s : State) (g : Group) (a : Nat) (w : Window) : (writeWin s g a w).level = g.level := rfl
@[simp] theorem writeWin_pc (s : State) (g : Group) (a : Nat) (w : Window) : (writeWin s g a w).pc = g.pc := rfl
@[simp] theorem writeWin_agelim (s : State) (g : Group) (a : Nat) (w : Window) : (writeWin s g a w).agelim = g.agelim := rfl
@[simp] theorem writeWin_mode (s : State) (g : Group) (a : Nat) (w : Window) : (writeWin s g a w).mode = g.mode := rfl
@[simp] theorem writeWin_qthr (s : State) (g : Group) (a : Nat) (w : Window) : (writeWin s g a w).qthr = g.qthr := rfl
@[simp] theorem writeWin_qscale (s : State) (g : Group) (a : Nat) (w : Window) : (writeWin s g a w).qscale = g.qscale := rfl
@[simp] theorem writeWin_qside (s : State) (g : Group) (a : Nat) (w : Window) : (writeWin s g a w).qside = g.qside := rfl
@[simp] theorem writeWin_srx (s : State) (g : Group) (a : Nat) (w : Window) : (writeWin s g a w).srx = g.srx := rfl
@[simp] theorem writeWin_gang (s : State) (g : Group) (a : Nat) (w : Window) : (writeWin s g a w).gang = g.gang := rfl
@[simp] theorem writeWin_icnt (s : State) (g : Group) (a : Nat) (w : Window) : (writeWin s g a w).icnt = g.icnt := rfl
@[simp] theorem writeWin_spn (s : State) (g : Group) (a : Nat) (w : Window) : (writeWin s g a w).spn = g.spn := rfl
@[simp] theorem writeWin_ver (s : State) (g : Group) (a : Nat) (w : Window) : (writeWin s g a w).ver = g.ver := rfl
@[simp] theorem writeWin_xstat (s : State) (g : Group) (a : Nat) (w : Window) : (writeWin s g a w).xstat = g.xstat := rfl
@[simp] theorem writeWin_xreq (s : State) (g : Group) (a : Nat) (w : Window) : (writeWin s g a w).xreq = g.xreq := rfl
@[simp] theorem writeWin_sup (s : State) (g : Group) (a : Nat) (w : Window) : (writeWin s g a w).sup = g.sup := rfl
@[simp] theorem writeWin_scause (s : State) (g : Group) (a : Nat) (w : Window) : (writeWin s g a w).scause = g.scause := rfl
@[simp] theorem writeWin_sepc (s : State) (g : Group) (a : Nat) (w : Window) : (writeWin s g a w).sepc = g.sepc := rfl
@[simp] theorem writeWin_sfmask (s : State) (g : Group) (a : Nat) (w : Window) : (writeWin s g a w).sfmask = g.sfmask := rfl
@[simp] theorem writeWin_stok (s : State) (g : Group) (a : Nat) (w : Window) : (writeWin s g a w).stok = g.stok := rfl
@[simp] theorem writeWin_sretc (s : State) (g : Group) (a : Nat) (w : Window) : (writeWin s g a w).sretc = g.sretc := rfl
@[simp] theorem writeWin_faults (s : State) (g : Group) (a : Nat) (w : Window) : (writeWin s g a w).faults = g.faults := rfl
@[simp] theorem writeWin_trapCmd (s : State) (g : Group) (a : Nat) (w : Window) : (writeWin s g a w).trapCmd = g.trapCmd := rfl
@[simp] theorem writeWin_trapAt (s : State) (g : Group) (a : Nat) (w : Window) : (writeWin s g a w).trapAt = g.trapAt := rfl
@[simp] theorem writeWin_hstack (s : State) (g : Group) (a : Nat) (w : Window) : (writeWin s g a w).hstack = g.hstack := rfl
@[simp] theorem writeWin_uhnd (s : State) (g : Group) (a : Nat) (w : Window) : (writeWin s g a w).uhnd = g.uhnd := rfl
@[simp] theorem writeWin_inUser (s : State) (g : Group) (a : Nat) (w : Window) : (writeWin s g a w).inUser = g.inUser := rfl
@[simp] theorem writeWin_ext (s : State) (g : Group) (a : Nat) (w : Window) : (writeWin s g a w).ext = g.ext := rfl
@[simp] theorem writeWin_cnt (s : State) (g : Group) (a : Nat) (w : Window) : (writeWin s g a w).cnt = g.cnt := rfl
@[simp] theorem writeWin_seen (s : State) (g : Group) (a : Nat) (w : Window) : (writeWin s g a w).seen = g.seen := rfl
@[simp] theorem writeWin_waited (s : State) (g : Group) (a : Nat) (w : Window) : (writeWin s g a w).waited = g.waited := rfl
@[simp] theorem writeWin_compl (s : State) (g : Group) (a : Nat) (w : Window) : (writeWin s g a w).compl = g.compl := rfl
@[simp] theorem writeWin_pfSnap (s : State) (g : Group) (a : Nat) (w : Window) : (writeWin s g a w).pfSnap = g.pfSnap := rfl
@[simp] theorem writeWin_park (s : State) (g : Group) (a : Nat) (w : Window) : (writeWin s g a w).park = g.park := rfl
@[simp] theorem writeWin_halted (s : State) (g : Group) (a : Nat) (w : Window) : (writeWin s g a w).halted = g.halted := rfl
@[simp] theorem writeWin_exited (s : State) (g : Group) (a : Nat) (w : Window) : (writeWin s g a w).exited = g.exited := rfl
@[simp] theorem writeWin_causes (s : State) (g : Group) (a : Nat) (w : Window) : (writeWin s g a w).causes = g.causes := rfl
@[simp] theorem writeWin_replay (s : State) (g : Group) (a : Nat) (w : Window) : (writeWin s g a w).replay = g.replay := rfl
@[simp] theorem writeWin_pub (s : State) (g : Group) (a : Nat) (w : Window) : (writeWin s g a w).pub = g.pub := rfl
@[simp] theorem writeWin_got (s : State) (g : Group) (a : Nat) (w : Window) : (writeWin s g a w).got = g.got := rfl
@[simp] theorem writeWin_ldTime (s : State) (g : Group) (a : Nat) (w : Window) : (writeWin s g a w).ldTime = g.ldTime := rfl
@[simp] theorem writeWin_parkSeq (s : State) (g : Group) (a : Nat) (w : Window) : (writeWin s g a w).parkSeq = g.parkSeq := rfl
@[simp] theorem writeWin_words (s : State) (g : Group) (a : Nat) (w : Window) : (writeWin s g a w).words = g.words := rfl
@[simp] theorem writeWin_trapping (s : State) (g : Group) (a : Nat) (w : Window) : (writeWin s g a w).trapping = g.trapping := rfl

@[simp] theorem writeX_ctx (s : State) (g : Group) (r : Nat) (m : Mask) (f : Nat → Word) : (writeX s g r m f).ctx = g.ctx := by unfold writeX; split <;> rfl
@[simp] theorem writeX_grid (s : State) (g : Group) (r : Nat) (m : Mask) (f : Nat → Word) : (writeX s g r m f).grid = g.grid := by unfold writeX; split <;> rfl
@[simp] theorem writeX_block (s : State) (g : Group) (r : Nat) (m : Mask) (f : Nat → Word) : (writeX s g r m f).block = g.block := by unfold writeX; split <;> rfl
@[simp] theorem writeX_gidx (s : State) (g : Group) (r : Nat) (m : Mask) (f : Nat → Word) : (writeX s g r m f).gidx = g.gidx := by unfold writeX; split <;> rfl
@[simp] theorem writeX_gwid (s : State) (g : Group) (r : Nat) (m : Mask) (f : Nat → Word) : (writeX s g r m f).gwid = g.gwid := by unfold writeX; split <;> rfl
@[simp] theorem writeX_slot (s : State) (g : Group) (r : Nat) (m : Mask) (f : Nat → Word) : (writeX s g r m f).slot = g.slot := by unfold writeX; split <;> rfl
@[simp] theorem writeX_k (s : State) (g : Group) (r : Nat) (m : Mask) (f : Nat → Word) : (writeX s g r m f).k = g.k := by unfold writeX; split <;> rfl
@[simp] theorem writeX_win (s : State) (g : Group) (r : Nat) (m : Mask) (f : Nat → Word) : (writeX s g r m f).win = g.win := by unfold writeX; split <;> rfl
@[simp] theorem writeX_flags (s : State) (g : Group) (r : Nat) (m : Mask) (f : Nat → Word) : (writeX s g r m f).flags = g.flags := by unfold writeX; split <;> rfl
@[simp] theorem writeX_histK (s : State) (g : Group) (r : Nat) (m : Mask) (f : Nat → Word) : (writeX s g r m f).histK = g.histK := by unfold writeX; split <;> rfl
@[simp] theorem writeX_histW (s : State) (g : Group) (r : Nat) (m : Mask) (f : Nat → Word) : (writeX s g r m f).histW = g.histW := by unfold writeX; split <;> rfl
@[simp] theorem writeX_histF (s : State) (g : Group) (r : Nat) (m : Mask) (f : Nat → Word) : (writeX s g r m f).histF = g.histF := by unfold writeX; split <;> rfl
@[simp] theorem writeX_active (s : State) (g : Group) (r : Nat) (m : Mask) (f : Nat → Word) : (writeX s g r m f).active = g.active := by unfold writeX; split <;> rfl
@[simp] theorem writeX_table (s : State) (g : Group) (r : Nat) (m : Mask) (f : Nat → Word) : (writeX s g r m f).table = g.table := by unfold writeX; split <;> rfl
@[simp] theorem writeX_level (s : State) (g : Group) (r : Nat) (m : Mask) (f : Nat → Word) : (writeX s g r m f).level = g.level := by unfold writeX; split <;> rfl
@[simp] theorem writeX_pc (s : State) (g : Group) (r : Nat) (m : Mask) (f : Nat → Word) : (writeX s g r m f).pc = g.pc := by unfold writeX; split <;> rfl
@[simp] theorem writeX_agelim (s : State) (g : Group) (r : Nat) (m : Mask) (f : Nat → Word) : (writeX s g r m f).agelim = g.agelim := by unfold writeX; split <;> rfl
@[simp] theorem writeX_mode (s : State) (g : Group) (r : Nat) (m : Mask) (f : Nat → Word) : (writeX s g r m f).mode = g.mode := by unfold writeX; split <;> rfl
@[simp] theorem writeX_qthr (s : State) (g : Group) (r : Nat) (m : Mask) (f : Nat → Word) : (writeX s g r m f).qthr = g.qthr := by unfold writeX; split <;> rfl
@[simp] theorem writeX_qscale (s : State) (g : Group) (r : Nat) (m : Mask) (f : Nat → Word) : (writeX s g r m f).qscale = g.qscale := by unfold writeX; split <;> rfl
@[simp] theorem writeX_qside (s : State) (g : Group) (r : Nat) (m : Mask) (f : Nat → Word) : (writeX s g r m f).qside = g.qside := by unfold writeX; split <;> rfl
@[simp] theorem writeX_srx (s : State) (g : Group) (r : Nat) (m : Mask) (f : Nat → Word) : (writeX s g r m f).srx = g.srx := by unfold writeX; split <;> rfl
@[simp] theorem writeX_gang (s : State) (g : Group) (r : Nat) (m : Mask) (f : Nat → Word) : (writeX s g r m f).gang = g.gang := by unfold writeX; split <;> rfl
@[simp] theorem writeX_icnt (s : State) (g : Group) (r : Nat) (m : Mask) (f : Nat → Word) : (writeX s g r m f).icnt = g.icnt := by unfold writeX; split <;> rfl
@[simp] theorem writeX_spn (s : State) (g : Group) (r : Nat) (m : Mask) (f : Nat → Word) : (writeX s g r m f).spn = g.spn := by unfold writeX; split <;> rfl
@[simp] theorem writeX_ver (s : State) (g : Group) (r : Nat) (m : Mask) (f : Nat → Word) : (writeX s g r m f).ver = g.ver := by unfold writeX; split <;> rfl
@[simp] theorem writeX_xstat (s : State) (g : Group) (r : Nat) (m : Mask) (f : Nat → Word) : (writeX s g r m f).xstat = g.xstat := by unfold writeX; split <;> rfl
@[simp] theorem writeX_xreq (s : State) (g : Group) (r : Nat) (m : Mask) (f : Nat → Word) : (writeX s g r m f).xreq = g.xreq := by unfold writeX; split <;> rfl
@[simp] theorem writeX_sup (s : State) (g : Group) (r : Nat) (m : Mask) (f : Nat → Word) : (writeX s g r m f).sup = g.sup := by unfold writeX; split <;> rfl
@[simp] theorem writeX_scause (s : State) (g : Group) (r : Nat) (m : Mask) (f : Nat → Word) : (writeX s g r m f).scause = g.scause := by unfold writeX; split <;> rfl
@[simp] theorem writeX_sepc (s : State) (g : Group) (r : Nat) (m : Mask) (f : Nat → Word) : (writeX s g r m f).sepc = g.sepc := by unfold writeX; split <;> rfl
@[simp] theorem writeX_sfmask (s : State) (g : Group) (r : Nat) (m : Mask) (f : Nat → Word) : (writeX s g r m f).sfmask = g.sfmask := by unfold writeX; split <;> rfl
@[simp] theorem writeX_stok (s : State) (g : Group) (r : Nat) (m : Mask) (f : Nat → Word) : (writeX s g r m f).stok = g.stok := by unfold writeX; split <;> rfl
@[simp] theorem writeX_sretc (s : State) (g : Group) (r : Nat) (m : Mask) (f : Nat → Word) : (writeX s g r m f).sretc = g.sretc := by unfold writeX; split <;> rfl
@[simp] theorem writeX_faults (s : State) (g : Group) (r : Nat) (m : Mask) (f : Nat → Word) : (writeX s g r m f).faults = g.faults := by unfold writeX; split <;> rfl
@[simp] theorem writeX_trapCmd (s : State) (g : Group) (r : Nat) (m : Mask) (f : Nat → Word) : (writeX s g r m f).trapCmd = g.trapCmd := by unfold writeX; split <;> rfl
@[simp] theorem writeX_trapAt (s : State) (g : Group) (r : Nat) (m : Mask) (f : Nat → Word) : (writeX s g r m f).trapAt = g.trapAt := by unfold writeX; split <;> rfl
@[simp] theorem writeX_hstack (s : State) (g : Group) (r : Nat) (m : Mask) (f : Nat → Word) : (writeX s g r m f).hstack = g.hstack := by unfold writeX; split <;> rfl
@[simp] theorem writeX_uhnd (s : State) (g : Group) (r : Nat) (m : Mask) (f : Nat → Word) : (writeX s g r m f).uhnd = g.uhnd := by unfold writeX; split <;> rfl
@[simp] theorem writeX_inUser (s : State) (g : Group) (r : Nat) (m : Mask) (f : Nat → Word) : (writeX s g r m f).inUser = g.inUser := by unfold writeX; split <;> rfl
@[simp] theorem writeX_ext (s : State) (g : Group) (r : Nat) (m : Mask) (f : Nat → Word) : (writeX s g r m f).ext = g.ext := by unfold writeX; split <;> rfl
@[simp] theorem writeX_cnt (s : State) (g : Group) (r : Nat) (m : Mask) (f : Nat → Word) : (writeX s g r m f).cnt = g.cnt := by unfold writeX; split <;> rfl
@[simp] theorem writeX_seen (s : State) (g : Group) (r : Nat) (m : Mask) (f : Nat → Word) : (writeX s g r m f).seen = g.seen := by unfold writeX; split <;> rfl
@[simp] theorem writeX_waited (s : State) (g : Group) (r : Nat) (m : Mask) (f : Nat → Word) : (writeX s g r m f).waited = g.waited := by unfold writeX; split <;> rfl
@[simp] theorem writeX_compl (s : State) (g : Group) (r : Nat) (m : Mask) (f : Nat → Word) : (writeX s g r m f).compl = g.compl := by unfold writeX; split <;> rfl
@[simp] theorem writeX_pfSnap (s : State) (g : Group) (r : Nat) (m : Mask) (f : Nat → Word) : (writeX s g r m f).pfSnap = g.pfSnap := by unfold writeX; split <;> rfl
@[simp] theorem writeX_park (s : State) (g : Group) (r : Nat) (m : Mask) (f : Nat → Word) : (writeX s g r m f).park = g.park := by unfold writeX; split <;> rfl
@[simp] theorem writeX_halted (s : State) (g : Group) (r : Nat) (m : Mask) (f : Nat → Word) : (writeX s g r m f).halted = g.halted := by unfold writeX; split <;> rfl
@[simp] theorem writeX_exited (s : State) (g : Group) (r : Nat) (m : Mask) (f : Nat → Word) : (writeX s g r m f).exited = g.exited := by unfold writeX; split <;> rfl
@[simp] theorem writeX_causes (s : State) (g : Group) (r : Nat) (m : Mask) (f : Nat → Word) : (writeX s g r m f).causes = g.causes := by unfold writeX; split <;> rfl
@[simp] theorem writeX_replay (s : State) (g : Group) (r : Nat) (m : Mask) (f : Nat → Word) : (writeX s g r m f).replay = g.replay := by unfold writeX; split <;> rfl
@[simp] theorem writeX_pub (s : State) (g : Group) (r : Nat) (m : Mask) (f : Nat → Word) : (writeX s g r m f).pub = g.pub := by unfold writeX; split <;> rfl
@[simp] theorem writeX_got (s : State) (g : Group) (r : Nat) (m : Mask) (f : Nat → Word) : (writeX s g r m f).got = g.got := by unfold writeX; split <;> rfl
@[simp] theorem writeX_ldTime (s : State) (g : Group) (r : Nat) (m : Mask) (f : Nat → Word) : (writeX s g r m f).ldTime = g.ldTime := by unfold writeX; split <;> rfl
@[simp] theorem writeX_parkSeq (s : State) (g : Group) (r : Nat) (m : Mask) (f : Nat → Word) : (writeX s g r m f).parkSeq = g.parkSeq := by unfold writeX; split <;> rfl
@[simp] theorem writeX_words (s : State) (g : Group) (r : Nat) (m : Mask) (f : Nat → Word) : (writeX s g r m f).words = g.words := by unfold writeX; split <;> rfl
@[simp] theorem writeX_trapping (s : State) (g : Group) (r : Nat) (m : Mask) (f : Nat → Word) : (writeX s g r m f).trapping = g.trapping := by unfold writeX; split <;> rfl

@[simp] theorem writeK_ctx (s : State) (g : Group) (n : Nat) (v : Mask) : (writeK s g n v).ctx = g.ctx := by unfold writeK; split <;> rfl
@[simp] theorem writeK_grid (s : State) (g : Group) (n : Nat) (v : Mask) : (writeK s g n v).grid = g.grid := by unfold writeK; split <;> rfl
@[simp] theorem writeK_block (s : State) (g : Group) (n : Nat) (v : Mask) : (writeK s g n v).block = g.block := by unfold writeK; split <;> rfl
@[simp] theorem writeK_gidx (s : State) (g : Group) (n : Nat) (v : Mask) : (writeK s g n v).gidx = g.gidx := by unfold writeK; split <;> rfl
@[simp] theorem writeK_gwid (s : State) (g : Group) (n : Nat) (v : Mask) : (writeK s g n v).gwid = g.gwid := by unfold writeK; split <;> rfl
@[simp] theorem writeK_slot (s : State) (g : Group) (n : Nat) (v : Mask) : (writeK s g n v).slot = g.slot := by unfold writeK; split <;> rfl
@[simp] theorem writeK_x (s : State) (g : Group) (n : Nat) (v : Mask) : (writeK s g n v).x = g.x := by unfold writeK; split <;> rfl
@[simp] theorem writeK_win (s : State) (g : Group) (n : Nat) (v : Mask) : (writeK s g n v).win = g.win := by unfold writeK; split <;> rfl
@[simp] theorem writeK_flags (s : State) (g : Group) (n : Nat) (v : Mask) : (writeK s g n v).flags = g.flags := by unfold writeK; split <;> rfl
@[simp] theorem writeK_histX (s : State) (g : Group) (n : Nat) (v : Mask) : (writeK s g n v).histX = g.histX := by unfold writeK; split <;> rfl
@[simp] theorem writeK_histW (s : State) (g : Group) (n : Nat) (v : Mask) : (writeK s g n v).histW = g.histW := by unfold writeK; split <;> rfl
@[simp] theorem writeK_histF (s : State) (g : Group) (n : Nat) (v : Mask) : (writeK s g n v).histF = g.histF := by unfold writeK; split <;> rfl
@[simp] theorem writeK_active (s : State) (g : Group) (n : Nat) (v : Mask) : (writeK s g n v).active = g.active := by unfold writeK; split <;> rfl
@[simp] theorem writeK_table (s : State) (g : Group) (n : Nat) (v : Mask) : (writeK s g n v).table = g.table := by unfold writeK; split <;> rfl
@[simp] theorem writeK_level (s : State) (g : Group) (n : Nat) (v : Mask) : (writeK s g n v).level = g.level := by unfold writeK; split <;> rfl
@[simp] theorem writeK_pc (s : State) (g : Group) (n : Nat) (v : Mask) : (writeK s g n v).pc = g.pc := by unfold writeK; split <;> rfl
@[simp] theorem writeK_agelim (s : State) (g : Group) (n : Nat) (v : Mask) : (writeK s g n v).agelim = g.agelim := by unfold writeK; split <;> rfl
@[simp] theorem writeK_mode (s : State) (g : Group) (n : Nat) (v : Mask) : (writeK s g n v).mode = g.mode := by unfold writeK; split <;> rfl
@[simp] theorem writeK_qthr (s : State) (g : Group) (n : Nat) (v : Mask) : (writeK s g n v).qthr = g.qthr := by unfold writeK; split <;> rfl
@[simp] theorem writeK_qscale (s : State) (g : Group) (n : Nat) (v : Mask) : (writeK s g n v).qscale = g.qscale := by unfold writeK; split <;> rfl
@[simp] theorem writeK_qside (s : State) (g : Group) (n : Nat) (v : Mask) : (writeK s g n v).qside = g.qside := by unfold writeK; split <;> rfl
@[simp] theorem writeK_srx (s : State) (g : Group) (n : Nat) (v : Mask) : (writeK s g n v).srx = g.srx := by unfold writeK; split <;> rfl
@[simp] theorem writeK_gang (s : State) (g : Group) (n : Nat) (v : Mask) : (writeK s g n v).gang = g.gang := by unfold writeK; split <;> rfl
@[simp] theorem writeK_icnt (s : State) (g : Group) (n : Nat) (v : Mask) : (writeK s g n v).icnt = g.icnt := by unfold writeK; split <;> rfl
@[simp] theorem writeK_spn (s : State) (g : Group) (n : Nat) (v : Mask) : (writeK s g n v).spn = g.spn := by unfold writeK; split <;> rfl
@[simp] theorem writeK_ver (s : State) (g : Group) (n : Nat) (v : Mask) : (writeK s g n v).ver = g.ver := by unfold writeK; split <;> rfl
@[simp] theorem writeK_xstat (s : State) (g : Group) (n : Nat) (v : Mask) : (writeK s g n v).xstat = g.xstat := by unfold writeK; split <;> rfl
@[simp] theorem writeK_xreq (s : State) (g : Group) (n : Nat) (v : Mask) : (writeK s g n v).xreq = g.xreq := by unfold writeK; split <;> rfl
@[simp] theorem writeK_sup (s : State) (g : Group) (n : Nat) (v : Mask) : (writeK s g n v).sup = g.sup := by unfold writeK; split <;> rfl
@[simp] theorem writeK_scause (s : State) (g : Group) (n : Nat) (v : Mask) : (writeK s g n v).scause = g.scause := by unfold writeK; split <;> rfl
@[simp] theorem writeK_sepc (s : State) (g : Group) (n : Nat) (v : Mask) : (writeK s g n v).sepc = g.sepc := by unfold writeK; split <;> rfl
@[simp] theorem writeK_sfmask (s : State) (g : Group) (n : Nat) (v : Mask) : (writeK s g n v).sfmask = g.sfmask := by unfold writeK; split <;> rfl
@[simp] theorem writeK_stok (s : State) (g : Group) (n : Nat) (v : Mask) : (writeK s g n v).stok = g.stok := by unfold writeK; split <;> rfl
@[simp] theorem writeK_sretc (s : State) (g : Group) (n : Nat) (v : Mask) : (writeK s g n v).sretc = g.sretc := by unfold writeK; split <;> rfl
@[simp] theorem writeK_faults (s : State) (g : Group) (n : Nat) (v : Mask) : (writeK s g n v).faults = g.faults := by unfold writeK; split <;> rfl
@[simp] theorem writeK_trapCmd (s : State) (g : Group) (n : Nat) (v : Mask) : (writeK s g n v).trapCmd = g.trapCmd := by unfold writeK; split <;> rfl
@[simp] theorem writeK_trapAt (s : State) (g : Group) (n : Nat) (v : Mask) : (writeK s g n v).trapAt = g.trapAt := by unfold writeK; split <;> rfl
@[simp] theorem writeK_hstack (s : State) (g : Group) (n : Nat) (v : Mask) : (writeK s g n v).hstack = g.hstack := by unfold writeK; split <;> rfl
@[simp] theorem writeK_uhnd (s : State) (g : Group) (n : Nat) (v : Mask) : (writeK s g n v).uhnd = g.uhnd := by unfold writeK; split <;> rfl
@[simp] theorem writeK_inUser (s : State) (g : Group) (n : Nat) (v : Mask) : (writeK s g n v).inUser = g.inUser := by unfold writeK; split <;> rfl
@[simp] theorem writeK_ext (s : State) (g : Group) (n : Nat) (v : Mask) : (writeK s g n v).ext = g.ext := by unfold writeK; split <;> rfl
@[simp] theorem writeK_cnt (s : State) (g : Group) (n : Nat) (v : Mask) : (writeK s g n v).cnt = g.cnt := by unfold writeK; split <;> rfl
@[simp] theorem writeK_seen (s : State) (g : Group) (n : Nat) (v : Mask) : (writeK s g n v).seen = g.seen := by unfold writeK; split <;> rfl
@[simp] theorem writeK_waited (s : State) (g : Group) (n : Nat) (v : Mask) : (writeK s g n v).waited = g.waited := by unfold writeK; split <;> rfl
@[simp] theorem writeK_compl (s : State) (g : Group) (n : Nat) (v : Mask) : (writeK s g n v).compl = g.compl := by unfold writeK; split <;> rfl
@[simp] theorem writeK_pfSnap (s : State) (g : Group) (n : Nat) (v : Mask) : (writeK s g n v).pfSnap = g.pfSnap := by unfold writeK; split <;> rfl
@[simp] theorem writeK_park (s : State) (g : Group) (n : Nat) (v : Mask) : (writeK s g n v).park = g.park := by unfold writeK; split <;> rfl
@[simp] theorem writeK_halted (s : State) (g : Group) (n : Nat) (v : Mask) : (writeK s g n v).halted = g.halted := by unfold writeK; split <;> rfl
@[simp] theorem writeK_exited (s : State) (g : Group) (n : Nat) (v : Mask) : (writeK s g n v).exited = g.exited := by unfold writeK; split <;> rfl
@[simp] theorem writeK_causes (s : State) (g : Group) (n : Nat) (v : Mask) : (writeK s g n v).causes = g.causes := by unfold writeK; split <;> rfl
@[simp] theorem writeK_replay (s : State) (g : Group) (n : Nat) (v : Mask) : (writeK s g n v).replay = g.replay := by unfold writeK; split <;> rfl
@[simp] theorem writeK_pub (s : State) (g : Group) (n : Nat) (v : Mask) : (writeK s g n v).pub = g.pub := by unfold writeK; split <;> rfl
@[simp] theorem writeK_got (s : State) (g : Group) (n : Nat) (v : Mask) : (writeK s g n v).got = g.got := by unfold writeK; split <;> rfl
@[simp] theorem writeK_ldTime (s : State) (g : Group) (n : Nat) (v : Mask) : (writeK s g n v).ldTime = g.ldTime := by unfold writeK; split <;> rfl
@[simp] theorem writeK_parkSeq (s : State) (g : Group) (n : Nat) (v : Mask) : (writeK s g n v).parkSeq = g.parkSeq := by unfold writeK; split <;> rfl
@[simp] theorem writeK_words (s : State) (g : Group) (n : Nat) (v : Mask) : (writeK s g n v).words = g.words := by unfold writeK; split <;> rfl
@[simp] theorem writeK_trapping (s : State) (g : Group) (n : Nat) (v : Mask) : (writeK s g n v).trapping = g.trapping := by unfold writeK; split <;> rfl

@[simp] theorem writeU_ctx (s : State) (g : Group) (r : Nat) (v : Word) : (writeU s g r v).ctx = g.ctx := by simp [writeU]
@[simp] theorem writeU_grid (s : State) (g : Group) (r : Nat) (v : Word) : (writeU s g r v).grid = g.grid := by simp [writeU]
@[simp] theorem writeU_block (s : State) (g : Group) (r : Nat) (v : Word) : (writeU s g r v).block = g.block := by simp [writeU]
@[simp] theorem writeU_gidx (s : State) (g : Group) (r : Nat) (v : Word) : (writeU s g r v).gidx = g.gidx := by simp [writeU]
@[simp] theorem writeU_gwid (s : State) (g : Group) (r : Nat) (v : Word) : (writeU s g r v).gwid = g.gwid := by simp [writeU]
@[simp] theorem writeU_slot (s : State) (g : Group) (r : Nat) (v : Word) : (writeU s g r v).slot = g.slot := by simp [writeU]
@[simp] theorem writeU_k (s : State) (g : Group) (r : Nat) (v : Word) : (writeU s g r v).k = g.k := by simp [writeU]
@[simp] theorem writeU_win (s : State) (g : Group) (r : Nat) (v : Word) : (writeU s g r v).win = g.win := by simp [writeU]
@[simp] theorem writeU_flags (s : State) (g : Group) (r : Nat) (v : Word) : (writeU s g r v).flags = g.flags := by simp [writeU]
@[simp] theorem writeU_histK (s : State) (g : Group) (r : Nat) (v : Word) : (writeU s g r v).histK = g.histK := by simp [writeU]
@[simp] theorem writeU_histW (s : State) (g : Group) (r : Nat) (v : Word) : (writeU s g r v).histW = g.histW := by simp [writeU]
@[simp] theorem writeU_histF (s : State) (g : Group) (r : Nat) (v : Word) : (writeU s g r v).histF = g.histF := by simp [writeU]
@[simp] theorem writeU_active (s : State) (g : Group) (r : Nat) (v : Word) : (writeU s g r v).active = g.active := by simp [writeU]
@[simp] theorem writeU_table (s : State) (g : Group) (r : Nat) (v : Word) : (writeU s g r v).table = g.table := by simp [writeU]
@[simp] theorem writeU_level (s : State) (g : Group) (r : Nat) (v : Word) : (writeU s g r v).level = g.level := by simp [writeU]
@[simp] theorem writeU_pc (s : State) (g : Group) (r : Nat) (v : Word) : (writeU s g r v).pc = g.pc := by simp [writeU]
@[simp] theorem writeU_agelim (s : State) (g : Group) (r : Nat) (v : Word) : (writeU s g r v).agelim = g.agelim := by simp [writeU]
@[simp] theorem writeU_mode (s : State) (g : Group) (r : Nat) (v : Word) : (writeU s g r v).mode = g.mode := by simp [writeU]
@[simp] theorem writeU_qthr (s : State) (g : Group) (r : Nat) (v : Word) : (writeU s g r v).qthr = g.qthr := by simp [writeU]
@[simp] theorem writeU_qscale (s : State) (g : Group) (r : Nat) (v : Word) : (writeU s g r v).qscale = g.qscale := by simp [writeU]
@[simp] theorem writeU_qside (s : State) (g : Group) (r : Nat) (v : Word) : (writeU s g r v).qside = g.qside := by simp [writeU]
@[simp] theorem writeU_srx (s : State) (g : Group) (r : Nat) (v : Word) : (writeU s g r v).srx = g.srx := by simp [writeU]
@[simp] theorem writeU_gang (s : State) (g : Group) (r : Nat) (v : Word) : (writeU s g r v).gang = g.gang := by simp [writeU]
@[simp] theorem writeU_icnt (s : State) (g : Group) (r : Nat) (v : Word) : (writeU s g r v).icnt = g.icnt := by simp [writeU]
@[simp] theorem writeU_spn (s : State) (g : Group) (r : Nat) (v : Word) : (writeU s g r v).spn = g.spn := by simp [writeU]
@[simp] theorem writeU_ver (s : State) (g : Group) (r : Nat) (v : Word) : (writeU s g r v).ver = g.ver := by simp [writeU]
@[simp] theorem writeU_xstat (s : State) (g : Group) (r : Nat) (v : Word) : (writeU s g r v).xstat = g.xstat := by simp [writeU]
@[simp] theorem writeU_xreq (s : State) (g : Group) (r : Nat) (v : Word) : (writeU s g r v).xreq = g.xreq := by simp [writeU]
@[simp] theorem writeU_sup (s : State) (g : Group) (r : Nat) (v : Word) : (writeU s g r v).sup = g.sup := by simp [writeU]
@[simp] theorem writeU_scause (s : State) (g : Group) (r : Nat) (v : Word) : (writeU s g r v).scause = g.scause := by simp [writeU]
@[simp] theorem writeU_sepc (s : State) (g : Group) (r : Nat) (v : Word) : (writeU s g r v).sepc = g.sepc := by simp [writeU]
@[simp] theorem writeU_sfmask (s : State) (g : Group) (r : Nat) (v : Word) : (writeU s g r v).sfmask = g.sfmask := by simp [writeU]
@[simp] theorem writeU_stok (s : State) (g : Group) (r : Nat) (v : Word) : (writeU s g r v).stok = g.stok := by simp [writeU]
@[simp] theorem writeU_sretc (s : State) (g : Group) (r : Nat) (v : Word) : (writeU s g r v).sretc = g.sretc := by simp [writeU]
@[simp] theorem writeU_faults (s : State) (g : Group) (r : Nat) (v : Word) : (writeU s g r v).faults = g.faults := by simp [writeU]
@[simp] theorem writeU_trapCmd (s : State) (g : Group) (r : Nat) (v : Word) : (writeU s g r v).trapCmd = g.trapCmd := by simp [writeU]
@[simp] theorem writeU_trapAt (s : State) (g : Group) (r : Nat) (v : Word) : (writeU s g r v).trapAt = g.trapAt := by simp [writeU]
@[simp] theorem writeU_hstack (s : State) (g : Group) (r : Nat) (v : Word) : (writeU s g r v).hstack = g.hstack := by simp [writeU]
@[simp] theorem writeU_uhnd (s : State) (g : Group) (r : Nat) (v : Word) : (writeU s g r v).uhnd = g.uhnd := by simp [writeU]
@[simp] theorem writeU_inUser (s : State) (g : Group) (r : Nat) (v : Word) : (writeU s g r v).inUser = g.inUser := by simp [writeU]
@[simp] theorem writeU_ext (s : State) (g : Group) (r : Nat) (v : Word) : (writeU s g r v).ext = g.ext := by simp [writeU]
@[simp] theorem writeU_cnt (s : State) (g : Group) (r : Nat) (v : Word) : (writeU s g r v).cnt = g.cnt := by simp [writeU]
@[simp] theorem writeU_seen (s : State) (g : Group) (r : Nat) (v : Word) : (writeU s g r v).seen = g.seen := by simp [writeU]
@[simp] theorem writeU_waited (s : State) (g : Group) (r : Nat) (v : Word) : (writeU s g r v).waited = g.waited := by simp [writeU]
@[simp] theorem writeU_compl (s : State) (g : Group) (r : Nat) (v : Word) : (writeU s g r v).compl = g.compl := by simp [writeU]
@[simp] theorem writeU_pfSnap (s : State) (g : Group) (r : Nat) (v : Word) : (writeU s g r v).pfSnap = g.pfSnap := by simp [writeU]
@[simp] theorem writeU_park (s : State) (g : Group) (r : Nat) (v : Word) : (writeU s g r v).park = g.park := by simp [writeU]
@[simp] theorem writeU_halted (s : State) (g : Group) (r : Nat) (v : Word) : (writeU s g r v).halted = g.halted := by simp [writeU]
@[simp] theorem writeU_exited (s : State) (g : Group) (r : Nat) (v : Word) : (writeU s g r v).exited = g.exited := by simp [writeU]
@[simp] theorem writeU_causes (s : State) (g : Group) (r : Nat) (v : Word) : (writeU s g r v).causes = g.causes := by simp [writeU]
@[simp] theorem writeU_replay (s : State) (g : Group) (r : Nat) (v : Word) : (writeU s g r v).replay = g.replay := by simp [writeU]
@[simp] theorem writeU_pub (s : State) (g : Group) (r : Nat) (v : Word) : (writeU s g r v).pub = g.pub := by simp [writeU]
@[simp] theorem writeU_got (s : State) (g : Group) (r : Nat) (v : Word) : (writeU s g r v).got = g.got := by simp [writeU]
@[simp] theorem writeU_ldTime (s : State) (g : Group) (r : Nat) (v : Word) : (writeU s g r v).ldTime = g.ldTime := by simp [writeU]
@[simp] theorem writeU_parkSeq (s : State) (g : Group) (r : Nat) (v : Word) : (writeU s g r v).parkSeq = g.parkSeq := by simp [writeU]
@[simp] theorem writeU_words (s : State) (g : Group) (r : Nat) (v : Word) : (writeU s g r v).words = g.words := by simp [writeU]
@[simp] theorem writeU_trapping (s : State) (g : Group) (r : Nat) (v : Word) : (writeU s g r v).trapping = g.trapping := by simp [writeU]

@[simp] theorem writeUPair_ctx (s : State) (g : Group) (r v : Nat) : (writeUPair s g r v).ctx = g.ctx := by simp [writeUPair]
@[simp] theorem writeUPair_grid (s : State) (g : Group) (r v : Nat) : (writeUPair s g r v).grid = g.grid := by simp [writeUPair]
@[simp] theorem writeUPair_block (s : State) (g : Group) (r v : Nat) : (writeUPair s g r v).block = g.block := by simp [writeUPair]
@[simp] theorem writeUPair_gidx (s : State) (g : Group) (r v : Nat) : (writeUPair s g r v).gidx = g.gidx := by simp [writeUPair]
@[simp] theorem writeUPair_gwid (s : State) (g : Group) (r v : Nat) : (writeUPair s g r v).gwid = g.gwid := by simp [writeUPair]
@[simp] theorem writeUPair_slot (s : State) (g : Group) (r v : Nat) : (writeUPair s g r v).slot = g.slot := by simp [writeUPair]
@[simp] theorem writeUPair_k (s : State) (g : Group) (r v : Nat) : (writeUPair s g r v).k = g.k := by simp [writeUPair]
@[simp] theorem writeUPair_win (s : State) (g : Group) (r v : Nat) : (writeUPair s g r v).win = g.win := by simp [writeUPair]
@[simp] theorem writeUPair_flags (s : State) (g : Group) (r v : Nat) : (writeUPair s g r v).flags = g.flags := by simp [writeUPair]
@[simp] theorem writeUPair_histK (s : State) (g : Group) (r v : Nat) : (writeUPair s g r v).histK = g.histK := by simp [writeUPair]
@[simp] theorem writeUPair_histW (s : State) (g : Group) (r v : Nat) : (writeUPair s g r v).histW = g.histW := by simp [writeUPair]
@[simp] theorem writeUPair_histF (s : State) (g : Group) (r v : Nat) : (writeUPair s g r v).histF = g.histF := by simp [writeUPair]
@[simp] theorem writeUPair_active (s : State) (g : Group) (r v : Nat) : (writeUPair s g r v).active = g.active := by simp [writeUPair]
@[simp] theorem writeUPair_table (s : State) (g : Group) (r v : Nat) : (writeUPair s g r v).table = g.table := by simp [writeUPair]
@[simp] theorem writeUPair_level (s : State) (g : Group) (r v : Nat) : (writeUPair s g r v).level = g.level := by simp [writeUPair]
@[simp] theorem writeUPair_pc (s : State) (g : Group) (r v : Nat) : (writeUPair s g r v).pc = g.pc := by simp [writeUPair]
@[simp] theorem writeUPair_agelim (s : State) (g : Group) (r v : Nat) : (writeUPair s g r v).agelim = g.agelim := by simp [writeUPair]
@[simp] theorem writeUPair_mode (s : State) (g : Group) (r v : Nat) : (writeUPair s g r v).mode = g.mode := by simp [writeUPair]
@[simp] theorem writeUPair_qthr (s : State) (g : Group) (r v : Nat) : (writeUPair s g r v).qthr = g.qthr := by simp [writeUPair]
@[simp] theorem writeUPair_qscale (s : State) (g : Group) (r v : Nat) : (writeUPair s g r v).qscale = g.qscale := by simp [writeUPair]
@[simp] theorem writeUPair_qside (s : State) (g : Group) (r v : Nat) : (writeUPair s g r v).qside = g.qside := by simp [writeUPair]
@[simp] theorem writeUPair_srx (s : State) (g : Group) (r v : Nat) : (writeUPair s g r v).srx = g.srx := by simp [writeUPair]
@[simp] theorem writeUPair_gang (s : State) (g : Group) (r v : Nat) : (writeUPair s g r v).gang = g.gang := by simp [writeUPair]
@[simp] theorem writeUPair_icnt (s : State) (g : Group) (r v : Nat) : (writeUPair s g r v).icnt = g.icnt := by simp [writeUPair]
@[simp] theorem writeUPair_spn (s : State) (g : Group) (r v : Nat) : (writeUPair s g r v).spn = g.spn := by simp [writeUPair]
@[simp] theorem writeUPair_ver (s : State) (g : Group) (r v : Nat) : (writeUPair s g r v).ver = g.ver := by simp [writeUPair]
@[simp] theorem writeUPair_xstat (s : State) (g : Group) (r v : Nat) : (writeUPair s g r v).xstat = g.xstat := by simp [writeUPair]
@[simp] theorem writeUPair_xreq (s : State) (g : Group) (r v : Nat) : (writeUPair s g r v).xreq = g.xreq := by simp [writeUPair]
@[simp] theorem writeUPair_sup (s : State) (g : Group) (r v : Nat) : (writeUPair s g r v).sup = g.sup := by simp [writeUPair]
@[simp] theorem writeUPair_scause (s : State) (g : Group) (r v : Nat) : (writeUPair s g r v).scause = g.scause := by simp [writeUPair]
@[simp] theorem writeUPair_sepc (s : State) (g : Group) (r v : Nat) : (writeUPair s g r v).sepc = g.sepc := by simp [writeUPair]
@[simp] theorem writeUPair_sfmask (s : State) (g : Group) (r v : Nat) : (writeUPair s g r v).sfmask = g.sfmask := by simp [writeUPair]
@[simp] theorem writeUPair_stok (s : State) (g : Group) (r v : Nat) : (writeUPair s g r v).stok = g.stok := by simp [writeUPair]
@[simp] theorem writeUPair_sretc (s : State) (g : Group) (r v : Nat) : (writeUPair s g r v).sretc = g.sretc := by simp [writeUPair]
@[simp] theorem writeUPair_faults (s : State) (g : Group) (r v : Nat) : (writeUPair s g r v).faults = g.faults := by simp [writeUPair]
@[simp] theorem writeUPair_trapCmd (s : State) (g : Group) (r v : Nat) : (writeUPair s g r v).trapCmd = g.trapCmd := by simp [writeUPair]
@[simp] theorem writeUPair_trapAt (s : State) (g : Group) (r v : Nat) : (writeUPair s g r v).trapAt = g.trapAt := by simp [writeUPair]
@[simp] theorem writeUPair_hstack (s : State) (g : Group) (r v : Nat) : (writeUPair s g r v).hstack = g.hstack := by simp [writeUPair]
@[simp] theorem writeUPair_uhnd (s : State) (g : Group) (r v : Nat) : (writeUPair s g r v).uhnd = g.uhnd := by simp [writeUPair]
@[simp] theorem writeUPair_inUser (s : State) (g : Group) (r v : Nat) : (writeUPair s g r v).inUser = g.inUser := by simp [writeUPair]
@[simp] theorem writeUPair_ext (s : State) (g : Group) (r v : Nat) : (writeUPair s g r v).ext = g.ext := by simp [writeUPair]
@[simp] theorem writeUPair_cnt (s : State) (g : Group) (r v : Nat) : (writeUPair s g r v).cnt = g.cnt := by simp [writeUPair]
@[simp] theorem writeUPair_seen (s : State) (g : Group) (r v : Nat) : (writeUPair s g r v).seen = g.seen := by simp [writeUPair]
@[simp] theorem writeUPair_waited (s : State) (g : Group) (r v : Nat) : (writeUPair s g r v).waited = g.waited := by simp [writeUPair]
@[simp] theorem writeUPair_compl (s : State) (g : Group) (r v : Nat) : (writeUPair s g r v).compl = g.compl := by simp [writeUPair]
@[simp] theorem writeUPair_pfSnap (s : State) (g : Group) (r v : Nat) : (writeUPair s g r v).pfSnap = g.pfSnap := by simp [writeUPair]
@[simp] theorem writeUPair_park (s : State) (g : Group) (r v : Nat) : (writeUPair s g r v).park = g.park := by simp [writeUPair]
@[simp] theorem writeUPair_halted (s : State) (g : Group) (r v : Nat) : (writeUPair s g r v).halted = g.halted := by simp [writeUPair]
@[simp] theorem writeUPair_exited (s : State) (g : Group) (r v : Nat) : (writeUPair s g r v).exited = g.exited := by simp [writeUPair]
@[simp] theorem writeUPair_causes (s : State) (g : Group) (r v : Nat) : (writeUPair s g r v).causes = g.causes := by simp [writeUPair]
@[simp] theorem writeUPair_replay (s : State) (g : Group) (r v : Nat) : (writeUPair s g r v).replay = g.replay := by simp [writeUPair]
@[simp] theorem writeUPair_pub (s : State) (g : Group) (r v : Nat) : (writeUPair s g r v).pub = g.pub := by simp [writeUPair]
@[simp] theorem writeUPair_got (s : State) (g : Group) (r v : Nat) : (writeUPair s g r v).got = g.got := by simp [writeUPair]
@[simp] theorem writeUPair_ldTime (s : State) (g : Group) (r v : Nat) : (writeUPair s g r v).ldTime = g.ldTime := by simp [writeUPair]
@[simp] theorem writeUPair_parkSeq (s : State) (g : Group) (r v : Nat) : (writeUPair s g r v).parkSeq = g.parkSeq := by simp [writeUPair]
@[simp] theorem writeUPair_words (s : State) (g : Group) (r v : Nat) : (writeUPair s g r v).words = g.words := by simp [writeUPair]
@[simp] theorem writeUPair_trapping (s : State) (g : Group) (r v : Nat) : (writeUPair s g r v).trapping = g.trapping := by simp [writeUPair]

@[simp] theorem settle_ctx (s : State) (g : Group) : (settle s g).ctx = g.ctx := rfl
@[simp] theorem settle_grid (s : State) (g : Group) : (settle s g).grid = g.grid := rfl
@[simp] theorem settle_block (s : State) (g : Group) : (settle s g).block = g.block := rfl
@[simp] theorem settle_gidx (s : State) (g : Group) : (settle s g).gidx = g.gidx := rfl
@[simp] theorem settle_gwid (s : State) (g : Group) : (settle s g).gwid = g.gwid := rfl
@[simp] theorem settle_slot (s : State) (g : Group) : (settle s g).slot = g.slot := rfl
@[simp] theorem settle_active (s : State) (g : Group) : (settle s g).active = g.active := rfl
@[simp] theorem settle_table (s : State) (g : Group) : (settle s g).table = g.table := rfl
@[simp] theorem settle_level (s : State) (g : Group) : (settle s g).level = g.level := rfl
@[simp] theorem settle_pc (s : State) (g : Group) : (settle s g).pc = g.pc := rfl
@[simp] theorem settle_agelim (s : State) (g : Group) : (settle s g).agelim = g.agelim := rfl
@[simp] theorem settle_mode (s : State) (g : Group) : (settle s g).mode = g.mode := rfl
@[simp] theorem settle_qthr (s : State) (g : Group) : (settle s g).qthr = g.qthr := rfl
@[simp] theorem settle_qscale (s : State) (g : Group) : (settle s g).qscale = g.qscale := rfl
@[simp] theorem settle_qside (s : State) (g : Group) : (settle s g).qside = g.qside := rfl
@[simp] theorem settle_srx (s : State) (g : Group) : (settle s g).srx = g.srx := rfl
@[simp] theorem settle_gang (s : State) (g : Group) : (settle s g).gang = g.gang := rfl
@[simp] theorem settle_icnt (s : State) (g : Group) : (settle s g).icnt = g.icnt := rfl
@[simp] theorem settle_spn (s : State) (g : Group) : (settle s g).spn = g.spn := rfl
@[simp] theorem settle_ver (s : State) (g : Group) : (settle s g).ver = g.ver := rfl
@[simp] theorem settle_xstat (s : State) (g : Group) : (settle s g).xstat = g.xstat := rfl
@[simp] theorem settle_xreq (s : State) (g : Group) : (settle s g).xreq = g.xreq := rfl
@[simp] theorem settle_sup (s : State) (g : Group) : (settle s g).sup = g.sup := rfl
@[simp] theorem settle_scause (s : State) (g : Group) : (settle s g).scause = g.scause := rfl
@[simp] theorem settle_sepc (s : State) (g : Group) : (settle s g).sepc = g.sepc := rfl
@[simp] theorem settle_sfmask (s : State) (g : Group) : (settle s g).sfmask = g.sfmask := rfl
@[simp] theorem settle_stok (s : State) (g : Group) : (settle s g).stok = g.stok := rfl
@[simp] theorem settle_sretc (s : State) (g : Group) : (settle s g).sretc = g.sretc := rfl
@[simp] theorem settle_faults (s : State) (g : Group) : (settle s g).faults = g.faults := rfl
@[simp] theorem settle_trapCmd (s : State) (g : Group) : (settle s g).trapCmd = g.trapCmd := rfl
@[simp] theorem settle_trapAt (s : State) (g : Group) : (settle s g).trapAt = g.trapAt := rfl
@[simp] theorem settle_hstack (s : State) (g : Group) : (settle s g).hstack = g.hstack := rfl
@[simp] theorem settle_uhnd (s : State) (g : Group) : (settle s g).uhnd = g.uhnd := rfl
@[simp] theorem settle_inUser (s : State) (g : Group) : (settle s g).inUser = g.inUser := rfl
@[simp] theorem settle_ext (s : State) (g : Group) : (settle s g).ext = g.ext := rfl
@[simp] theorem settle_cnt (s : State) (g : Group) : (settle s g).cnt = g.cnt := rfl
@[simp] theorem settle_waited (s : State) (g : Group) : (settle s g).waited = g.waited := rfl
@[simp] theorem settle_pfSnap (s : State) (g : Group) : (settle s g).pfSnap = g.pfSnap := rfl
@[simp] theorem settle_park (s : State) (g : Group) : (settle s g).park = g.park := rfl
@[simp] theorem settle_halted (s : State) (g : Group) : (settle s g).halted = g.halted := rfl
@[simp] theorem settle_exited (s : State) (g : Group) : (settle s g).exited = g.exited := rfl
@[simp] theorem settle_causes (s : State) (g : Group) : (settle s g).causes = g.causes := rfl
@[simp] theorem settle_replay (s : State) (g : Group) : (settle s g).replay = g.replay := rfl
@[simp] theorem settle_pub (s : State) (g : Group) : (settle s g).pub = g.pub := rfl
@[simp] theorem settle_got (s : State) (g : Group) : (settle s g).got = g.got := rfl
@[simp] theorem settle_ldTime (s : State) (g : Group) : (settle s g).ldTime = g.ldTime := rfl
@[simp] theorem settle_parkSeq (s : State) (g : Group) : (settle s g).parkSeq = g.parkSeq := rfl
@[simp] theorem settle_words (s : State) (g : Group) : (settle s g).words = g.words := rfl
@[simp] theorem settle_trapping (s : State) (g : Group) : (settle s g).trapping = g.trapping := rfl

end Sys2Proof.Machine
end

