-- ==== Sys2Proof/Laws/Registers.lean ====
section
/-!
SUPPORT. Laws of the registers of a group: what a read gives after a write, register by register and lane by lane.
-/
namespace Sys2Proof.Machine

@[simp] theorem getD_range_map {α : Type} (n i : Nat) (f : Nat → α) (d : α) (h : i < n) : ((List.range n).map f).getD i d = f i := by
  simp [List.getD, h]
/-- A register after a write of a register in the lanes of a mask: x0 discards (R94). -/
theorem laneNow_writeX (s : State) (g : Group) (r q L : Nat) (m : Mask) (f : Nat → Word) (hL : L < g.gwid) :
    laneNow (writeX s g r m f) q L = if q = r ∧ r ≠ 0 ∧ m.getLsbD L = true then f L else laneNow g q L := by
  by_cases hr : r = 0
  · simp [writeX, hr]
  · by_cases hq : q = r
    · subst hq
      simp [writeX, hr, laneNow, xNow, hL]
    · by_cases hq0 : q = 0
      · simp [writeX, hr, laneNow, xNow, hq0, Ne.symm hr]
      · simp [writeX, hr, laneNow, xNow, hq, hq0, mgetD_mset_other g.x _ _ hq]
theorem full_getLsbD (g : Group) (L : Nat) (h : L < g.gwid) (hw : g.gwid ≤ 64) : (full g).getLsbD L = true := by
  have hlt : 2 ^ g.gwid - 1 < 2 ^ 64 ∨ g.gwid = 64 := by
    by_cases h64 : g.gwid = 64
    · exact .inr h64
    · left
      have : 2 ^ g.gwid ≤ 2 ^ 63 := Nat.pow_le_pow_right (by decide) (by omega)
      omega
  have : (2 ^ g.gwid - 1) % 2 ^ 64 = 2 ^ g.gwid - 1 := by
    apply Nat.mod_eq_of_lt
    have : 2 ^ g.gwid ≤ 2 ^ 64 := Nat.pow_le_pow_right (by decide) hw
    have : 0 < 2 ^ g.gwid := Nat.two_pow_pos _
    omega
  simp [full, ones, BitVec.getLsbD_ofNat, h]; omega
/-- A uniform result lies in every lane (R122). -/
theorem laneNow_writeU (s : State) (g : Group) (r q L : Nat) (v : Word) (hL : L < g.gwid) (hw : g.gwid ≤ 64) :
    laneNow (writeU s g r v) q L = if q = r ∧ r ≠ 0 then v else laneNow g q L := by
  simp [writeU, laneNow_writeX s g r q L (full g) (fun _ => v) hL, full_getLsbD g L hL hw]
/-- A pair lies in its two registers, low half first (R6). -/
theorem laneNow_writeUPair (s : State) (g : Group) (r q L v : Nat) (hL : L < g.gwid) (hw : g.gwid ≤ 64) :
    laneNow (writeUPair s g r v) q L =
      if q = r + 1 then BitVec.ofNat 32 (v / 2 ^ 32) else if q = r ∧ r ≠ 0 then BitVec.ofNat 32 v else laneNow g q L := by
  unfold writeUPair
  rw [laneNow_writeU s _ (r + 1) q L _ (by simpa using hL) (by simpa using hw), laneNow_writeU s g r q L _ hL hw]
  simp
/-- A mask register after a write: k0 discards (R94). -/
theorem kNow_writeK (s : State) (g : Group) (n q : Nat) (v : Mask) :
    kNow (writeK s g n v) q = if q = n ∧ n ≠ 0 then v &&& full g else kNow g q := by
  by_cases hn : n = 0
  · simp [writeK, hn]
  · by_cases hq : q = n
    · subst hq
      simp [writeK, hn, kNow, full, BitVec.and_assoc]
    · by_cases hq0 : q = 0
      · simp [writeK, hn, kNow, hq0, Ne.symm hn, full]
      · simp [writeK, hn, kNow, hq, hq0, full, mgetD_mset_other g.k _ _ hq]
/-- A write of a register leaves every mask, flag and window. -/
@[simp] theorem kNow_writeX (s : State) (g : Group) (r q : Nat) (m : Mask) (f : Nat → Word) : kNow (writeX s g r m f) q = kNow g q := by
  simp [kNow, full]
@[simp] theorem laneNow_writeK (s : State) (g : Group) (n q L : Nat) (v : Mask) : laneNow (writeK s g n v) q L = laneNow g q L := by
  simp [laneNow, xNow]
@[simp] theorem laneNow_writeFlags (s : State) (g : Group) (f : Flags) (q L : Nat) : laneNow (writeFlags s g f) q L = laneNow g q L := rfl
@[simp] theorem kNow_writeFlags (s : State) (g : Group) (f : Flags) (q : Nat) : kNow (writeFlags s g f) q = kNow g q := rfl
@[simp] theorem laneNow_retireAt (g : Group) (sm : Bool) (pc r L : Nat) : laneNow (retireAt g sm pc) r L = laneNow g r L := rfl
@[simp] theorem kNow_retireAt (g : Group) (sm : Bool) (pc n : Nat) : kNow (retireAt g sm pc) n = kNow g n := rfl
/-- x0 reads zero in every lane and k0 all ones over the width (R46). -/
@[simp] theorem laneNow_zero (g : Group) (L : Nat) : laneNow g 0 L = 0 := by
  simp only [laneNow, xNow, if_true, List.getD]
  cases h : (List.replicate g.gwid (0 : Word))[L]? with
  | none => rfl
  | some w => simp [List.getElem?_replicate] at h; simp [← h.2]
@[simp] theorem kNow_zero (g : Group) : kNow g 0 = full g := rfl
@[simp] theorem lane_zero (s : State) (g : Group) (L : Nat) : lane s g 0 L = 0 := by simp [lane, openWrites]
@[simp] theorem kRead_zero (s : State) (g : Group) : kRead s g 0 = full g := by simp [kRead, openMasks]
/-- A register that names no outstanding write reads its newest value. -/
theorem lane_settled (s : State) (g : Group) (r L : Nat) (h : openWrites g r = []) : lane s g r L = laneNow g r L := by simp [lane, h]
theorem kRead_settled (s : State) (g : Group) (n : Nat) (h : openMasks g n = []) : kRead s g n = kNow g n := by simp [kRead, h]
theorem flagsRead_settled (s : State) (g : Group) (h : g.histF = []) : flagsRead s g = g.flags := by simp [flagsRead, h]

/-! ### What a word of a group comes to -/

/-- With a group that acts, a word goes on. -/
theorem acting_next {s : State} {u : Nat} {g : Group} (f : Nat → Group → State) (hc : s.cur = some u) (hg : mget s.groups u = some g) :
    acting s f = .next (f u g) := by simp [acting, hc, hg]
/-- With every register it names held and owed to it by no escrow word, a word has its effect. -/
theorem word_held {s : State} {u : Nat} {g : Group} {rs : List Nat} (f : Nat → Group → State) (hc : s.cur = some u)
    (hg : mget s.groups u = some g) (hr : rs.all (held g) = true) (hw : awaits s g rs = false) : word s rs f = .next (f u g) := by
  simp only [word, acting, hc, hg, hr, hw]; rfl
/-- With a register it names owed to it by an escrow word, a word waits (R101). -/
theorem word_waits {s : State} {u : Nat} {g : Group} {rs : List Nat} (f : Nat → Group → State) (hc : s.cur = some u)
    (hg : mget s.groups u = some g) (hr : rs.all (held g) = true) (hw : awaits s g rs = true) : word s rs f = .next (parkOn s u g .result) := by
  simp only [word, acting, hc, hg, hr, hw]; rfl
/-- A word that names no register waits for none, and nothing waits where no escrow word is under way. -/
@[simp] theorem awaits_nil (s : State) (g : Group) : awaits s g [] = false := by simp [awaits]
theorem awaits_none {s : State} {g : Group} {rs : List Nat} (h : g.words = []) : awaits s g rs = false := by simp [awaits, h]
/-- With a register it names not held, a word raises cause 0x03 (R61). -/
theorem word_unheld {s : State} {u : Nat} {g : Group} {rs : List Nat} (f : Nat → Group → State) (hc : s.cur = some u)
    (hg : mget s.groups u = some g) (hr : rs.all (held g) = false) : word s rs f = .next (raise s u g 0x03) := by
  simp only [word, acting, hc, hg, hr]; rfl
/-- A trap outside supervisor mode (R304): the group has trapped, and memory holds its frame. -/
theorem trapEntry_user {s : State} {u : Nat} {g : Group} (t : TrapInfo) (h : g.sup = false) (hw : g.words = []) :
    trapEntry s u g t =
      setGroup { touchFrame s g with mem := writeFrame s.mem (frameAddr s g) (settle s g) } u (trapGroup s g t) := by simp [trapEntry, h, hw]
/-- While an escrow word of the group is under way its trap waits for the word's result (R95). -/
theorem trapEntry_waits {s : State} {u : Nat} {g : Group} (t : TrapInfo) (h : g.sup = false) (hw : g.words ≠ []) :
    trapEntry s u g t = setGroup s u { g with trapping := some t } := by simp [trapEntry, h, hw]
/-- A cause in supervisor mode kills the context (R306). -/
theorem trapEntry_sup {s : State} {u : Nat} {g : Group} (t : TrapInfo) (h : g.sup = true) : trapEntry s u g t = kill s g.ctx t.cause := by
  simp [trapEntry, h]

end Sys2Proof.Machine
end

