-- ==== Sys2Proof/Laws/Words.lean ====
section
/-!
SUPPORT. What a word of a shared shape comes to, said once: from the form of its meaning to the claim that `Safety` names.
-/
namespace Sys2Proof.Machine

/-- A state in which only a group's record is replaced. -/
theorem onlyGroup_setGroup (s : State) (u : Nat) (h : Group) : OnlyGroup s (setGroup s u h) u h :=
  ⟨rfl, by simp [setGroup], fun v hv => by simp [setGroup, mget_mset, hv]⟩
/-- A word that ends in `fin` retires, and its group is what `retireG` makes of it. -/
theorem retires_fin {i : Instr} {s : State} {u len : Nat} {sm : Bool} {h : Group} {P : Group → Prop}
    (he : exec i s = .next (fin s u sm len h)) (hp : P (retireG h sm len)) : Retires i s u P :=
  ⟨_, _, he, onlyGroup_setGroup s u _, fun _ => rfl, hp⟩
/-- A register write keeps everything of the group but the register. -/
theorem writeX_keeps (s : State) (g : Group) (r : Nat) (m : Mask) (f : Nat → Word) :
    writeX s g r m f = { g with x := (writeX s g r m f).x, histX := (writeX s g r m f).histX } := by
  unfold writeX; split <;> rfl
theorem writeK_keeps (s : State) (g : Group) (n : Nat) (v : Mask) :
    writeK s g n v = { g with k := (writeK s g n v).k, histK := (writeK s g n v).histK } := by
  unfold writeK; split <;> rfl
theorem writeUPair_keeps (s : State) (g : Group) (r v : Nat) :
    writeUPair s g r v = { g with x := (writeUPair s g r v).x, histX := (writeUPair s g r v).histX } := by
  unfold writeUPair writeU
  rw [writeX_keeps s (writeX s g r _ _), writeX_keeps s g r]
/-- Retiring keeps what the word left, but for pc, count, replay and park. -/
theorem keepsX_retire {g h : Group} (sm : Bool) (len : Nat) (hk : h = { g with x := h.x, histX := h.histX }) :
    KeepsAllButX g (retireG h sm len) sm len := by
  unfold KeepsAllButX retireG retireAt parkAfter outstanding
  rw [hk]
theorem keepsK_retire {g h : Group} (sm : Bool) (len : Nat) (hk : h = { g with k := h.k, histK := h.histK }) :
    KeepsAllButK g (retireG h sm len) sm len := by
  unfold KeepsAllButK retireG retireAt parkAfter outstanding
  rw [hk]
/-- The outcome of `word` where a register is not held. -/
theorem raises_unheld {i : Instr} {s : State} {u : Nat} {g : Group} {rs : List Nat} {f : Nat → Group → State} (ha : Acts s u g)
    (hr : ¬ Held g rs) (he : exec i s = word s rs f) : Raises i s u g 0x03 :=
  he.trans (word_unheld f ha.1 ha.2 (by simpa [Held] using hr))
/-- The outcome of `word` where every register is held and none is owed. -/
theorem exec_held {i : Instr} {s : State} {u : Nat} {g : Group} {rs : List Nat} {f : Nat → Group → State} (ha : Acts s u g)
    (hr : Ready s g rs) (he : exec i s = word s rs f) : exec i s = .next (f u g) := he.trans (word_held f ha.1 ha.2 hr.1 hr.2)
/-- The outcome of `word` where a register is owed. -/
theorem exec_waits {i : Instr} {s : State} {u : Nat} {g : Group} {rs : List Nat} {f : Nat → Group → State} (ha : Acts s u g)
    (he : exec i s = word s rs f) : WaitsFor i s u g rs := fun hr hw => he.trans (word_waits f ha.1 ha.2 hr hw)

/-- A lane word, from the form of its meaning. -/
theorem laneWord_of {i : Instr} {len : Nat} {sm : Bool} {named : List Nat} {xd : Nat} {X : State → Group → Mask} {v : State → Group → Nat → Word}
    (he : ∀ s, exec i s = word s named fun u g => fin s u sm len (writeX s g xd (X s g) (v s g))) : LaneWord i len sm named xd X v :=
  fun s u g ha => ⟨fun hr => retires_fin (h := writeX s g xd (X s g) (v s g)) (exec_held (f := fun u g => fin s u sm len (writeX s g xd (X s g) (v s g))) ha hr (he s))
      ⟨keepsX_retire sm len (writeX_keeps s g xd _ _), fun r L hL => by
        rw [retireG, laneNow_retireAt, laneNow_writeX s g xd r L _ _ hL]
        by_cases hrx : r = xd <;> simp [hrx]⟩,
    fun hr => raises_unheld ha hr (he s), exec_waits ha (he s)⟩
/-- A uniform word with a 32-bit result, from the form of its meaning. -/
theorem uniWord_of {i : Instr} {len : Nat} {sm : Bool} {named : List Nat} {xd : Nat} {v : State → Group → Word}
    (he : ∀ s, exec i s = word s named fun u g => fin s u sm len (writeU s g xd (v s g))) : UniWord i len sm named xd v := laneWord_of he
/-- A uniform word with a 64-bit result, from the form of its meaning. -/
theorem pairWord_of {i : Instr} {len : Nat} {sm : Bool} {named : List Nat} {xd : Nat} {v : State → Group → Nat}
    (he : ∀ s, exec i s = word s named fun u g => fin s u sm len (writeUPair s g xd (v s g))) : PairWord i len sm named xd v :=
  fun s u g ha => ⟨fun hr => retires_fin (h := writeUPair s g xd (v s g)) (exec_held (f := fun u g => fin s u sm len (writeUPair s g xd (v s g))) ha hr (he s))
      ⟨keepsX_retire sm len (writeUPair_keeps s g xd _), fun r L hL => by
        rw [retireG, laneNow_retireAt]
        unfold writeUPair writeU
        rw [laneNow_writeX s _ (xd + 1) r L _ _ (by rw [writeX_keeps]; exact hL), laneNow_writeX s g xd r L _ _ hL]
        have hf : full (writeX s g xd (full g) fun _ => BitVec.ofNat 32 (v s g)) = full g := by rw [writeX_keeps]; rfl
        rw [hf]
        by_cases h1 : r = xd + 1 <;> by_cases h2 : r = xd <;> simp [h1, h2]⟩,
    fun hr => raises_unheld ha hr (he s), exec_waits ha (he s)⟩
/-- A word that writes a mask register, from the form of its meaning. -/
theorem maskWord_of {i : Instr} {len : Nat} {sm : Bool} {named : List Nat} {kd : Nat} {v : State → Group → Mask}
    (he : ∀ s, exec i s = word s named fun u g => fin s u sm len (writeK s g kd (v s g))) : MaskWord i len sm named kd v :=
  fun s u g ha => ⟨fun hr => retires_fin (h := writeK s g kd (v s g)) (exec_held (f := fun u g => fin s u sm len (writeK s g kd (v s g))) ha hr (he s))
      ⟨keepsK_retire sm len (writeK_keeps s g kd _), fun n => by
        rw [retireG, kNow_retireAt, kNow_writeK]
        by_cases hn : n = kd <;> simp [hn]⟩,
    fun hr => raises_unheld ha hr (he s), exec_waits ha (he s)⟩
/-- A word that writes the flags, from the form of its meaning. -/
theorem flagWord_of {i : Instr} {len : Nat} {sm : Bool} {named : List Nat} {v : State → Group → Flags}
    (he : ∀ s, exec i s = word s named fun u g => fin s u sm len (writeFlags s g (v s g))) : FlagWord i len sm named v :=
  fun s _ g ha => ⟨fun hr => retires_fin (h := writeFlags s g (v s g)) (exec_held (f := fun u g => fin s u sm len (writeFlags s g (v s g))) ha hr (he s)) rfl, fun hr => raises_unheld ha hr (he s), exec_waits ha (he s)⟩
/-- A lane word that rounds, from the form of its meaning. -/
theorem roundWord_of {i : Instr} {len : Nat} {sm : Bool} {named : List Nat} {xd : Nat} {X : State → Group → Mask} {mode : Group → RMode}
    {v : State → Group → Nat → Word}
    (he : ∀ s, exec i s = word s named fun u g => fin s u sm len (bumpSrx (mode g) (writeX s g xd (X s g) (v s g)))) :
    RoundWord i len sm named xd X mode v :=
  fun s u g ha => ⟨fun hr => retires_fin (h := bumpSrx (mode g) (writeX s g xd (X s g) (v s g))) (exec_held (f := fun u g => fin s u sm len (bumpSrx (mode g) (writeX s g xd (X s g) (v s g)))) ha hr (he s))
      ⟨by
        unfold retireG retireAt parkAfter outstanding bumpSrx
        rw [writeX_keeps]
        split <;> rfl,
       fun r L hL => by
        rw [retireG, laneNow_retireAt]
        have hb : laneNow (bumpSrx (mode g) (writeX s g xd (X s g) (v s g))) r L = laneNow (writeX s g xd (X s g) (v s g)) r L := by
          unfold bumpSrx; split <;> rfl
        rw [hb, laneNow_writeX s g xd r L _ _ hL]
        by_cases hrx : r = xd <;> simp [hrx]⟩,
    fun hr => raises_unheld ha hr (he s), exec_waits ha (he s)⟩

end Sys2Proof.Machine
end

