-- ==== Sys2Proof/Laws/Ops.lean ====
section
/-!
SUPPORT. What each shared operation does, said once: the memory it leaves, the canonical form it keeps, the trap entry and the return from it.
-/
namespace Sys2Proof.Machine

/-! ### Operations that leave memory alone -/

@[simp] theorem touchDie_mem (s : State) (c d : Nat) : (touchDie s c d).mem = s.mem := by unfold touchDie modCtx; split <;> rfl
@[simp] theorem touchFrame_mem (s : State) (g : Group) : (touchFrame s g).mem = s.mem := by unfold touchFrame; split <;> simp
@[simp] theorem touchFrame_groups (s : State) (g : Group) : (touchFrame s g).groups = s.groups := by
  unfold touchFrame touchDie modCtx; split <;> try rfl
  split <;> rfl
@[simp] theorem touchPa_mem (s : State) (c loc : Nat) : (touchPa s c loc).mem = s.mem := by unfold touchPa; split <;> simp
@[simp] theorem wakeLine_mem (s : State) (w loc n : Nat) : (wakeLine s w loc n).mem = s.mem := rfl
@[simp] theorem wakeLine_ctxs (s : State) (w loc n : Nat) : (wakeLine s w loc n).ctxs = s.ctxs := rfl
@[simp] theorem markSeen_mem (s : State) (a : Nat) (ids : List Vis) : (markSeen s a ids).mem = s.mem := rfl
@[simp] theorem markSeen_groups (s : State) (a : Nat) (ids : List Vis) : (markSeen s a ids).groups = s.groups := rfl
@[simp] theorem markRead_mem (s : State) (a : Nat) (p : Nat × Nat) (ids : List Nat) : (markRead s a p ids).mem = s.mem := by
  unfold markRead; split <;> rfl
@[simp] theorem noteNewest_mem (s : State) (u loc n : Nat) : (noteNewest s u loc n).mem = s.mem := by unfold noteNewest; simp
@[simp] theorem keepOld_mem (s : State) (loc n : Nat) : (keepOld s loc n).mem = s.mem := by unfold keepOld; split <;> rfl
@[simp] theorem keepOld_groups (s : State) (loc n : Nat) : (keepOld s loc n).groups = s.groups := by unfold keepOld; split <;> rfl
@[simp] theorem keepOld_ctxs (s : State) (loc n : Nat) : (keepOld s loc n).ctxs = s.ctxs := by unfold keepOld; split <;> rfl
@[simp] theorem usePage_mem (s : State) (c : Nat) (p : Page) : (usePage s c p).mem = s.mem := by unfold usePage modCtx; split <;> rfl
@[simp] theorem performStores_mem (s : State) (u : Nat) : (performStores s u).mem = s.mem := rfl
@[simp] theorem performStores_groups (s : State) (u : Nat) : (performStores s u).groups = s.groups := rfl
@[simp] theorem performWhere_mem (s : State) (u : Nat) (p : LogEntry → Bool) : (performWhere s u p).mem = s.mem := rfl
@[simp] theorem performWhere_groups (s : State) (u : Nat) (p : LogEntry → Bool) : (performWhere s u p).groups = s.groups := rfl
@[simp] theorem storesDone_mem (s : State) (u : Nat) (sc : Scope) : (storesDone s u sc).mem = s.mem := by
  unfold storesDone; split
  · rfl
  · split <;> rfl
@[simp] theorem storesDone_groups (s : State) (u : Nat) (sc : Scope) : (storesDone s u sc).groups = s.groups := by
  unfold storesDone; split
  · rfl
  · split <;> rfl
@[simp] theorem narrowLast_mem (s : State) (g : Group) (sc : Scope) : (narrowLast s g sc).mem = s.mem := by
  unfold narrowLast; split
  · rfl
  · split <;> rfl
@[simp] theorem narrowLast_groups (s : State) (g : Group) (sc : Scope) : (narrowLast s g sc).groups = s.groups := by
  unfold narrowLast; split
  · rfl
  · split <;> rfl
@[simp] theorem acquire_mem (s : State) (u : Nat) (g : Group) (sc : Scope) (ps : List Published) : (acquire s u g sc ps).mem = s.mem := by
  unfold acquire orderReads; split <;> rfl
@[simp] theorem acquire_groups (s : State) (u : Nat) (g : Group) (sc : Scope) (ps : List Published) : (acquire s u g sc ps).groups = s.groups := by
  unfold acquire orderReads; split <;> rfl
@[simp] theorem forwardNote_mem (s : State) (g : Group) (va : Option Nat) (bs : List Byte) (strong : Bool) :
    (forwardNote s g va bs strong).mem = s.mem := by unfold forwardNote; split <;> rfl
@[simp] theorem bumpOut_mem (s : State) (grid core : Nat) (up : Bool) : (bumpOut s grid core up).mem = s.mem := rfl
@[simp] theorem bumpOut_groups (s : State) (grid core : Nat) (up : Bool) : (bumpOut s grid core up).groups = s.groups := rfl
@[simp] theorem addCause_mem (s : State) (u : Nat) (e : EngineCause) : (addCause s u e).mem = s.mem := rfl
@[simp] theorem postEvent_mem (s : State) (c kind die arg0 arg1 : Nat) : (postEvent s c kind die arg0 arg1).mem = s.mem := rfl
@[simp] theorem postEvent_groups (s : State) (c kind die arg0 arg1 : Nat) : (postEvent s c kind die arg0 arg1).groups = s.groups := rfl
/-- A fold of updates that each leave memory alone leaves it alone. -/
theorem foldl_mem {α : Type} (f : State → α → State) (h : ∀ s a, (f s a).mem = s.mem) (l : List α) (s : State) : (l.foldl f s).mem = s.mem := by
  induction l generalizing s with
  | nil => rfl
  | cons a l ih => rw [List.foldl_cons, ih, h]
@[simp] theorem postAll_mem (s : State) (kind die arg0 arg1 : Nat) : (postAll s kind die arg0 arg1).mem = s.mem := by
  unfold postAll; exact foldl_mem _ (fun _ _ => postEvent_mem ..) _ s
@[simp] theorem kill_mem (s : State) (c cause : Nat) : (kill s c cause).mem = s.mem := rfl
@[simp] theorem deliver_mem (s : State) (u : Nat) (g : Group) : (deliver s u g).mem = s.mem := by unfold deliver; dsimp only; split <;> rfl
@[simp] theorem trapReturn_mem (s : State) (u : Nat) (g : Group) : (trapReturn s u g).mem = s.mem := by
  unfold trapReturn; dsimp only; split <;> simp
@[simp] theorem completeCmd_mem (s : State) (id : Nat) (d : Cmd) : (completeCmd s id d).mem = s.mem := by
  unfold completeCmd; dsimp only; split <;> rfl
@[simp] theorem pendLines_mem (s : State) (blk : Nat) (ls : List Nat) (up : Bool) : (pendLines s blk ls up).mem = s.mem := rfl
@[simp] theorem abandonCmd_mem (s : State) (id : Nat) (d : Cmd) : (abandonCmd s id d).mem = s.mem := by
  unfold abandonCmd; dsimp only; split <;> simp
@[simp] theorem handlerReturn_mem (s : State) (u : Nat) (g : Group) : (handlerReturn s u g).mem = s.mem := by
  unfold handlerReturn
  dsimp only
  cases g.trapCmd.bind fun id => (mget (performStores s u).cmds id).map fun d => (id, d) with
  | none => simp
  | some p => dsimp only; split <;> split <;> simp

/-! ### Operations that write memory -/

/-- What a unit's write leaves in memory. -/
@[simp] theorem writeUnit_mem (s : State) (a c loc : Nat) (va : Option Nat) (bs : List Byte) (strong : Bool) (pub : List Published) :
    (writeUnit s a c loc va bs strong pub).mem = Memory.writeN s.mem loc bs := rfl
@[simp] theorem writeUnit_groups (s : State) (a c loc : Nat) (va : Option Nat) (bs : List Byte) (strong : Bool) (pub : List Published) :
    (writeUnit s a c loc va bs strong pub).groups = s.groups := keepOld_groups s loc bs.length
@[simp] theorem writeUnit_ctxs (s : State) (a c loc : Nat) (va : Option Nat) (bs : List Byte) (strong : Bool) (pub : List Published) :
    (writeUnit s a c loc va bs strong pub).ctxs = s.ctxs := keepOld_ctxs s loc bs.length
/-- Any agent's write changes exactly its bytes. -/
@[simp] theorem putUnit_mem (s : State) (a c loc : Nat) (va : Option Nat) (bs : List Byte) (strong : Bool) (pub : List Published) :
    (putUnit s a c loc va bs strong pub).mem = Memory.writeN s.mem loc bs := rfl
/-- A group's store to memory itself changes exactly its bytes. -/
@[simp] theorem commit_mem (s : State) (u : Nat) (g : Group) (loc : Nat) (va : Option Nat) (bs : List Byte) (strong : Bool) :
    (commit s u g loc va bs strong).mem = Memory.writeN s.mem loc bs := by
  unfold commit; rw [putUnit_mem, forwardNote_mem]
/-- An atomic writes the new value of its word to memory, and nothing else there (R147, R193). -/
theorem atomic_mem (s : State) (u : Nat) (g : Group) (sc : Scope) (loc : Nat) (va : Option Nat) (n : Nat) (f : Nat → Nat) :
    (atomic s u g sc loc va n f).2.1.mem = Memory.writeN s.mem loc (leBytes n (f (loadNewest s loc n))) := by
  simp only [atomic, narrowLast_mem, commit_mem, noteNewest_mem]
theorem putUnit_canonical {s : State} (a c loc : Nat) (va : Option Nat) (bs : List Byte) (strong : Bool) (pub : List Published)
    (h : MemoryCanonical s) : MemoryCanonical (putUnit s a c loc va bs strong pub) := by
  unfold MemoryCanonical; rw [putUnit_mem]; exact Memory.writeN_wf _ _ h
theorem commit_canonical {s : State} (u : Nat) (g : Group) (loc : Nat) (va : Option Nat) (bs : List Byte) (strong : Bool) (h : MemoryCanonical s) :
    MemoryCanonical (commit s u g loc va bs strong) := by
  unfold MemoryCanonical; rw [commit_mem]; exact Memory.writeN_wf _ _ h
/-- A trap frame's bytes keep memory canonical. -/
theorem writeFrame_wf {m : List Host.Cell} (fa : Nat) (g : Group) (h : Memory.wf m = true) : Memory.wf (writeFrame m fa g) = true := by
  unfold writeFrame
  generalize List.range 7 = l
  induction l generalizing m with
  | nil => exact h
  | cons i l ih => exact ih (Memory.writeN_wf _ _ h)
/-- Trap entry writes the trap frame, or nothing where it kills the context or waits for an escrow word's result. -/
theorem trapEntry_mem (s : State) (u : Nat) (g : Group) (t : TrapInfo) :
    (trapEntry s u g t).mem = if g.sup || !g.words.isEmpty then s.mem else writeFrame s.mem (frameAddr s g) (settle s g) := by
  unfold trapEntry
  cases g.sup <;> cases g.words.isEmpty <;> rfl
theorem trapEntry_canonical {s : State} (u : Nat) (g : Group) (t : TrapInfo) (h : MemoryCanonical s) : MemoryCanonical (trapEntry s u g t) := by
  unfold MemoryCanonical; rw [trapEntry_mem]; split
  · exact h
  · exact writeFrame_wf _ _ h
theorem raise_canonical {s : State} (u : Nat) (g : Group) (c : Nat) (h : MemoryCanonical s) : MemoryCanonical (raise s u g c) := trapEntry_canonical u g _ h
/-- An outcome whose state leaves memory alone keeps it canonical. -/
theorem canonical_of_mem {s t : State} (e : t.mem = s.mem) (h : MemoryCanonical s) : MemoryCanonical t := by
  unfold MemoryCanonical; rw [e]; exact h
/-- A word keeps memory canonical when its action does. -/
theorem word_canonical {s t : State} {rs : List Nat} {f : Nat → Group → State} (h : MemoryCanonical s)
    (hf : ∀ u g, mget s.groups u = some g → MemoryCanonical (f u g)) (he : word s rs f = .next t) : MemoryCanonical t := by
  unfold word acting at he
  split at he
  · split at he
    · injection he with he
      subst he
      dsimp only
      split
      · split
        · exact h
        · exact hf _ _ (by assumption)
      · exact raise_canonical _ _ _ h
    · cases he
  · cases he
/-- So does a word that names no register. -/
theorem acting_canonical {s t : State} {f : Nat → Group → State}
    (hf : ∀ u g, mget s.groups u = some g → MemoryCanonical (f u g)) (he : acting s f = .next t) : MemoryCanonical t := by
  unfold acting at he
  split at he
  · split at he
    · injection he with he
      subst he
      exact hf _ _ (by assumption)
    · cases he
  · cases he

/-! ### Retiring -/

/-- A word that goes to a pc retires, and its group is what `retireAt` makes of it. -/
theorem becomes_goto {i : Instr} {s : State} {u pc : Nat} {sm : Bool} {h h' : Group}
    (he : exec i s = .next (goto s u h sm pc)) (e : h' = retireAt h sm pc := by rfl) : Becomes i s u h' :=
  ⟨_, _, he, onlyGroup_setGroup s u _, fun _ => rfl, e.symm⟩
/-- So does a word that ends in `fin`. -/
theorem becomes_fin {i : Instr} {s : State} {u len : Nat} {sm : Bool} {h h' : Group}
    (he : exec i s = .next (fin s u sm len h)) (e : h' = retireG h sm len := by rfl) : Becomes i s u h' :=
  ⟨_, _, he, onlyGroup_setGroup s u _, fun _ => rfl, e.symm⟩

/-! ### Contexts and kills -/

theorem ctxOf_modCtx (s : State) (c d : Nat) (f : Ctx → Ctx) : ctxOf (modCtx s c f) d = if d = c then f (ctxOf s c) else ctxOf s d := by
  unfold ctxOf modCtx; exact mgetD_mset _ _ _ _ _
/-- A kill leaves nothing of the context at work, and other contexts as they were (R312). -/
theorem ctxOf_kill (s : State) (c cause d : Nat) : ctxOf (kill s c cause) d =
    if d = c then { ctxOf s c with cst := 3, cause := cause, forward := [], draining := false, lost := false, latches := [], resuming := false } else ctxOf s d :=
  mgetD_mset _ _ _ _ _
theorem kill_groups (s : State) (c cause : Nat) : ∀ e ∈ (kill s c cause).groups, e.2.ctx ≠ c := by
  intro e he; simpa using (List.mem_filter.mp he).2
theorem kill_blocks (s : State) (c cause : Nat) : ∀ e ∈ (kill s c cause).blocks, e.2.ctx ≠ c := by
  intro e he; simpa using (List.mem_filter.mp he).2
theorem kill_grids (s : State) (c cause : Nat) : ∀ e ∈ (kill s c cause).grids, e.2.ctx ≠ c := by
  intro e he; simpa using (List.mem_filter.mp he).2
theorem kill_cmds (s : State) (c cause : Nat) : ∀ e ∈ (kill s c cause).cmds, e.2.ctx ≠ c := by
  intro e he; simpa using (List.mem_filter.mp he).2

/-! ### Returning from the supervisor handler (R306, R307) -/

/-- A delivery without a handler of the group's own kills the context. -/
theorem deliver_kills {s : State} {u : Nat} {g : Group} (h : g.uhnd = 0xFFFFFFFF ∨ g.inUser = true) :
    deliver s u g = kill s g.ctx (g.scause.toNat % 256) := by
  unfold deliver; dsimp only; rw [if_pos (by simpa using h)]
/-- A return without a held command is the plain return, once the group's stores have performed. -/
theorem handlerReturn_plain {s : State} {u : Nat} {g : Group} (h : g.trapCmd = none) :
    handlerReturn s u g = trapReturn (performStores s u) u g := by
  unfold handlerReturn; rw [h]; rfl
/-- A host register acts while the panel answers, and nothing happens else. -/
theorem hostReg_answers {s : State} (f : State → State) (h : Answers s) : hostReg s f = .next (f s) := by
  unfold hostReg; simp [h.1, h.2]
theorem hostReg_canonical {s t : State} {f : State → State} (h : MemoryCanonical s) (hf : MemoryCanonical (f s)) (he : hostReg s f = .next t) :
    MemoryCanonical t := by
  unfold hostReg at he
  injection he with he
  subst he
  split <;> assumption

end Sys2Proof.Machine
end

