-- ==== Sys2Proof/Laws/PerInstr.lean ====
section
/-!
SUPPORT. What holds of every instruction as syntax: a row has bits exactly when it is no event, and an event is never well formed as a word.
-/
namespace Sys2Proof.Laws.Encodes

/-- A row of the opcode table has an encoding exactly when it is a word or a parcel; a row that is an event is none of the well-formed words. -/
def Statement (i : Instr) : Prop := (encode i).isSome = !i.isEvent ∧ (i.isEvent = true → i.wf = false)

theorem vadd (sm : Bool) (xd : Nat) (xa : Nat) (xb : Nat) (kp : Nat) : Statement (.vadd sm xd xa xb kp) := ⟨rfl, fun h => nomatch h⟩
theorem vsub (sm : Bool) (xd : Nat) (xa : Nat) (xb : Nat) (kp : Nat) : Statement (.vsub sm xd xa xb kp) := ⟨rfl, fun h => nomatch h⟩
theorem vmul (sm : Bool) (xd : Nat) (xa : Nat) (xb : Nat) (kp : Nat) : Statement (.vmul sm xd xa xb kp) := ⟨rfl, fun h => nomatch h⟩
theorem vmulh (sm : Bool) (xd : Nat) (xa : Nat) (xb : Nat) (kp : Nat) : Statement (.vmulh sm xd xa xb kp) := ⟨rfl, fun h => nomatch h⟩
theorem vmulhu (sm : Bool) (xd : Nat) (xa : Nat) (xb : Nat) (kp : Nat) : Statement (.vmulhu sm xd xa xb kp) := ⟨rfl, fun h => nomatch h⟩
theorem vmad (sm : Bool) (xd : Nat) (xa : Nat) (xb : Nat) (kp : Nat) : Statement (.vmad sm xd xa xb kp) := ⟨rfl, fun h => nomatch h⟩
theorem vmin (sm : Bool) (xd : Nat) (xa : Nat) (xb : Nat) (kp : Nat) : Statement (.vmin sm xd xa xb kp) := ⟨rfl, fun h => nomatch h⟩
theorem vminu (sm : Bool) (xd : Nat) (xa : Nat) (xb : Nat) (kp : Nat) : Statement (.vminu sm xd xa xb kp) := ⟨rfl, fun h => nomatch h⟩
theorem vmax (sm : Bool) (xd : Nat) (xa : Nat) (xb : Nat) (kp : Nat) : Statement (.vmax sm xd xa xb kp) := ⟨rfl, fun h => nomatch h⟩
theorem vmaxu (sm : Bool) (xd : Nat) (xa : Nat) (xb : Nat) (kp : Nat) : Statement (.vmaxu sm xd xa xb kp) := ⟨rfl, fun h => nomatch h⟩
theorem vand (sm : Bool) (xd : Nat) (xa : Nat) (xb : Nat) (kp : Nat) : Statement (.vand sm xd xa xb kp) := ⟨rfl, fun h => nomatch h⟩
theorem vor (sm : Bool) (xd : Nat) (xa : Nat) (xb : Nat) (kp : Nat) : Statement (.vor sm xd xa xb kp) := ⟨rfl, fun h => nomatch h⟩
theorem vxor (sm : Bool) (xd : Nat) (xa : Nat) (xb : Nat) (kp : Nat) : Statement (.vxor sm xd xa xb kp) := ⟨rfl, fun h => nomatch h⟩
theorem vshl (sm : Bool) (xd : Nat) (xa : Nat) (xb : Nat) (kp : Nat) : Statement (.vshl sm xd xa xb kp) := ⟨rfl, fun h => nomatch h⟩
theorem vshr (sm : Bool) (xd : Nat) (xa : Nat) (xb : Nat) (kp : Nat) : Statement (.vshr sm xd xa xb kp) := ⟨rfl, fun h => nomatch h⟩
theorem vsra (sm : Bool) (xd : Nat) (xa : Nat) (xb : Nat) (kp : Nat) : Statement (.vsra sm xd xa xb kp) := ⟨rfl, fun h => nomatch h⟩
theorem vaddi (sm : Bool) (xd : Nat) (xa : Nat) (imm : Int) : Statement (.vaddi sm xd xa imm) := ⟨rfl, fun h => nomatch h⟩
theorem vandi (sm : Bool) (xd : Nat) (xa : Nat) (imm : Nat) : Statement (.vandi sm xd xa imm) := ⟨rfl, fun h => nomatch h⟩
theorem vori (sm : Bool) (xd : Nat) (xa : Nat) (imm : Nat) : Statement (.vori sm xd xa imm) := ⟨rfl, fun h => nomatch h⟩
theorem vxori (sm : Bool) (xd : Nat) (xa : Nat) (imm : Nat) : Statement (.vxori sm xd xa imm) := ⟨rfl, fun h => nomatch h⟩
theorem vshli (sm : Bool) (xd : Nat) (xa : Nat) (amt : Nat) : Statement (.vshli sm xd xa amt) := ⟨rfl, fun h => nomatch h⟩
theorem vshri (sm : Bool) (xd : Nat) (xa : Nat) (amt : Nat) : Statement (.vshri sm xd xa amt) := ⟨rfl, fun h => nomatch h⟩
theorem vsrai (sm : Bool) (xd : Nat) (xa : Nat) (amt : Nat) : Statement (.vsrai sm xd xa amt) := ⟨rfl, fun h => nomatch h⟩
theorem vmovi (sm : Bool) (xd : Nat) (imm : Int) : Statement (.vmovi sm xd imm) := ⟨rfl, fun h => nomatch h⟩
theorem vlui (sm : Bool) (xd : Nat) (imm : Nat) : Statement (.vlui sm xd imm) := ⟨rfl, fun h => nomatch h⟩
theorem vbfx (sm : Bool) (xd : Nat) (xa : Nat) (xb : Nat) (kp : Nat) : Statement (.vbfx sm xd xa xb kp) := ⟨rfl, fun h => nomatch h⟩
theorem vbfi (sm : Bool) (xd : Nat) (xa : Nat) (xb : Nat) (kp : Nat) : Statement (.vbfi sm xd xa xb kp) := ⟨rfl, fun h => nomatch h⟩
theorem vsel (sm : Bool) (xd : Nat) (xa : Nat) (xb : Nat) (kp : Nat) : Statement (.vsel sm xd xa xb kp) := ⟨rfl, fun h => nomatch h⟩
theorem vmov (sm : Bool) (xd : Nat) (xa : Nat) (kp : Nat) : Statement (.vmov sm xd xa kp) := ⟨rfl, fun h => nomatch h⟩
theorem vneg (sm : Bool) (xd : Nat) (xa : Nat) (kp : Nat) : Statement (.vneg sm xd xa kp) := ⟨rfl, fun h => nomatch h⟩
theorem vabs (sm : Bool) (xd : Nat) (xa : Nat) (kp : Nat) : Statement (.vabs sm xd xa kp) := ⟨rfl, fun h => nomatch h⟩
theorem vnot (sm : Bool) (xd : Nat) (xa : Nat) (kp : Nat) : Statement (.vnot sm xd xa kp) := ⟨rfl, fun h => nomatch h⟩
theorem vpopc (sm : Bool) (xd : Nat) (xa : Nat) (kp : Nat) : Statement (.vpopc sm xd xa kp) := ⟨rfl, fun h => nomatch h⟩
theorem vclz (sm : Bool) (xd : Nat) (xa : Nat) (kp : Nat) : Statement (.vclz sm xd xa kp) := ⟨rfl, fun h => nomatch h⟩
theorem vbrev (sm : Bool) (xd : Nat) (xa : Nat) (kp : Nat) : Statement (.vbrev sm xd xa kp) := ⟨rfl, fun h => nomatch h⟩
theorem vlid (sm : Bool) (xd : Nat) (kp : Nat) : Statement (.vlid sm xd kp) := ⟨rfl, fun h => nomatch h⟩
theorem vcmp (sm : Bool) (cc : Cc) (kd : Nat) (xa : Nat) (xb : Nat) (kp : Nat) : Statement (.vcmp sm cc kd xa xb kp) := ⟨rfl, fun h => nomatch h⟩
theorem vfcmp (sm : Bool) (cc : Fcc) (kd : Nat) (xa : Nat) (xb : Nat) (kp : Nat) : Statement (.vfcmp sm cc kd xa xb kp) := ⟨rfl, fun h => nomatch h⟩
theorem vfadd (sm : Bool) (xd : Nat) (xa : Nat) (xb : Nat) (kp : Nat) : Statement (.vfadd sm xd xa xb kp) := ⟨rfl, fun h => nomatch h⟩
theorem vfsub (sm : Bool) (xd : Nat) (xa : Nat) (xb : Nat) (kp : Nat) : Statement (.vfsub sm xd xa xb kp) := ⟨rfl, fun h => nomatch h⟩
theorem vfmul (sm : Bool) (xd : Nat) (xa : Nat) (xb : Nat) (kp : Nat) : Statement (.vfmul sm xd xa xb kp) := ⟨rfl, fun h => nomatch h⟩
theorem vfma (sm : Bool) (xd : Nat) (xa : Nat) (xb : Nat) (kp : Nat) : Statement (.vfma sm xd xa xb kp) := ⟨rfl, fun h => nomatch h⟩
theorem vfms (sm : Bool) (xd : Nat) (xa : Nat) (xb : Nat) (kp : Nat) : Statement (.vfms sm xd xa xb kp) := ⟨rfl, fun h => nomatch h⟩
theorem vfmin (sm : Bool) (xd : Nat) (xa : Nat) (xb : Nat) (kp : Nat) : Statement (.vfmin sm xd xa xb kp) := ⟨rfl, fun h => nomatch h⟩
theorem vfmax (sm : Bool) (xd : Nat) (xa : Nat) (xb : Nat) (kp : Nat) : Statement (.vfmax sm xd xa xb kp) := ⟨rfl, fun h => nomatch h⟩
theorem vfabs (sm : Bool) (xd : Nat) (xa : Nat) (kp : Nat) : Statement (.vfabs sm xd xa kp) := ⟨rfl, fun h => nomatch h⟩
theorem vfneg (sm : Bool) (xd : Nat) (xa : Nat) (kp : Nat) : Statement (.vfneg sm xd xa kp) := ⟨rfl, fun h => nomatch h⟩
theorem vfrnd (sm : Bool) (md : Md) (xd : Nat) (xa : Nat) (kp : Nat) : Statement (.vfrnd sm md xd xa kp) := ⟨rfl, fun h => nomatch h⟩
theorem vfclass (sm : Bool) (xd : Nat) (xa : Nat) (kp : Nat) : Statement (.vfclass sm xd xa kp) := ⟨rfl, fun h => nomatch h⟩
theorem vrcp (sm : Bool) (md : Md) (xd : Nat) (xa : Nat) (kp : Nat) : Statement (.vrcp sm md xd xa kp) := ⟨rfl, fun h => nomatch h⟩
theorem vrsq (sm : Bool) (xd : Nat) (xa : Nat) (kp : Nat) : Statement (.vrsq sm xd xa kp) := ⟨rfl, fun h => nomatch h⟩
theorem vsqrt (sm : Bool) (md : Md) (xd : Nat) (xa : Nat) (kp : Nat) : Statement (.vsqrt sm md xd xa kp) := ⟨rfl, fun h => nomatch h⟩
theorem vexp2 (sm : Bool) (xd : Nat) (xa : Nat) (kp : Nat) : Statement (.vexp2 sm xd xa kp) := ⟨rfl, fun h => nomatch h⟩
theorem vlog2 (sm : Bool) (xd : Nat) (xa : Nat) (kp : Nat) : Statement (.vlog2 sm xd xa kp) := ⟨rfl, fun h => nomatch h⟩
theorem vsin (sm : Bool) (xd : Nat) (xa : Nat) (kp : Nat) : Statement (.vsin sm xd xa kp) := ⟨rfl, fun h => nomatch h⟩
theorem vcos (sm : Bool) (xd : Nat) (xa : Nat) (kp : Nat) : Statement (.vcos sm xd xa kp) := ⟨rfl, fun h => nomatch h⟩
theorem vtanh (sm : Bool) (xd : Nat) (xa : Nat) (kp : Nat) : Statement (.vtanh sm xd xa kp) := ⟨rfl, fun h => nomatch h⟩
theorem vpadd (sm : Bool) (ty : Pty) (xd : Nat) (xa : Nat) (xb : Nat) : Statement (.vpadd sm ty xd xa xb) := ⟨rfl, fun h => nomatch h⟩
theorem vpmul (sm : Bool) (ty : Pty) (xd : Nat) (xa : Nat) (xb : Nat) : Statement (.vpmul sm ty xd xa xb) := ⟨rfl, fun h => nomatch h⟩
theorem vpfma (sm : Bool) (ty : Pty) (xd : Nat) (xa : Nat) (xb : Nat) : Statement (.vpfma sm ty xd xa xb) := ⟨rfl, fun h => nomatch h⟩
theorem vcvt (sm : Bool) (kind : CvtKind) (md : Md) (xd : Nat) (xa : Nat) (kp : Nat) : Statement (.vcvt sm kind md xd xa kp) := ⟨rfl, fun h => nomatch h⟩
theorem vquant (sm : Bool) (fmt : QFmt) (xd : Nat) (xa : Nat) (kd : Nat) (kp : Nat) : Statement (.vquant sm fmt xd xa kd kp) := ⟨rfl, fun h => nomatch h⟩
theorem vdot4 (sm : Bool) (sa : Bool) (sb : Bool) (st : Bool) (xd : Nat) (xa : Nat) (xb : Nat) : Statement (.vdot4 sm sa sb st xd xa xb) := ⟨rfl, fun h => nomatch h⟩
theorem vdot8 (sm : Bool) (sa : Bool) (sb : Bool) (st : Bool) (xd : Nat) (xa : Nat) (xb : Nat) : Statement (.vdot8 sm sa sb st xd xa xb) := ⟨rfl, fun h => nomatch h⟩
theorem vshfl (sm : Bool) (xd : Nat) (xa : Nat) (xb : Nat) (kp : Nat) : Statement (.vshfl sm xd xa xb kp) := ⟨rfl, fun h => nomatch h⟩
theorem vbcast (sm : Bool) (xd : Nat) (xa : Nat) (lane : Nat) : Statement (.vbcast sm xd xa lane) := ⟨rfl, fun h => nomatch h⟩
theorem vrot (sm : Bool) (xd : Nat) (xa : Nat) (rot : Nat) : Statement (.vrot sm xd xa rot) := ⟨rfl, fun h => nomatch h⟩
theorem vred (sm : Bool) (fn : RedFn) (md : Md) (xd : Nat) (xa : Nat) (kp : Nat) : Statement (.vred sm fn md xd xa kp) := ⟨rfl, fun h => nomatch h⟩
theorem vscan (sm : Bool) (fn : RedFn) (md : Md) (xd : Nat) (xa : Nat) (kp : Nat) : Statement (.vscan sm fn md xd xa kp) := ⟨rfl, fun h => nomatch h⟩
theorem vld (sm : Bool) (sz : LdSize) (strong : Bool) (xt : Nat) (xo : Nat) (aw : Nat) (kp : Nat) : Statement (.vld sm sz strong xt xo aw kp) := ⟨rfl, fun h => nomatch h⟩
theorem vst (sm : Bool) (sz : Size4) (strong : Bool) (xt : Nat) (xo : Nat) (aw : Nat) (kp : Nat) : Statement (.vst sm sz strong xt xo aw kp) := ⟨rfl, fun h => nomatch h⟩
theorem vatom (sm : Bool) (aop : Aop) (xt : Nat) (xo : Nat) (aw : Nat) (kp : Nat) : Statement (.vatom sm aop xt xo aw kp) := ⟨rfl, fun h => nomatch h⟩
theorem lld (sm : Bool) (sz : Size4) (xt : Nat) (xo : Nat) (disp : Nat) (kp : Nat) : Statement (.lld sm sz xt xo disp kp) := ⟨rfl, fun h => nomatch h⟩
theorem lst (sm : Bool) (sz : Size4) (xt : Nat) (xo : Nat) (disp : Nat) (kp : Nat) : Statement (.lst sm sz xt xo disp kp) := ⟨rfl, fun h => nomatch h⟩
theorem latom (sm : Bool) (aop : Aop) (xt : Nat) (xo : Nat) (kp : Nat) : Statement (.latom sm aop xt xo kp) := ⟨rfl, fun h => nomatch h⟩
theorem vltag (sm : Bool) (xd : Nat) (xa : Nat) (kp : Nat) : Statement (.vltag sm xd xa kp) := ⟨rfl, fun h => nomatch h⟩
theorem sadd (sm : Bool) (w : Bool) (xd : Nat) (xa : Nat) (xb : Nat) : Statement (.sadd sm w xd xa xb) := ⟨rfl, fun h => nomatch h⟩
theorem ssub (sm : Bool) (w : Bool) (xd : Nat) (xa : Nat) (xb : Nat) : Statement (.ssub sm w xd xa xb) := ⟨rfl, fun h => nomatch h⟩
theorem smul (sm : Bool) (w : Bool) (xd : Nat) (xa : Nat) (xb : Nat) : Statement (.smul sm w xd xa xb) := ⟨rfl, fun h => nomatch h⟩
theorem smulh (sm : Bool) (w : Bool) (xd : Nat) (xa : Nat) (xb : Nat) : Statement (.smulh sm w xd xa xb) := ⟨rfl, fun h => nomatch h⟩
theorem sand (sm : Bool) (w : Bool) (xd : Nat) (xa : Nat) (xb : Nat) : Statement (.sand sm w xd xa xb) := ⟨rfl, fun h => nomatch h⟩
theorem sor (sm : Bool) (w : Bool) (xd : Nat) (xa : Nat) (xb : Nat) : Statement (.sor sm w xd xa xb) := ⟨rfl, fun h => nomatch h⟩
theorem sxor (sm : Bool) (w : Bool) (xd : Nat) (xa : Nat) (xb : Nat) : Statement (.sxor sm w xd xa xb) := ⟨rfl, fun h => nomatch h⟩
theorem smulhu (sm : Bool) (w : Bool) (xd : Nat) (xa : Nat) (xb : Nat) : Statement (.smulhu sm w xd xa xb) := ⟨rfl, fun h => nomatch h⟩
theorem sshl (sm : Bool) (w : Bool) (xd : Nat) (xa : Nat) (xb : Nat) : Statement (.sshl sm w xd xa xb) := ⟨rfl, fun h => nomatch h⟩
theorem sshr (sm : Bool) (w : Bool) (xd : Nat) (xa : Nat) (xb : Nat) : Statement (.sshr sm w xd xa xb) := ⟨rfl, fun h => nomatch h⟩
theorem ssra (sm : Bool) (w : Bool) (xd : Nat) (xa : Nat) (xb : Nat) : Statement (.ssra sm w xd xa xb) := ⟨rfl, fun h => nomatch h⟩
theorem sandn (sm : Bool) (w : Bool) (xd : Nat) (xa : Nat) (xb : Nat) : Statement (.sandn sm w xd xa xb) := ⟨rfl, fun h => nomatch h⟩
theorem smin (sm : Bool) (w : Bool) (xd : Nat) (xa : Nat) (xb : Nat) : Statement (.smin sm w xd xa xb) := ⟨rfl, fun h => nomatch h⟩
theorem smax (sm : Bool) (w : Bool) (xd : Nat) (xa : Nat) (xb : Nat) : Statement (.smax sm w xd xa xb) := ⟨rfl, fun h => nomatch h⟩
theorem sminu (sm : Bool) (w : Bool) (xd : Nat) (xa : Nat) (xb : Nat) : Statement (.sminu sm w xd xa xb) := ⟨rfl, fun h => nomatch h⟩
theorem smaxu (sm : Bool) (w : Bool) (xd : Nat) (xa : Nat) (xb : Nat) : Statement (.smaxu sm w xd xa xb) := ⟨rfl, fun h => nomatch h⟩
theorem sdiv (sm : Bool) (w : Bool) (xd : Nat) (xa : Nat) (xb : Nat) : Statement (.sdiv sm w xd xa xb) := ⟨rfl, fun h => nomatch h⟩
theorem sdivu (sm : Bool) (w : Bool) (xd : Nat) (xa : Nat) (xb : Nat) : Statement (.sdivu sm w xd xa xb) := ⟨rfl, fun h => nomatch h⟩
theorem srem (sm : Bool) (w : Bool) (xd : Nat) (xa : Nat) (xb : Nat) : Statement (.srem sm w xd xa xb) := ⟨rfl, fun h => nomatch h⟩
theorem sremu (sm : Bool) (w : Bool) (xd : Nat) (xa : Nat) (xb : Nat) : Statement (.sremu sm w xd xa xb) := ⟨rfl, fun h => nomatch h⟩
theorem scmp (sm : Bool) (w : Bool) (xa : Nat) (xb : Nat) : Statement (.scmp sm w xa xb) := ⟨rfl, fun h => nomatch h⟩
theorem sfcmp (sm : Bool) (xa : Nat) (xb : Nat) : Statement (.sfcmp sm xa xb) := ⟨rfl, fun h => nomatch h⟩
theorem spopc (sm : Bool) (w : Bool) (xd : Nat) (xa : Nat) : Statement (.spopc sm w xd xa) := ⟨rfl, fun h => nomatch h⟩
theorem sclz (sm : Bool) (w : Bool) (xd : Nat) (xa : Nat) : Statement (.sclz sm w xd xa) := ⟨rfl, fun h => nomatch h⟩
theorem sfadd (sm : Bool) (xd : Nat) (xa : Nat) (xb : Nat) : Statement (.sfadd sm xd xa xb) := ⟨rfl, fun h => nomatch h⟩
theorem sfsub (sm : Bool) (xd : Nat) (xa : Nat) (xb : Nat) : Statement (.sfsub sm xd xa xb) := ⟨rfl, fun h => nomatch h⟩
theorem sfmul (sm : Bool) (xd : Nat) (xa : Nat) (xb : Nat) : Statement (.sfmul sm xd xa xb) := ⟨rfl, fun h => nomatch h⟩
theorem sfma (sm : Bool) (xd : Nat) (xa : Nat) (xb : Nat) : Statement (.sfma sm xd xa xb) := ⟨rfl, fun h => nomatch h⟩
theorem ssel (sm : Bool) (cnd : Cond) (xd : Nat) (xa : Nat) (xb : Nat) : Statement (.ssel sm cnd xd xa xb) := ⟨rfl, fun h => nomatch h⟩
theorem saddi (sm : Bool) (xd : Nat) (xa : Nat) (imm : Int) : Statement (.saddi sm xd xa imm) := ⟨rfl, fun h => nomatch h⟩
theorem sandi (sm : Bool) (xd : Nat) (xa : Nat) (imm : Nat) : Statement (.sandi sm xd xa imm) := ⟨rfl, fun h => nomatch h⟩
theorem sori (sm : Bool) (xd : Nat) (xa : Nat) (imm : Nat) : Statement (.sori sm xd xa imm) := ⟨rfl, fun h => nomatch h⟩
theorem sxori (sm : Bool) (xd : Nat) (xa : Nat) (imm : Nat) : Statement (.sxori sm xd xa imm) := ⟨rfl, fun h => nomatch h⟩
theorem sshli (sm : Bool) (w : Bool) (xd : Nat) (xa : Nat) (amt : Nat) : Statement (.sshli sm w xd xa amt) := ⟨rfl, fun h => nomatch h⟩
theorem sshri (sm : Bool) (w : Bool) (xd : Nat) (xa : Nat) (amt : Nat) : Statement (.sshri sm w xd xa amt) := ⟨rfl, fun h => nomatch h⟩
theorem ssrai (sm : Bool) (w : Bool) (xd : Nat) (xa : Nat) (amt : Nat) : Statement (.ssrai sm w xd xa amt) := ⟨rfl, fun h => nomatch h⟩
theorem scmpi (sm : Bool) (xa : Nat) (imm : Int) : Statement (.scmpi sm xa imm) := ⟨rfl, fun h => nomatch h⟩
theorem smovi (sm : Bool) (xd : Nat) (imm : Int) : Statement (.smovi sm xd imm) := ⟨rfl, fun h => nomatch h⟩
theorem slui (sm : Bool) (xd : Nat) (imm : Nat) : Statement (.slui sm xd imm) := ⟨rfl, fun h => nomatch h⟩
theorem smovl (sm : Bool) (xd : Nat) (imm : Nat) : Statement (.smovl sm xd imm) := ⟨rfl, fun h => nomatch h⟩
theorem scvt (sm : Bool) (kind : ScvtKind) (xd : Nat) (xa : Nat) : Statement (.scvt sm kind xd xa) := ⟨rfl, fun h => nomatch h⟩
theorem sget (sm : Bool) (xd : Nat) (xa : Nat) (xb : Nat) : Statement (.sget sm xd xa xb) := ⟨rfl, fun h => nomatch h⟩
theorem sset (sm : Bool) (xd : Nat) (xa : Nat) (xb : Nat) : Statement (.sset sm xd xa xb) := ⟨rfl, fun h => nomatch h⟩
theorem br (sm : Bool) (cnd : Cond) (off : Int) : Statement (.br sm cnd off) := ⟨rfl, fun h => nomatch h⟩
theorem call (sm : Bool) (cnd : Cond) (off : Int) : Statement (.call sm cnd off) := ⟨rfl, fun h => nomatch h⟩
theorem jmpr (sm : Bool) (xa : Nat) : Statement (.jmpr sm xa) := ⟨rfl, fun h => nomatch h⟩
theorem ret (sm : Bool) : Statement (.ret sm) := ⟨rfl, fun h => nomatch h⟩
theorem callr (sm : Bool) (xa : Nat) : Statement (.callr sm xa) := ⟨rfl, fun h => nomatch h⟩
theorem dif (sm : Bool) (kc : Nat) (off : Int) : Statement (.dif sm kc off) := ⟨rfl, fun h => nomatch h⟩
theorem delse (sm : Bool) (off : Int) : Statement (.delse sm off) := ⟨rfl, fun h => nomatch h⟩
theorem dend (sm : Bool) : Statement (.dend sm) := ⟨rfl, fun h => nomatch h⟩
theorem dloop (sm : Bool) (kc : Nat) (off : Int) : Statement (.dloop sm kc off) := ⟨rfl, fun h => nomatch h⟩
theorem dbrk (sm : Bool) (kc : Nat) (off : Int) : Statement (.dbrk sm kc off) := ⟨rfl, fun h => nomatch h⟩
theorem kand (sm : Bool) (kd : Nat) (ka : Nat) (kb : Nat) : Statement (.kand sm kd ka kb) := ⟨rfl, fun h => nomatch h⟩
theorem kor (sm : Bool) (kd : Nat) (ka : Nat) (kb : Nat) : Statement (.kor sm kd ka kb) := ⟨rfl, fun h => nomatch h⟩
theorem kxor (sm : Bool) (kd : Nat) (ka : Nat) (kb : Nat) : Statement (.kxor sm kd ka kb) := ⟨rfl, fun h => nomatch h⟩
theorem kandn (sm : Bool) (kd : Nat) (ka : Nat) (kb : Nat) : Statement (.kandn sm kd ka kb) := ⟨rfl, fun h => nomatch h⟩
theorem knot (sm : Bool) (kd : Nat) (ka : Nat) : Statement (.knot sm kd ka) := ⟨rfl, fun h => nomatch h⟩
theorem kmov (sm : Bool) (kd : Nat) (ka : Nat) : Statement (.kmov sm kd ka) := ⟨rfl, fun h => nomatch h⟩
theorem kpopc (sm : Bool) (xa : Nat) (ka : Nat) : Statement (.kpopc sm xa ka) := ⟨rfl, fun h => nomatch h⟩
theorem kfirst (sm : Bool) (xa : Nat) (ka : Nat) : Statement (.kfirst sm xa ka) := ⟨rfl, fun h => nomatch h⟩
theorem kset (sm : Bool) (kd : Nat) : Statement (.kset sm kd) := ⟨rfl, fun h => nomatch h⟩
theorem kget (sm : Bool) (xa : Nat) (ka : Nat) : Statement (.kget sm xa ka) := ⟨rfl, fun h => nomatch h⟩
theorem kfrom (sm : Bool) (kd : Nat) (xa : Nat) : Statement (.kfrom sm kd xa) := ⟨rfl, fun h => nomatch h⟩
theorem sld (sm : Bool) (sz : Size4) (xd : Nat) (xa : Nat) (disp : Int) : Statement (.sld sm sz xd xa disp) := ⟨rfl, fun h => nomatch h⟩
theorem sst (sm : Bool) (sz : Size4) (xd : Nat) (xa : Nat) (disp : Int) : Statement (.sst sm sz xd xa disp) := ⟨rfl, fun h => nomatch h⟩
theorem satomAdd (sm : Bool) (w : Bool) (xd : Nat) (xa : Nat) (xb : Nat) : Statement (.satomAdd sm w xd xa xb) := ⟨rfl, fun h => nomatch h⟩
theorem satomMin (sm : Bool) (w : Bool) (xd : Nat) (xa : Nat) (xb : Nat) : Statement (.satomMin sm w xd xa xb) := ⟨rfl, fun h => nomatch h⟩
theorem satomMax (sm : Bool) (w : Bool) (xd : Nat) (xa : Nat) (xb : Nat) : Statement (.satomMax sm w xd xa xb) := ⟨rfl, fun h => nomatch h⟩
theorem satomSwp (sm : Bool) (w : Bool) (xd : Nat) (xa : Nat) (xb : Nat) : Statement (.satomSwp sm w xd xa xb) := ⟨rfl, fun h => nomatch h⟩
theorem satomAnd (sm : Bool) (w : Bool) (xd : Nat) (xa : Nat) (xb : Nat) : Statement (.satomAnd sm w xd xa xb) := ⟨rfl, fun h => nomatch h⟩
theorem satomOr (sm : Bool) (w : Bool) (xd : Nat) (xa : Nat) (xb : Nat) : Statement (.satomOr sm w xd xa xb) := ⟨rfl, fun h => nomatch h⟩
theorem satomXor (sm : Bool) (w : Bool) (xd : Nat) (xa : Nat) (xb : Nat) : Statement (.satomXor sm w xd xa xb) := ⟨rfl, fun h => nomatch h⟩
theorem satomCas (sm : Bool) (w : Bool) (xd : Nat) (xa : Nat) (xb : Nat) : Statement (.satomCas sm w xd xa xb) := ⟨rfl, fun h => nomatch h⟩
theorem bar (sm : Bool) (id : Nat) : Statement (.bar sm id) := ⟨rfl, fun h => nomatch h⟩
theorem barph (sm : Bool) (id : Nat) (idx : Nat) : Statement (.barph sm id idx) := ⟨rfl, fun h => nomatch h⟩
theorem bwinit (sm : Bool) (xa : Nat) (xb : Nat) : Statement (.bwinit sm xa xb) := ⟨rfl, fun h => nomatch h⟩
theorem barv (sm : Bool) (xd : Nat) (xa : Nat) : Statement (.barv sm xd xa) := ⟨rfl, fun h => nomatch h⟩
theorem bwt (sm : Bool) (xa : Nat) (xb : Nat) : Statement (.bwt sm xa xb) := ⟨rfl, fun h => nomatch h⟩
theorem wait (sm : Bool) (cls : Nat) (count : Nat) : Statement (.wait sm cls count) := ⟨rfl, fun h => nomatch h⟩
theorem wtok (sm : Bool) (xa : Nat) : Statement (.wtok sm xa) := ⟨rfl, fun h => nomatch h⟩
theorem wadr (sm : Bool) (xd : Nat) (xa : Nat) (xb : Nat) : Statement (.wadr sm xd xa xb) := ⟨rfl, fun h => nomatch h⟩
theorem wake (sm : Bool) (xd : Nat) (xa : Nat) (xb : Nat) : Statement (.wake sm xd xa xb) := ⟨rfl, fun h => nomatch h⟩
theorem fenceAcq (sm : Bool) (sc : Scope) : Statement (.fenceAcq sm sc) := ⟨rfl, fun h => nomatch h⟩
theorem fenceRel (sm : Bool) (sc : Scope) : Statement (.fenceRel sm sc) := ⟨rfl, fun h => nomatch h⟩
theorem fenceAr (sm : Bool) (sc : Scope) : Statement (.fenceAr sm sc) := ⟨rfl, fun h => nomatch h⟩
theorem fenceSc (sm : Bool) (sc : Scope) : Statement (.fenceSc sm sc) := ⟨rfl, fun h => nomatch h⟩
theorem pfence (sm : Bool) (sc : Scope) (frm : Nat) (dst : Nat) : Statement (.pfence sm sc frm dst) := ⟨rfl, fun h => nomatch h⟩
theorem acq (sm : Bool) (xa : Nat) : Statement (.acq sm xa) := ⟨rfl, fun h => nomatch h⟩
theorem rel (sm : Bool) (xa : Nat) : Statement (.rel sm xa) := ⟨rfl, fun h => nomatch h⟩
theorem bind (sm : Bool) (xd : Nat) (xa : Nat) (xb : Nat) : Statement (.bind sm xd xa xb) := ⟨rfl, fun h => nomatch h⟩
theorem unbind (sm : Bool) (xd : Nat) (xa : Nat) (xb : Nat) : Statement (.unbind sm xd xa xb) := ⟨rfl, fun h => nomatch h⟩
theorem ifence (sm : Bool) : Statement (.ifence sm) := ⟨rfl, fun h => nomatch h⟩
theorem cpy (sm : Bool) (arv : Bool) (xd : Nat) (xa : Nat) : Statement (.cpy sm arv xd xa) := ⟨rfl, fun h => nomatch h⟩
theorem cpy2d (sm : Bool) (arv : Bool) (xd : Nat) (xa : Nat) : Statement (.cpy2d sm arv xd xa) := ⟨rfl, fun h => nomatch h⟩
theorem gath (sm : Bool) (scl : Bool) (arv : Bool) (xd : Nat) (xa : Nat) : Statement (.gath sm scl arv xd xa) := ⟨rfl, fun h => nomatch h⟩
theorem scat (sm : Bool) (scl : Bool) (arv : Bool) (xd : Nat) (xa : Nat) : Statement (.scat sm scl arv xd xa) := ⟨rfl, fun h => nomatch h⟩
theorem cpyl (sm : Bool) (arv : Bool) (xd : Nat) (xa : Nat) : Statement (.cpyl sm arv xd xa) := ⟨rfl, fun h => nomatch h⟩
theorem fill (sm : Bool) (arv : Bool) (xd : Nat) (xa : Nat) : Statement (.fill sm arv xd xa) := ⟨rfl, fun h => nomatch h⟩
theorem allred (sm : Bool) (bf : Bool) (op : ColOp) (arv : Bool) (xd : Nat) (xa : Nat) : Statement (.allred sm bf op arv xd xa) := ⟨rfl, fun h => nomatch h⟩
theorem allgath (sm : Bool) (arv : Bool) (xd : Nat) (xa : Nat) : Statement (.allgath sm arv xd xa) := ⟨rfl, fun h => nomatch h⟩
theorem redscat (sm : Bool) (bf : Bool) (op : ColOp) (arv : Bool) (xd : Nat) (xa : Nat) : Statement (.redscat sm bf op arv xd xa) := ⟨rfl, fun h => nomatch h⟩
theorem bcast (sm : Bool) (arv : Bool) (xd : Nat) (xa : Nat) : Statement (.bcast sm arv xd xa) := ⟨rfl, fun h => nomatch h⟩
theorem mxres (sm : Bool) (xd : Nat) (xa : Nat) : Statement (.mxres sm xd xa) := ⟨rfl, fun h => nomatch h⟩
theorem mxrel (sm : Bool) (xd : Nat) (xa : Nat) : Statement (.mxrel sm xd xa) := ⟨rfl, fun h => nomatch h⟩
theorem mxld (sm : Bool) (xd : Nat) (xa : Nat) : Statement (.mxld sm xd xa) := ⟨rfl, fun h => nomatch h⟩
theorem mxmm (sm : Bool) (xd : Nat) (xa : Nat) : Statement (.mxmm sm xd xa) := ⟨rfl, fun h => nomatch h⟩
theorem mxmmg (sm : Bool) (xd : Nat) (xa : Nat) : Statement (.mxmmg sm xd xa) := ⟨rfl, fun h => nomatch h⟩
theorem launch (sm : Bool) (arv : Bool) (xd : Nat) (xa : Nat) : Statement (.launch sm arv xd xa) := ⟨rfl, fun h => nomatch h⟩
theorem gtrig (sm : Bool) (xd : Nat) (xa : Nat) : Statement (.gtrig sm xd xa) := ⟨rfl, fun h => nomatch h⟩
theorem fdone (sm : Bool) (xd : Nat) : Statement (.fdone sm xd) := ⟨rfl, fun h => nomatch h⟩
theorem coinw (sm : Bool) : Statement (.coinw sm) := ⟨rfl, fun h => nomatch h⟩
theorem coinp (sm : Bool) : Statement (.coinp sm) := ⟨rfl, fun h => nomatch h⟩
theorem rnd (sm : Bool) : Statement (.rnd sm) := ⟨rfl, fun h => nomatch h⟩
theorem spt (sm : Bool) (n : Nat) : Statement (.spt sm n) := ⟨rfl, fun h => nomatch h⟩
theorem xfer (sm : Bool) (xd : Nat) (xa : Nat) : Statement (.xfer sm xd xa) := ⟨rfl, fun h => nomatch h⟩
theorem epopen (sm : Bool) (xd : Nat) (xa : Nat) : Statement (.epopen sm xd xa) := ⟨rfl, fun h => nomatch h⟩
theorem epstep (sm : Bool) (xd : Nat) (xa : Nat) : Statement (.epstep sm xd xa) := ⟨rfl, fun h => nomatch h⟩
theorem epclose (sm : Bool) (xd : Nat) (xa : Nat) : Statement (.epclose sm xd xa) := ⟨rfl, fun h => nomatch h⟩
theorem rwpost (sm : Bool) (xd : Nat) (xa : Nat) : Statement (.rwpost sm xd xa) := ⟨rfl, fun h => nomatch h⟩
theorem lqpop (sm : Bool) (xd : Nat) (xa : Nat) : Statement (.lqpop sm xd xa) := ⟨rfl, fun h => nomatch h⟩
theorem escfg (sm : Bool) (xd : Nat) (xa : Nat) : Statement (.escfg sm xd xa) := ⟨rfl, fun h => nomatch h⟩
theorem nop (sm : Bool) : Statement (.nop sm) := ⟨rfl, fun h => nomatch h⟩
theorem brk (sm : Bool) : Statement (.brk sm) := ⟨rfl, fun h => nomatch h⟩
theorem sret (sm : Bool) : Statement (.sret sm) := ⟨rfl, fun h => nomatch h⟩
theorem halt (sm : Bool) : Statement (.halt sm) := ⟨rfl, fun h => nomatch h⟩
theorem trap (sm : Bool) (n : Nat) : Statement (.trap sm n) := ⟨rfl, fun h => nomatch h⟩
theorem srd (sm : Bool) (xd : Nat) (num : Nat) : Statement (.srd sm xd num) := ⟨rfl, fun h => nomatch h⟩
theorem swr (sm : Bool) (xa : Nat) (num : Nat) : Statement (.swr sm xa num) := ⟨rfl, fun h => nomatch h⟩
theorem topo (sm : Bool) (xd : Nat) (xa : Nat) (sel : Nat) : Statement (.topo sm xd xa sel) := ⟨rfl, fun h => nomatch h⟩
theorem capq (sm : Bool) (xd : Nat) (xa : Nat) (sel : Nat) : Statement (.capq sm xd xa sel) := ⟨rfl, fun h => nomatch h⟩
theorem ltag (sm : Bool) (xd : Nat) (xa : Nat) : Statement (.ltag sm xd xa) := ⟨rfl, fun h => nomatch h⟩
theorem tagset (sm : Bool) (xd : Nat) (xa : Nat) (xb : Nat) : Statement (.tagset sm xd xa xb) := ⟨rfl, fun h => nomatch h⟩
theorem tagclr (sm : Bool) (xd : Nat) (xa : Nat) (xb : Nat) : Statement (.tagclr sm xd xa xb) := ⟨rfl, fun h => nomatch h⟩
theorem xacq (sm : Bool) (n : Nat) : Statement (.xacq sm n) := ⟨rfl, fun h => nomatch h⟩
theorem xrel (sm : Bool) : Statement (.xrel sm) := ⟨rfl, fun h => nomatch h⟩
theorem awin (sm : Bool) (aw : Nat) (xa : Nat) : Statement (.awin sm aw xa) := ⟨rfl, fun h => nomatch h⟩
theorem pref (sm : Bool) (xa : Nat) (xb : Nat) : Statement (.pref sm xa xb) := ⟨rfl, fun h => nomatch h⟩
theorem prefT (sm : Bool) (xa : Nat) (xb : Nat) : Statement (.prefT sm xa xb) := ⟨rfl, fun h => nomatch h⟩
theorem shortVadd (a b : Nat) : Statement (.shortVadd a b) := ⟨rfl, fun h => nomatch h⟩
theorem shortVsub (a b : Nat) : Statement (.shortVsub a b) := ⟨rfl, fun h => nomatch h⟩
theorem shortVmul (a b : Nat) : Statement (.shortVmul a b) := ⟨rfl, fun h => nomatch h⟩
theorem shortVfadd (a b : Nat) : Statement (.shortVfadd a b) := ⟨rfl, fun h => nomatch h⟩
theorem shortVfmul (a b : Nat) : Statement (.shortVfmul a b) := ⟨rfl, fun h => nomatch h⟩
theorem shortVfma (a b c : Nat) : Statement (.shortVfma a b c) := ⟨rfl, fun h => nomatch h⟩
theorem shortVmov (a b : Nat) : Statement (.shortVmov a b) := ⟨rfl, fun h => nomatch h⟩
theorem shortVaddi (a b : Nat) : Statement (.shortVaddi a b) := ⟨rfl, fun h => nomatch h⟩
theorem shortVld (a b : Nat) : Statement (.shortVld a b) := ⟨rfl, fun h => nomatch h⟩
theorem shortVst (a b : Nat) : Statement (.shortVst a b) := ⟨rfl, fun h => nomatch h⟩
theorem shortLld (a b c : Nat) : Statement (.shortLld a b c) := ⟨rfl, fun h => nomatch h⟩
theorem shortLst (a b c : Nat) : Statement (.shortLst a b c) := ⟨rfl, fun h => nomatch h⟩
theorem shortVand (a b : Nat) : Statement (.shortVand a b) := ⟨rfl, fun h => nomatch h⟩
theorem shortVor (a b : Nat) : Statement (.shortVor a b) := ⟨rfl, fun h => nomatch h⟩
theorem shortVshli (a b c : Nat) : Statement (.shortVshli a b c) := ⟨rfl, fun h => nomatch h⟩
theorem shortVcmp (a b c : Nat) : Statement (.shortVcmp a b c) := ⟨rfl, fun h => nomatch h⟩
theorem shortSadd (a b : Nat) : Statement (.shortSadd a b) := ⟨rfl, fun h => nomatch h⟩
theorem shortSsub (a b : Nat) : Statement (.shortSsub a b) := ⟨rfl, fun h => nomatch h⟩
theorem shortSaddi (a b : Nat) : Statement (.shortSaddi a b) := ⟨rfl, fun h => nomatch h⟩
theorem shortSmov (a b : Nat) : Statement (.shortSmov a b) := ⟨rfl, fun h => nomatch h⟩
theorem shortScmp (a b : Nat) : Statement (.shortScmp a b) := ⟨rfl, fun h => nomatch h⟩
theorem shortSld (a b c : Nat) : Statement (.shortSld a b c) := ⟨rfl, fun h => nomatch h⟩
theorem shortSst (a b c : Nat) : Statement (.shortSst a b c) := ⟨rfl, fun h => nomatch h⟩
theorem shortSshli (a b c : Nat) : Statement (.shortSshli a b c) := ⟨rfl, fun h => nomatch h⟩
theorem shortBr (a b c : Nat) : Statement (.shortBr a b c) := ⟨rfl, fun h => nomatch h⟩
theorem shortDend : Statement (.shortDend) := ⟨rfl, fun h => nomatch h⟩
theorem shortSpt (a b : Nat) : Statement (.shortSpt a b) := ⟨rfl, fun h => nomatch h⟩
theorem shortWait (a b : Nat) : Statement (.shortWait a b) := ⟨rfl, fun h => nomatch h⟩
theorem shortBar (a : Nat) : Statement (.shortBar a) := ⟨rfl, fun h => nomatch h⟩
theorem shortNop : Statement (.shortNop) := ⟨rfl, fun h => nomatch h⟩
theorem xacqGrant (core : Nat) : Statement (.xacqGrant core) := ⟨rfl, fun _ => rfl⟩
theorem bwtWake (g : Nat) : Statement (.bwtWake g) := ⟨rfl, fun _ => rfl⟩
theorem wadrWake (g : Nat) : Statement (.wadrWake g) := ⟨rfl, fun _ => rfl⟩
theorem engineCause (g : Nat) : Statement (.engineCause g) := ⟨rfl, fun _ => rfl⟩
theorem groupExit (g : Nat) : Statement (.groupExit g) := ⟨rfl, fun _ => rfl⟩
theorem blockPlace (grid : Nat) (core : Nat) : Statement (.blockPlace grid core) := ⟨rfl, fun _ => rfl⟩
theorem phaseEnd (blk : Nat) : Statement (.phaseEnd blk) := ⟨rfl, fun _ => rfl⟩
theorem phaseResume (blk : Nat) (core : Nat) : Statement (.phaseResume blk core) := ⟨rfl, fun _ => rfl⟩
theorem blockRetire (blk : Nat) : Statement (.blockRetire blk) := ⟨rfl, fun _ => rfl⟩
theorem gridComplete (grid : Nat) : Statement (.gridComplete grid) := ⟨rfl, fun _ => rfl⟩
theorem copyComplete (cmd : Nat) : Statement (.copyComplete cmd) := ⟨rfl, fun _ => rfl⟩
theorem cpylLineLand (cmd : Nat) : Statement (.cpylLineLand cmd) := ⟨rfl, fun _ => rfl⟩
theorem collectiveRound (cmd : Nat) : Statement (.collectiveRound cmd) := ⟨rfl, fun _ => rfl⟩
theorem matrixUnit (cluster : Nat) : Statement (.matrixUnit cluster) := ⟨rfl, fun _ => rfl⟩
theorem powerOn (lost : List Nat) (down : List Nat) : Statement (.powerOn lost down) := ⟨rfl, fun _ => rfl⟩
theorem powerStep (region : Nat) (current : Nat) : Statement (.powerStep region current) := ⟨rfl, fun _ => rfl⟩
theorem droopAlarm (region : Nat) : Statement (.droopAlarm region) := ⟨rfl, fun _ => rfl⟩
theorem droopAlarmClear (region : Nat) : Statement (.droopAlarmClear region) := ⟨rfl, fun _ => rfl⟩
theorem slowHoldExpire (region : Nat) : Statement (.slowHoldExpire region) := ⟨rfl, fun _ => rfl⟩
theorem pwrDroopWrite (v : Nat) : Statement (.pwrDroopWrite v) := ⟨rfl, fun _ => rfl⟩
theorem linkStateChange (link : Link) (st : Nat) (width : Nat) (rate : Nat) (reason : Nat) (cap : Nat) : Statement (.linkStateChange link st width rate reason cap) := ⟨rfl, fun _ => rfl⟩
theorem peerFlitReceive (port : Nat) (flit : List Nat) : Statement (.peerFlitReceive port flit) := ⟨rfl, fun _ => rfl⟩
theorem peerLinkRetrain (port : Nat) : Statement (.peerLinkRetrain port) := ⟨rfl, fun _ => rfl⟩
theorem bar2Read (off : Nat) (len : Nat) : Statement (.bar2Read off len) := ⟨rfl, fun _ => rfl⟩
theorem bar2Write (off : Nat) (bytes : List Nat) : Statement (.bar2Write off bytes) := ⟨rfl, fun _ => rfl⟩
theorem registerWrite (off : Nat) (v : Nat) : Statement (.registerWrite off v) := ⟨rfl, fun _ => rfl⟩
theorem pageRequestForward (c : Nat) : Statement (.pageRequestForward c) := ⟨rfl, fun _ => rfl⟩
theorem pgAnswer (v : Nat) : Statement (.pgAnswer v) := ⟨rfl, fun _ => rfl⟩
theorem pgStaleClear : Statement (.pgStaleClear) := ⟨rfl, fun _ => rfl⟩
theorem xlatInv (v : Nat) : Statement (.xlatInv v) := ⟨rfl, fun _ => rfl⟩
theorem xlatInvComplete : Statement (.xlatInvComplete) := ⟨rfl, fun _ => rfl⟩
theorem ctxCreate (v : Nat) : Statement (.ctxCreate v) := ⟨rfl, fun _ => rfl⟩
theorem ctxDbg (c : Nat) (on : Bool) : Statement (.ctxDbg c on) := ⟨rfl, fun _ => rfl⟩
theorem ctxDestroy (c : Nat) : Statement (.ctxDestroy c) := ⟨rfl, fun _ => rfl⟩
theorem ctxKill (c : Nat) : Statement (.ctxKill c) := ⟨rfl, fun _ => rfl⟩
theorem ctxResume (c : Nat) : Statement (.ctxResume c) := ⟨rfl, fun _ => rfl⟩
theorem ctxPreempt (c : Nat) : Statement (.ctxPreempt c) := ⟨rfl, fun _ => rfl⟩
theorem ctxUnpreempt (c : Nat) : Statement (.ctxUnpreempt c) := ⟨rfl, fun _ => rfl⟩
theorem schedulerDrain (c : Nat) : Statement (.schedulerDrain c) := ⟨rfl, fun _ => rfl⟩
theorem drainComplete (c : Nat) : Statement (.drainComplete c) := ⟨rfl, fun _ => rfl⟩
theorem ckptStart : Statement (.ckptStart) := ⟨rfl, fun _ => rfl⟩
theorem ckptRestore : Statement (.ckptRestore) := ⟨rfl, fun _ => rfl⟩
theorem ckptDone : Statement (.ckptDone) := ⟨rfl, fun _ => rfl⟩
theorem dieOffline (v : Nat) : Statement (.dieOffline v) := ⟨rfl, fun _ => rfl⟩
theorem offlineDone : Statement (.offlineDone) := ⟨rfl, fun _ => rfl⟩
theorem dieLoss (die : Nat) : Statement (.dieLoss die) := ⟨rfl, fun _ => rfl⟩
theorem correctedError (die : Nat) (kind : Nat) (unit : Nat) (cycle : Nat) : Statement (.correctedError die kind unit cycle) := ⟨rfl, fun _ => rfl⟩
theorem harvestRetire (die : Nat) (kind : Nat) (unit : Nat) : Statement (.harvestRetire die kind unit) := ⟨rfl, fun _ => rfl⟩
theorem vaultImport (v : Nat) : Statement (.vaultImport v) := ⟨rfl, fun _ => rfl⟩
theorem securityAlarm (src : Nat) : Statement (.securityAlarm src) := ⟨rfl, fun _ => rfl⟩
theorem secStatusWrite (v : Nat) : Statement (.secStatusWrite v) := ⟨rfl, fun _ => rfl⟩
theorem secFreeze : Statement (.secFreeze) := ⟨rfl, fun _ => rfl⟩
theorem freezeLine : Statement (.freezeLine) := ⟨rfl, fun _ => rfl⟩
theorem monClear (die : Nat) (mon : Nat) : Statement (.monClear die mon) := ⟨rfl, fun _ => rfl⟩
theorem mintStatClear : Statement (.mintStatClear) := ⟨rfl, fun _ => rfl⟩
theorem mintTrigger (c : Nat) (img : Nat) (kern : Nat) : Statement (.mintTrigger c img kern) := ⟨rfl, fun _ => rfl⟩
theorem mintBuildDone (c : Nat) (img : Nat) (kern : Nat) (built : Option BuiltVersion) : Statement (.mintBuildDone c img kern built) := ⟨rfl, fun _ => rfl⟩
theorem eventTask (c : Nat) : Statement (.eventTask c) := ⟨rfl, fun _ => rfl⟩
theorem traceOverflowRecord (c : Nat) (die : Nat) : Statement (.traceOverflowRecord c die) := ⟨rfl, fun _ => rfl⟩
theorem roundClose (grid : Nat) : Statement (.roundClose grid) := ⟨rfl, fun _ => rfl⟩
theorem coinWaitResume (g : Nat) : Statement (.coinWaitResume g) := ⟨rfl, fun _ => rfl⟩
theorem blockSuspend (blk : Nat) : Statement (.blockSuspend blk) := ⟨rfl, fun _ => rfl⟩
theorem rewardApply (post : Nat) : Statement (.rewardApply post) := ⟨rfl, fun _ => rfl⟩
theorem orphanExpire (slice : Nat) (c : Nat) (key : Nat) (t : Nat) : Statement (.orphanExpire slice c key t) := ⟨rfl, fun _ => rfl⟩
theorem episodeTimeout (slice : Nat) (c : Nat) (key : Nat) : Statement (.episodeTimeout slice c key) := ⟨rfl, fun _ => rfl⟩
theorem discountEpisode (slice : Nat) : Statement (.discountEpisode slice) := ⟨rfl, fun _ => rfl⟩
theorem episodeRelease (slice : Nat) (c : Nat) : Statement (.episodeRelease slice c) := ⟨rfl, fun _ => rfl⟩
theorem escPost (size : Nat) (v : Nat) : Statement (.escPost size v) := ⟨rfl, fun _ => rfl⟩
theorem gload (v : Nat) : Statement (.gload v) := ⟨rfl, fun _ => rfl⟩
theorem gtrigWrite (v : Nat) : Statement (.gtrigWrite v) := ⟨rfl, fun _ => rfl⟩
theorem graphStatClear : Statement (.graphStatClear) := ⟨rfl, fun _ => rfl⟩
theorem graphRunStart (gid : Nat) : Statement (.graphRunStart gid) := ⟨rfl, fun _ => rfl⟩
theorem graphNodeStart (gid : Nat) (node : Nat) : Statement (.graphNodeStart gid node) := ⟨rfl, fun _ => rfl⟩
theorem graphRunComplete (gid : Nat) : Statement (.graphRunComplete gid) := ⟨rfl, fun _ => rfl⟩
theorem firingDispatch (gid : Nat) (node : Nat) (stage : Nat) (core : Nat) : Statement (.firingDispatch gid node stage core) := ⟨rfl, fun _ => rfl⟩
theorem governorMove (gid : Nat) (node : Nat) : Statement (.governorMove gid node) := ⟨rfl, fun _ => rfl⟩
theorem sgRebind (v : Nat) : Statement (.sgRebind v) := ⟨rfl, fun _ => rfl⟩
theorem sgRebindApply (gid : Nat) (node : Nat) : Statement (.sgRebindApply gid node) := ⟨rfl, fun _ => rfl⟩
theorem registerResultWritten (g : Nat) : Statement (.registerResultWritten g) := ⟨rfl, fun _ => rfl⟩
theorem contextCreationEnd : Statement (.contextCreationEnd) := ⟨rfl, fun _ => rfl⟩
theorem graphLoadEnd : Statement (.graphLoadEnd) := ⟨rfl, fun _ => rfl⟩
theorem importEnd : Statement (.importEnd) := ⟨rfl, fun _ => rfl⟩
theorem alarmSourceEnd (src : Nat) : Statement (.alarmSourceEnd src) := ⟨rfl, fun _ => rfl⟩
theorem imageLoad (c : Nat) (bytes : List Nat) (bases : List Nat) (syms : List (Nat × Nat × Bool)) : Statement (.imageLoad c bytes bases syms) := ⟨rfl, fun _ => rfl⟩

end Sys2Proof.Laws.Encodes
end

