-- ==== Sys2Proof/Tests/Slice0.lean ====
section
/-!
SUPPORT. Tests: the checks of `Instr.wf`, words written out from the spec's encodings, small results with values from the spec or
worked out by hand from its rules, and for every statement of the certificate states and operands that meet its hypotheses.
-/
namespace Sys2Proof.Tests
open Sys2Proof.Machine

set_option Elab.async false

/-! ### Well-formed instructions: one ill-formed term for each check -/

theorem test_wf_register : (Instr.vadd false 128 1 2 0).wf = false := by decide
theorem test_wf_mask : (Instr.vadd false 1 1 2 8).wf = false := by decide
theorem test_wf_unsigned : (Instr.vandi false 1 1 1024).wf = false := by decide
theorem test_wf_signed : (Instr.vaddi false 1 1 512).wf = false ∧ (Instr.vaddi false 1 1 (-513)).wf = false := by decide
theorem test_wf_long_immediate : (Instr.smovl false 1 4294967296).wf = false := by decide
theorem test_wf_pairs : (Instr.sadd false true 2 4 5).wf = false ∧ (Instr.vld false .d false 9 8 0 0).wf = false := by decide
theorem test_wf_even_address : (Instr.sld false .w 2 5 0).wf = false ∧ (Instr.awin false 0 3).wf = false := by decide
theorem test_wf_block : (Instr.cpy false false 1 124).wf = false ∧ (Instr.cpy false false 1 7).wf = false := by decide
theorem test_wf_special_pair : (Instr.srd false 1 0x20).wf = false := by decide
theorem test_wf_reduction_mode : (Instr.vred false .fadd .sr 1 2 0).wf = false ∧ (Instr.vred false .add .rz 1 2 0).wf = false := by decide
theorem test_wf_exact_conversion : (Instr.vcvt false .f32F16 .rz 1 2 0).wf = false := by decide
theorem test_wf_condition : (Instr.br false (.kz 0) 0).wf = false ∧ (Instr.ssel false .geu 1 2 3).wf = false := by decide
theorem test_wf_shift : (Instr.sshli false false 2 2 32).wf = false ∧ (Instr.sshli false true 2 2 63).wf = true := by decide
theorem test_wf_counts : (Instr.xacq false 0).wf = false ∧ (Instr.wait false 4 0).wf = false ∧ (Instr.bind false 1 2 126).wf = false := by decide
theorem test_wf_short : (Instr.shortVadd 16 0).wf = false ∧ (Instr.shortVshli 1 1 2).wf = false ∧ (Instr.shortWait 4 0).wf = false := by decide
theorem test_wf_event : (Instr.importEnd).wf = false := by decide

/-! ### Words written out from the encodings (R90, R98, R100, R103, R104) -/

theorem test_decode_lane_integer : decodeTableWord 32 0x40060C20 = some (.vadd true 3 3 4 0) := by decide +kernel
theorem test_decode_lane_float : decodeTableWord 32 0x62182458 = some (.vfmul true 12 9 11 0) := by decide +kernel
theorem test_decode_lane_group : decodeTableWord 32 0x2C0A19A0 = some (.vcvt false .bf16F32 .sr 5 6 0) := by decide +kernel
theorem test_decode_dot : decodeTableWord 32 0x2E142C67 = some (.vdot4 false true true true 10 11 12) := by decide +kernel
theorem test_decode_quant : decodeTableWord 32 0x2D2825C0 = some (.vquant false .ts8 20 9 3 0) := by decide +kernel
theorem test_decode_lane_memory : decodeTableWord 32 0x35122020 = some (.vld false .w false 9 8 0 0) := by decide +kernel
theorem test_decode_local : decodeTableWord 32 0x38122050 = some (.lld false .w 9 8 2 0) := by decide +kernel
theorem test_decode_branch : decodeTableWord 32 0x9417FFFE = some (.br false .ne (-2)) := by decide +kernel
theorem test_decode_uniform_memory : decodeTableWord 32 0x9D140B10 = some (.sld false .d 10 2 16) := by decide +kernel
theorem test_decode_barrier : decodeTableWord 32 0xA2000003 = some (.barph false 3 0) := by decide +kernel
theorem test_decode_wait : decodeTableWord 32 0xA4000002 = some (.wait false 2 0) := by decide +kernel
theorem test_decode_fence : decodeTableWord 32 0xA6000008 = some (.fenceAcq false .dev) ∧
    decodeTableWord 32 0xA7020201 = some (.pfence false .dev 1 2) := by decide +kernel
theorem test_decode_binding : decodeTableWord 32 0xA83050D2 = some (.bind false 24 20 26) ∧
    decodeTableWord 32 0xA83050D3 = some (.unbind false 24 20 26) ∧ decodeTableWord 32 0xA9000000 = some (.ifence false) := by decide +kernel
theorem test_decode_engine : decodeTableWord 32 0xAA304000 = some (.cpy false false 24 16) ∧
    decodeTableWord 32 0xAC3CA0C0 = some (.mxmm false 30 40) := by decide +kernel
theorem test_decode_launch : decodeTableWord 32 0xAD184000 = some (.launch false false 12 16) := by decide +kernel
theorem test_decode_transfer : decodeTableWord 32 0xB0183400 = some (.xfer false 12 13) := by decide +kernel
theorem test_decode_escrow : decodeTableWord 32 0xB1184000 = some (.epopen false 12 16) := by decide +kernel
theorem test_decode_system : decodeTableWord 32 0xB2000105 = some (.trap false 5) := by decide +kernel
theorem test_decode_special : decodeTableWord 32 0xB3120100 = some (.srd false 9 0x100) := by decide +kernel
theorem test_decode_capability : decodeTableWord 32 0xB6102406 = some (.capq false 8 9 6) := by decide +kernel
theorem test_decode_tag : decodeTableWord 32 0xB7281000 = some (.ltag false 20 4) := by decide +kernel
theorem test_decode_blocks : decodeTableWord 32 0xB8000001 = some (.xacq false 1) ∧ decodeTableWord 32 0xB9000000 = some (.xrel false) := by decide +kernel
theorem test_decode_short_lane : decodeTableWord 16 0x00D0 = some (.shortVadd 3 4) ∧ decodeTableWord 16 0x3A08 = some (.shortVshli 8 2 0) ∧
    decodeTableWord 16 0x2260 = some (.shortVld 9 8) := by decide +kernel
theorem test_decode_short_uniform : decodeTableWord 16 0x63F6 = some (.shortBr 15 13 2) ∧ decodeTableWord 16 0x6808 = some (.shortSpt 0 2) ∧
    decodeTableWord 16 0x5728 = some (.shortSld 12 10 0) ∧ decodeTableWord 16 0x4944 = some (.shortSaddi 5 1) := by decide +kernel
theorem test_decode_refuses : decodeTableWord 32 0x94D00000 = none ∧ decodeTableWord 32 0x9D160B10 = none ∧ decodeTableWord 32 0xB9000001 = none := by decide +kernel

/-! ### States to test on: one context, one block on core 0, one group of eight lanes in N-form code -/

/-- The group. -/
def g0 : Group := startGroup wordGrid 0 1 2 0 0 0 .never
/-- The group with a value in every lane of some registers. -/
def regs (l : List (Nat × Nat)) : Group := { g0 with x := l.foldl (fun x e => mset x e.1 (List.replicate 8 (BitVec.ofNat 32 e.2))) g0.x }
/-- A register of its own value in each lane. -/
def lanes (g : Group) (r : Nat) (l : List Nat) : Group := { g with x := mset g.x r (l.map (BitVec.ofNat 32)) }
/-- The panel on which a group acts. -/
def act (g : Group) : State := { wordState State.reset 32 0 with cur := some 3, groups := [(3, g)] }
/-- The same in a deterministic context. -/
def detAct (g : Group) : State := modCtx (act g) 0 fun c => { c with det := true }
/-- Its one kernel with some code. -/
def kernelWith (ws : List Nat) : Kernel :=
  { wordKernel 32 0 with
    vers := [(0, { nform := true, mint := false, profile := 0x0101, code := ws.flatMap (leBytes 4), va := none, maps := [] })] }
/-- The panel on which a group acts, with code. -/
def withCode (ws : List Nat) (g : Group) : State := modCtx (act g) 0 fun c => { c with images := [{ kernels := [kernelWith ws], exports := [], runs := [] }] }
/-- The state after an instruction. -/
def run (i : Instr) (s : State) : State := match exec i s with | .next t => t | .fault _ => s | .refused _ => s
/-- The group after an instruction. -/
def after (i : Instr) (s : State) : Group := (mget (run i s).groups 3).getD g0
/-- Lane 0 of a register after an instruction. -/
def reg (r : Nat) (i : Instr) (g : Group) : Word := laneNow (after i (act g)) r 0
/-- The cause that an instruction raised. -/
def cause (i : Instr) (s : State) : Nat := (after i s).scause.toNat % 256
/-- A pair that names an offset of the block's own allocation in cluster space, core number 0 (R123). -/
def own (off : Nat) : List (Nat × Nat) := [(4, 0xFFE00000 + off), (5, 0xFFFFFFFF)]
/-- The state with a 4-byte word stored in the allocation. -/
def put (s : State) (off v : Nat) : State := { s with mem := Memory.writeN s.mem (localLoc 2 off) (leBytes 4 v) }
/-- A 4-byte word of the allocation. -/
def word4 (s : State) (off : Nat) : Nat := leNat (Memory.readN s.mem (localLoc 2 off) 4)

/-! ### Lane words -/

theorem test_vadd_wraps : reg 3 (.vadd false 3 1 2 0) (regs [(1, 0xFFFFFFFF), (2, 2)]) = 1 := by decide +kernel
theorem test_vadd_discards_x0 : reg 0 (.vadd false 0 1 2 0) (regs [(1, 7), (2, 2)]) = 0 := by decide +kernel
theorem test_vsub_borrows : reg 3 (.vsub false 3 1 2 0) (regs [(1, 1), (2, 2)]) = 0xFFFFFFFF := by decide +kernel
theorem test_vmul_low : reg 3 (.vmul false 3 1 2 0) (regs [(1, 0x10001), (2, 0x10001)]) = 0x20001 := by decide +kernel
theorem test_vmulh_signed : reg 3 (.vmulh false 3 1 2 0) (regs [(1, 0xFFFFFFFF), (2, 0xFFFFFFFF)]) = 0 := by decide +kernel
theorem test_vmulhu_unsigned : reg 3 (.vmulhu false 3 1 2 0) (regs [(1, 0xFFFFFFFF), (2, 0xFFFFFFFF)]) = 0xFFFFFFFE := by decide +kernel
theorem test_vmad_adds_xd : reg 3 (.vmad false 3 1 2 0) (regs [(1, 3), (2, 4), (3, 5)]) = 17 := by decide +kernel
theorem test_vmin_signed : reg 3 (.vmin false 3 1 2 0) (regs [(1, 0xFFFFFFFF), (2, 1)]) = 0xFFFFFFFF := by decide +kernel
theorem test_vminu_unsigned : reg 3 (.vminu false 3 1 2 0) (regs [(1, 0xFFFFFFFF), (2, 1)]) = 1 := by decide +kernel
theorem test_vshl_amount_mod_32 : reg 3 (.vshl false 3 1 2 0) (regs [(1, 3), (2, 33)]) = 6 := by decide +kernel
theorem test_vsra_sign : reg 3 (.vsra false 3 1 2 0) (regs [(1, 0x80000000), (2, 31)]) = 0xFFFFFFFF := by decide +kernel
theorem test_vbfx_field : reg 3 (.vbfx false 3 1 2 0) (regs [(1, 0xABCD1234), (2, 0x808)]) = 0x12 := by decide +kernel
theorem test_vbfi_field : reg 3 (.vbfi false 3 1 2 0) (regs [(1, 0), (2, 0x808), (3, 0xFFFFFFFF)]) = 0xFFFF00FF := by decide +kernel
theorem test_vaddi_sign_extends : reg 3 (.vaddi false 3 1 (-1)) (regs [(1, 0)]) = 0xFFFFFFFF := by decide +kernel
theorem test_vlui : reg 3 (.vlui false 3 1) g0 = 0x8000 := by decide +kernel
theorem test_vabs_minimum : reg 3 (.vabs false 3 1 0) (regs [(1, 0x80000000)]) = 0x80000000 := by decide +kernel
theorem test_vclz_zero : reg 3 (.vclz false 3 1 0) (regs [(1, 0)]) = 32 := by decide +kernel
theorem test_vbrev : reg 3 (.vbrev false 3 1 0) (regs [(1, 1)]) = 0x80000000 := by decide +kernel
theorem test_vpopc : reg 3 (.vpopc false 3 1 0) (regs [(1, 0xF0F1)]) = 9 := by decide +kernel
theorem test_vlid_lane : laneNow (after (.vlid false 3 0) (act g0)) 3 7 = 7 := by decide +kernel
theorem test_vadd_masked : laneNow (after (.vadd false 3 1 1 1) (act { regs [(1, 4), (3, 9)] with k := [(1, 0x01)] })) 3 1 = 9 := by decide +kernel
theorem test_vsel_by_mask : laneNow (after (.vsel false 3 1 2 1) (act { regs [(1, 4), (2, 9)] with k := [(1, 0x02)] })) 3 1 = 4 ∧
    laneNow (after (.vsel false 3 1 2 1) (act { regs [(1, 4), (2, 9)] with k := [(1, 0x02)] })) 3 0 = 9 := by decide +kernel
theorem test_vcmp_lt : kNow (after (.vcmp false .lt 2 1 0 0) (act (lanes g0 1 [0xFFFFFFFF, 0, 1, 0x80000000, 0, 0, 0, 0]))) 2 = 0x09 := by decide +kernel
theorem test_vfcmp_unordered : kNow (after (.vfcmp false .lt 2 1 2 0) (act (regs [(1, 0x7FC00000), (2, 0x3F800000)]))) 2 = 0 := by decide +kernel
theorem test_vfadd_ties_to_even : reg 3 (.vfadd false 3 1 2 0) (regs [(1, 0x3F800000), (2, 0x33800000)]) = 0x3F800000 := by decide +kernel
theorem test_vfadd_rounds_up : reg 3 (.vfadd false 3 1 2 0) (regs [(1, 0x3F800000), (2, 0x33C00000)]) = 0x3F800001 := by decide +kernel
theorem test_vfma_one_rounding : reg 3 (.vfma false 3 1 2 0) (regs [(1, 0x3F800001), (2, 0x3F800001), (3, 0xBF800002)]) = 0x28800000 := by decide +kernel
theorem test_vfmin_signed_zero : reg 3 (.vfmin false 3 1 2 0) (regs [(1, 0), (2, 0x80000000)]) = 0x80000000 := by decide +kernel
theorem test_vfmax_one_nan : reg 3 (.vfmax false 3 1 2 0) (regs [(1, 0x7FC00000), (2, 0xBF800000)]) = 0xBF800000 := by decide +kernel
theorem test_vfrnd_half_to_even : reg 3 (.vfrnd false .rne 3 1 0) (regs [(1, 0x40200000)]) = 0x40000000 := by decide +kernel
theorem test_vrcp : reg 3 (.vrcp false .rne 3 1 0) (regs [(1, 0x40000000)]) = 0x3F000000 := by decide +kernel
theorem test_vsqrt : reg 3 (.vsqrt false .rne 3 1 0) (regs [(1, 0x40800000)]) = 0x40000000 := by decide +kernel
theorem test_vexp2 : reg 3 (.vexp2 false 3 1 0) (regs [(1, 0x40400000)]) = 0x41000000 := by decide +kernel
theorem test_vcvt_integer_toward_zero : reg 3 (.vcvt false .intF32 .rz 3 1 0) (regs [(1, 0xBFC00000)]) = 0xFFFFFFFF := by decide +kernel
theorem test_vpadd_halves : reg 3 (.vpadd false .f16x2 3 1 2) (regs [(1, 0x3C003C00), (2, 0x3C000000)]) = 0x40003C00 := by decide +kernel
theorem test_vdot4_signed : reg 3 (.vdot4 false true true false 3 1 2) (regs [(1, 0x010203FF), (2, 0x01010101), (3, 100)]) = 105 := by decide +kernel
theorem test_vdot4_saturates : reg 3 (.vdot4 false true true true 3 1 2) (regs [(1, 0x7F7F7F7F), (2, 0x7F7F7F7F), (3, 0x7FFFFFFF)]) = 0x7FFFFFFF := by decide +kernel
theorem test_vdot8 : reg 3 (.vdot8 false false false false 3 1 2) (regs [(1, 0x11111111), (2, 0xF1111111), (3, 0)]) = 22 := by decide +kernel
theorem test_vquant_e4m3 : reg 3 (.vquant false .e4m3 3 1 0 0) { regs [(1, 0x3F800000)] with qthr := 0x42800000 } = 0x38 := by decide +kernel
theorem test_vquant_lists_outlier :
    let s := run (.vquant false .e4m3 3 1 2 0) (act { lanes g0 1 [0x3F800000, 0x43000000, 0, 0, 0, 0, 0, 0] with qthr := 0x42800000 })
    kNow ((mget s.groups 3).getD g0) 2 = 2 ∧ ((mget s.groups 3).getD g0).qside = 2 ∧ word4 s 0 = 0x4300 := by decide +kernel
theorem test_vshfl_beyond_width : reg 3 (.vshfl false 3 1 2 0) (regs [(1, 5), (2, 8)]) = 0 := by decide +kernel
theorem test_vrot : laneNow (after (.vrot false 3 1 3) (act (lanes g0 1 [0, 1, 2, 3, 4, 5, 6, 7]))) 3 6 = 1 := by decide +kernel
theorem test_vred_add : reg 3 (.vred false .add .rne 3 1 0) (lanes g0 1 [0, 1, 2, 3, 4, 5, 6, 7]) = 28 := by decide +kernel
theorem test_vscan_add : laneNow (after (.vscan false .add .rne 3 1 0) (act (lanes g0 1 [0, 1, 2, 3, 4, 5, 6, 7]))) 3 3 = 6 := by decide +kernel

/-! ### Uniform words and masks -/

theorem test_sadd_pair_carries : reg 7 (.sadd false true 6 2 4) (regs [(2, 0xFFFFFFFF), (3, 0), (4, 1), (5, 0)]) = 1 := by decide +kernel
theorem test_sdiv_truncates : reg 6 (.sdiv false false 6 2 4) (regs [(2, 0xFFFFFFF9), (4, 2)]) = 0xFFFFFFFD := by decide +kernel
theorem test_sdiv_by_zero : reg 6 (.sdiv false false 6 2 4) (regs [(2, 5), (4, 0)]) = 0xFFFFFFFF := by decide +kernel
theorem test_sdiv_overflow : reg 6 (.sdiv false false 6 2 4) (regs [(2, 0x80000000), (4, 0xFFFFFFFF)]) = 0x80000000 := by decide +kernel
theorem test_srem_sign : reg 6 (.srem false false 6 2 4) (regs [(2, 0xFFFFFFF9), (4, 2)]) = 0xFFFFFFFF := by decide +kernel
theorem test_sremu_by_zero : reg 6 (.sremu false false 6 2 4) (regs [(2, 5), (4, 0)]) = 5 := by decide +kernel
theorem test_sshl_pair_amount_mod_64 : reg 6 (.sshl false true 6 2 4) (regs [(2, 1), (3, 0), (4, 65), (5, 9)]) = 2 := by decide +kernel
theorem test_sclz_zero_pair : reg 6 (.sclz false true 6 2) (regs [(2, 0), (3, 0)]) = 64 := by decide +kernel
theorem test_spopc : reg 6 (.spopc false false 6 2) (regs [(2, 0xFF)]) = 8 := by decide +kernel
theorem test_scmp_borrow : (after (.scmp false false 2 4) (act (regs [(2, 0), (4, 1)]))).flags = ⟨false, true, false, false⟩ := by decide +kernel
theorem test_scmp_overflow : (after (.scmp false false 2 4) (act (regs [(2, 0x80000000), (4, 1)]))).flags = ⟨false, false, true, true⟩ := by decide +kernel
theorem test_sfcmp_unordered : (after (.sfcmp false 2 4) (act (regs [(2, 0x7FC00000), (4, 0)]))).flags = ⟨false, false, true, true⟩ := by decide +kernel
theorem test_sfcmp_zeros_equal : (after (.sfcmp false 2 4) (act (regs [(2, 0x80000000), (4, 0)]))).flags = ⟨true, false, true, false⟩ := by decide +kernel
theorem test_ssel_not_equal : reg 6 (.ssel false .ne 6 2 4) (regs [(2, 1), (4, 2)]) = 1 := by decide +kernel
theorem test_slui : reg 6 (.slui false 6 0x1FFFF) g0 = 0xFFFF8000 := by decide +kernel
theorem test_smovl_two_words : (after (.smovl false 6 0xDEADBEEF) (act g0)).pc = 8 ∧ reg 6 (.smovl false 6 0xDEADBEEF) g0 = 0xDEADBEEF := by decide +kernel
theorem test_sget_beyond_width : reg 6 (.sget false 6 1 2) (regs [(1, 5), (2, 8)]) = 0 := by decide +kernel
theorem test_sset_one_lane : laneNow (after (.sset false 6 1 2) (act (regs [(1, 5), (2, 3), (6, 9)]))) 6 3 = 5 ∧
    laneNow (after (.sset false 6 1 2) (act (regs [(1, 5), (2, 3), (6, 9)]))) 6 2 = 9 := by decide +kernel
theorem test_scvt_integer : reg 6 (.scvt false .f32Int 6 1) (regs [(1, 0xFFFFFFFE)]) = 0xC0000000 := by decide +kernel
theorem test_knot_cut : kNow (after (.knot false 1 2) (act { g0 with k := [(2, 0x0F)] })) 1 = 0xF0 := by decide +kernel
theorem test_kfirst_none : reg 6 (.kfirst false 6 1) g0 = 0xFFFFFFFF := by decide +kernel
theorem test_kset_active : kNow (after (.kset false 1) (act { g0 with active := 0x3 })) 1 = 3 := by decide +kernel
theorem test_kget_low : reg 6 (.kget false 6 1) { g0 with k := [(1, 0x55)] } = 0x55 := by decide +kernel

/-! ### Control -/

theorem test_br_taken : (after (.br false .ne (-2)) (act { g0 with pc := 40 })).pc = 32 := by decide +kernel
theorem test_br_not_taken : (after (.br false .eq (-2)) (act { g0 with pc := 40 })).pc = 44 := by decide +kernel
theorem test_call_links : (after (.call false .al 3) (act { g0 with pc := 40 })).pc = 52 ∧ reg 31 (.call false .al 3) { g0 with pc := 40 } = 44 := by decide +kernel
theorem test_jmpr_misaligned : cause (.jmpr false 1) (act (regs [(1, 6)])) = 0x04 := by decide +kernel
theorem test_ret_level : (after (.ret false) (act { regs [(31, 16)] with level := 1 })).level = 0 := by decide +kernel
theorem test_dif_splits :
    let g := after (.dif false 1 2) (withCode [(encode (.dif false 1 2)).getD 0, 0, (encode (.dend false)).getD 0] { g0 with k := [(1, 0x0F)] })
    g.active = 0x0F ∧ g.table = [.split 0 0xFF 0, .pending 0xF0 8 0] ∧ g.pc = 4 := by decide +kernel
theorem test_dif_without_join : cause (.dif false 1 2) (withCode [0, 0, 0] g0) = 0x09 := by decide +kernel
theorem test_dend_rejoins : (after (.dend false) (act { g0 with active := 0xF0, table := [.split 0 0xFF 0x0F] })).active = 0xFF := by decide +kernel
theorem test_dend_switches : (after (.dend false) (act { g0 with active := 0x0F, pc := 20, table := [.split 0 0xFF 0, .pending 0xF0 8 5] })).pc = 8 := by decide +kernel
theorem test_dbrk_leaves : (after (.dbrk false 1 2) (withCode [0, 0, (encode (.dloop false 2 (-2))).getD 0] { g0 with k := [(1, 0x01)] })).active = 0xFE := by decide +kernel
theorem test_halt_exits : (after (.halt false) (act g0)).exited = true := by decide +kernel
theorem test_spt_number : (after (.spt false 7) (act g0)).spn = 7 := by decide +kernel

/-! ### Memory -/

theorem test_sst_low_byte_first : Memory.read (run (.sst false .w 6 4 0) (act (regs (own 16 ++ [(6, 0x11223344)])))).mem (localLoc 2 16) = 0x44 := by decide +kernel
theorem test_sld_displacement : laneNow (after (.sld false .w 6 4 4) (put (act (regs (own 16))) 20 77)) 6 5 = 77 := by decide +kernel
theorem test_sld_misaligned : cause (.sld false .w 6 4 2) (act (regs (own 16))) = 0x04 := by decide +kernel
theorem test_sld_beyond_allocation : cause (.sld false .w 6 4 0) (act (regs (own 128))) = 0x08 := by decide +kernel
theorem test_satom_add_returns_old :
    let s := run (.satomAdd false false 6 4 7) (put (act (regs (own 16 ++ [(7, 5)]))) 16 10)
    word4 s 16 = 15 ∧ laneNow ((mget s.groups 3).getD g0) 6 0 = 10 := by decide +kernel
theorem test_satom_cas_fails : word4 (run (.satomCas false false 6 4 7) (put (act (regs (own 16 ++ [(6, 9), (7, 5)]))) 16 10)) 16 = 10 := by decide +kernel
theorem test_lst_highest_lane_wins : word4 (run (.lst false .w 6 1 0 0) (act (lanes (regs [(1, 8)]) 6 [1, 2, 3, 4, 5, 6, 7, 8]))) 8 = 8 := by decide +kernel
theorem test_lld_scaled_displacement : reg 6 (.lld false .w 6 1 2 0) (regs [(1, 0)]) = 0 ∧
    laneNow (after (.lld false .w 6 1 2 0) (put (act (regs [(1, 4)])) 12 33)) 6 0 = 33 := by decide +kernel
theorem test_lld_beyond_allocation : cause (.lld false .w 6 1 0 0) (act (regs [(1, 128)])) = 0x08 := by decide +kernel
theorem test_latom_lane_order :
    let s := run (.latom false .add 6 1 0) (act (regs [(1, 8), (6, 1)]))
    word4 s 8 = 8 ∧ laneNow ((mget s.groups 3).getD g0) 6 5 = 5 := by decide +kernel
theorem test_vld_without_window : cause (.vld false .w false 6 1 0 0) (act g0) = 0x06 := by decide +kernel
theorem test_awin_beyond_space : cause (.awin false 0 4) (act (regs [(4, 0), (5, 0x00100000)])) = 0x06 := by decide +kernel
/-- R211: the example of an interleaved page. -/
theorem test_interleaved_page : Page.addr ⟨0, 65536, true, 2, 0x280100, true, false⟩ 0xA40 = 0x3001000240 := by decide +kernel
theorem test_ltag_without_table : cause (.ltag false 6 4) (act (regs (own 0))) = 0x08 := by decide +kernel

/-! ### Synchronisation -/

theorem test_bar_of_one_group : (after (.bar false 3) (act g0)).park = none ∧ (after (.bar false 3) (act g0)).pc = 4 := by decide +kernel
theorem test_bwinit_and_barv :
    let s := run (.bwinit false 4 6) (act (regs (own 16 ++ [(6, 2)])))
    word4 s 16 = 0x02000002 ∧ word4 s 20 = 0 := by decide +kernel
theorem test_barv_last_arrival_opens :
    let s := run (.barv false 6 4) (put (put (act (regs (own 16))) 16 0x01000002) 20 0)
    word4 s 16 = 0x02000002 ∧ word4 s 20 = 0x10000 := by decide +kernel
theorem test_barv_not_initialised : cause (.barv false 6 4) (act (regs (own 16))) = 0x09 := by decide +kernel
theorem test_bwt_parks : (after (.bwt false 4 6) (act (regs (own 16 ++ [(6, 0)])))).park = some (.bwt (localLoc 2 16) 0 false) := by decide +kernel
theorem test_wadr_goes_on : reg 7 (.wadr false 7 4 6) (regs (own 16 ++ [(6, 1)])) = 0 := by decide +kernel
theorem test_wake_nobody : reg 7 (.wake false 7 4 6) (regs (own 16 ++ [(6, 0), (7, 9)])) = 0 := by decide +kernel
theorem test_wait_goes_on : (after (.wait false 2 0) (act g0)).pc = 4 := by decide +kernel
theorem test_wtok_unknown : cause (.wtok false 1) (act (regs [(1, 5)])) = 0x0C := by decide +kernel
theorem test_fence_goes_on : (after (.fenceSc false .sys) (act g0)).pc = 4 := by decide +kernel
theorem test_acq_misaligned : cause (.acq false 4) (act (regs (own 4))) = 0x04 := by decide +kernel
theorem test_bind_enters_table :
    (ctxOf (run (.bind false 7 4 8) (act (regs [(4, 0x1000), (5, 0), (8, 0x2000), (9, 0), (10, 64)]))) 0).binds = [(0x1000, 0x2000, 64)] := by decide +kernel
theorem test_xacq_grants : (after (.xacq false 3) (act g0)).ext = 3 := by decide +kernel
theorem test_unheld_register : cause (.vadd false 32 1 2 0) (act g0) = 0x03 := by decide +kernel

/-! ### Traps and special registers -/

theorem test_trap_saves : (after (.trap false 5) (act { g0 with pc := 40 })).scause = 0x50F ∧ (after (.trap false 5) (act { g0 with pc := 40 })).sepc = 44 := by decide +kernel
theorem test_brk_disabled : (after (.brk false) (act { g0 with mode := 8 })).pc = 4 := by decide +kernel
theorem test_sret_in_user_mode : cause (.sret false) (act g0) = 0x02 := by decide +kernel
theorem test_sret_kind_0_returns :
    let g := after (.sret false) (act { g0 with sup := true, sepc := 44, hstack := some ⟨[(1, 5)], 0x0F, g0.flags, 0, 0, none, []⟩ })
    g.pc = 44 ∧ g.sup = false ∧ g.active = 0x0F ∧ g.hstack = none := by decide +kernel
theorem test_srd_width : reg 6 (.srd false 6 0x001) g0 = 8 := by decide +kernel
theorem test_srd_privileged : cause (.srd false 6 0x100) (act g0) = 0x02 := by decide +kernel
theorem test_swr_agelim_bounds : (after (.swr false 1 0x060) (act (regs [(1, 10)]))).agelim = 64 := by decide +kernel
theorem test_topo_own_site : reg 6 (.topo false 6 1 8) (regs [(1, 0)]) = 0 := by decide +kernel
theorem test_capq_behaviour : reg 6 (.capq false 6 1 0) (regs [(1, 0x083)]) = 0x00010008 := by decide +kernel

/-! ### Engines, launches, escrow, the coin -/

theorem test_cpy_first_token : reg 6 (.cpy false false 6 8) (regs [(8, 0xFFE00000), (9, 0xFFFFFFFF), (10, 0xFFE00040), (11, 0xFFFFFFFF), (12, 16)]) = 1 := by decide +kernel
theorem test_fill_completes :
    let s := run (.fill false false 6 8) (act (regs [(8, 0xFFE00000), (9, 0xFFFFFFFF), (10, 0xAB), (11, 4)]))
    s.cmds.length = 1 := by decide +kernel
theorem test_mxres_token : reg 6 (.mxres false 6 8) (regs [(8, 0x01018000), (9, 0)]) = 0x80000001 := by decide +kernel
theorem test_mxrel_without_record : cause (.mxrel false 6 8) (act (regs [(8, 0)])) = 0x0B := by decide +kernel
theorem test_launch_not_leader : cause (.launch false false 6 8) (act { g0 with gidx := 1 }) = 0x0D := by decide +kernel
theorem test_gtrig_unloaded : cause (.gtrig false 6 8) (act g0) = 0x0D := by decide +kernel
theorem test_fdone_outside_firing : cause (.fdone false 6) (act g0) = 0x0D := by decide +kernel
theorem test_epopen_without_escrow : cause (.epopen false 6 8) (act g0) = 0x0E := by decide +kernel
theorem test_coinw_outside_det : (after (.coinw false) (act g0)).pc = 4 := by decide +kernel
theorem test_coinw_takes_coin : ((mget (run (.coinw false) (detAct g0)).grids 1).map (·.coinHeld)) = some true := by decide +kernel
theorem test_rnd_parks : (after (.rnd false) (detAct g0)).park = some (.rnd false) := by decide +kernel
theorem test_bwinit_unmapped : cause (.bwinit false 4 6) (detAct (regs [(4, 0x1000), (5, 0), (6, 1)])) = 0x05 := by decide +kernel
/-- R347: the example of the escrow chapter. -/
theorem test_home_of_a_key : homeOf State.reset 0x11 = 175 ∧ memDie 175 = 351 ∧ homeOf State.reset 0x22 = 94 ∧ memDie 94 = 188 := by decide +kernel
/-- R358: the example with γ = λ = 0.5 and four steps. -/
def episode : Episode :=
  { ctx := 0, key := 0x11, cap := 4, ver := 2, cfg := { EscrowCfg.init with gamma := 0x3F000000, lambda := 0x3F000000, gl := 0x3E800000 }
    steps := [(0, (0x3F800000, 0, 0)), (1, (0x3F800000, 0, 0)), (2, (0x3F800000, 0, 0)), (3, (0x3F800000, 0, 0))]
    closed := some (4, 0), rewards := [(0, 0), (1, 0), (2, 0), (3, 0x3F800000)], conflict := false, filled := false, age := 0, done := some 1, results := none }
theorem test_discount : episode.compute =
    [(0xBF280000, 0x3EB00000), (0xBF200000, 0x3EC00000), (0xBF000000, 0x3F000000), (0, 0x3F800000)] := by decide +kernel
/-- R379: the example of three stages. -/
theorem test_repetition_vector : repetition 3 [⟨0, 1, 2, 3, 0, 64, 0, 0⟩, ⟨1, 2, 1, 2, 0, 64, 0, 0⟩] = some [3, 2, 1] := by decide +kernel

/-! ### Events -/

/-- Every core die but the one north of host link 0. -/
def farDies : List Nat := (List.range 384).filter fun d => isCoreDie d && d != 144
theorem test_power_on_ready : (run (.powerOn farDies []) State.reset).ready = true := by decide +kernel
theorem test_power_on_cut : (run (.powerOn farDies [168 * 4]) State.reset).stage = 3 := by decide +kernel
theorem test_bar2_before_ready : (run (.bar2Read 0 2) State.reset).hostData = [0xFF, 0xFF] := by decide +kernel
theorem test_bar2_writes : Memory.read (run (.bar2Write 0x1000 [0x5A]) (act g0)).mem 0x1000 = 0x5A := by decide +kernel
theorem test_gload_busy : (run (.gload 0) (act g0)).gload = 0x40000000 := by decide +kernel
theorem test_ctx_kill_state : (ctxOf (run (.ctxKill 0) (act g0)) 0).cst = 3 := by decide +kernel
theorem test_die_offline_host_link : (run (.dieOffline 168) (act g0)).offCtl = 0x400000A8 := by decide +kernel
theorem test_link_up : linkStatus (run (.linkStateChange (.host 0) 1 16 64 0 0) (act g0)) (.host 0) = 0x40104000 := by decide +kernel
theorem test_freeze : (run .freezeLine (act g0)).frozen = true := by decide +kernel
theorem test_step_runs_fetched_word : (match step (State.reset.withFetchWord 32 0x40060C20) with | .next t => (mget t.groups 3).map (·.pc) | _ => none) = some 4 := by
  decide +kernel


/-! ### States and operands that meet the hypotheses of the statements -/

/-- A result is a value, or an error: in a form that the kernel decides. -/
def isOk {ε α : Type} [DecidableEq α] (x : Except ε α) (v : α) : Bool := match x with | .ok w => decide (w = v) | .error _ => false
def isErr {ε α : Type} [DecidableEq ε] (x : Except ε α) (e : ε) : Bool := match x with | .ok _ => false | .error d => decide (d = e)
theorem isOk_iff {ε α : Type} [DecidableEq α] (x : Except ε α) (v : α) : isOk x v = true ↔ x = .ok v := by cases x <;> simp [isOk]
theorem isErr_iff {ε α : Type} [DecidableEq ε] (x : Except ε α) (e : ε) : isErr x e = true ↔ x = .error e := by cases x <;> simp [isErr]
/-- Memory with page tables that map virtual 0 to 0xFFFF, readable, writable and executable, at physical 0x40000. -/
def paged (s : State) : State :=
  let m1 := Memory.writeN s.mem 0 (leBytes 8 (2 ^ 63 + 2 * 2 ^ 16))
  let m2 := Memory.writeN m1 0x20000 (leBytes 8 (2 ^ 63 + 3 * 2 ^ 16))
  { s with mem := Memory.writeN m2 0x30000 (leBytes 8 (2 ^ 63 + 2 ^ 60 + 2 ^ 59 + 4 * 2 ^ 16)) }
/-- A pair that names a virtual address of that page. -/
def glob (a : Nat) : List (Nat × Nat) := [(4, a), (5, 0)]
/-- The deterministic context, its group holding the coin. -/
def coinAct (g : Group) : State :=
  let s := detAct g
  { s with grids := [(1, { wordGrid with coinHeld := true })] }
theorem acts (g : Group) : Acts (act g) 3 g := ⟨rfl, rfl⟩
theorem detActs (g : Group) : Acts (detAct g) 3 g := ⟨rfl, rfl⟩
theorem coinActs (g : Group) : Acts (coinAct g) 3 g := ⟨rfl, rfl⟩

/-- Registers x31 and below are held, x32 is not: the hypotheses of every lane, uniform and mask word. -/
theorem wit_word : ∃ s u g, Acts s u g ∧ Held g [31, 1, 2] ∧ Held g [] ∧ ¬ Held g [32, 1, 2] ∧ g.gwid ≤ 64 :=
  ⟨act g0, 3, g0, acts g0, rfl, rfl, by unfold Held; decide +kernel, by decide +kernel⟩
theorem wit_LaneIntegerWordsWriteTheirValue : ∃ s u g, Acts s u g ∧ Held g [31, 1, 2] ∧ ¬ Held g [32, 1, 2] ∧ 31 < 32 :=
  ⟨act g0, 3, g0, acts g0, rfl, by unfold Held; decide +kernel, by decide⟩
theorem wit_LaneComparesWriteTheMask : ∃ s u g, Acts s u g ∧ Held g [1, 2] ∧ ¬ Held g [32, 2] ∧ Cc.ofCode 3 = some .ge ∧
    fp32.decode 0x7F800001 = .nan ∧ fp32.decode 0x7F800000 ≠ .nan :=
  ⟨act g0, 3, g0, acts g0, rfl, by unfold Held; decide +kernel, rfl, by decide +kernel, by decide +kernel⟩
theorem wit_LaneFloatWordsWriteTheirValue : ∃ s u g, Acts s u g ∧ Held g [3, 1] ∧ ¬ Held g [3, 32] :=
  ⟨act g0, 3, g0, acts g0, rfl, by unfold Held; decide +kernel⟩
/-- A group with 1.0 in lane 0 and an outlier, 128.0, in lane 1. -/
def out1 (side : Nat) : Group := { lanes g0 1 [0x3F800000, 0x43000000, 0, 0, 0, 0, 0, 0] with qthr := 0x42800000, qside := BitVec.ofNat 32 side }
theorem wit_PackedDotAndQuantWordsWriteTheirValue :
    let outs : Group → List Nat := fun g => (xlanes (act g) g 0).filter fun L => isOutlier (lane (act g) g 1 L) g.qthr
    outs g0 = [] ∧ outs (out1 1) = [1] ∧ (out1 1).qside.toNat % 2 = 1 ∧
    (outs (out1 128) = [1] ∧ (out1 128).qside.toNat % 2 = 0 ∧ allocSize (act (out1 128)) (out1 128).block < 128 + 2 * 1) ∧
    (outs (out1 126) = [1] ∧ 126 + 2 * 1 ≤ allocSize (act (out1 126)) (out1 126).block ∧ absentLines (act (out1 126)) (out1 126).block 126 2 = [] ∧
      Memory.wf (act (out1 126)).mem = true) := by decide +kernel
theorem wit_LaneMovesReadEverySourceFirst : ∃ s u g, Acts s u g ∧ Held g [3, 1, 2] ∧ ¬ Held g [3, 1, 32] :=
  ⟨act g0, 3, g0, acts g0, rfl, by unfold Held; decide +kernel⟩
theorem wit_ReductionsAndScansCombineInOrder : ∃ s u g, Acts s u g ∧ Held g [3, 1] ∧ ¬ Held g [3, 32] :=
  ⟨act g0, 3, g0, acts g0, rfl, by unfold Held; decide +kernel⟩
theorem wit_UniformIntegerWordsWriteTheirValue : ∃ s u g, Acts s u g ∧ Held g [30, 31, 2, 3, 4, 5] ∧ ¬ Held g [32, 33, 2, 3, 4, 5] :=
  ⟨act g0, 3, g0, acts g0, rfl, by unfold Held; decide +kernel⟩
theorem wit_UniformFloatAndLaneWordsWriteTheirValue : ∃ s u g, Acts s u g ∧ Held g [3, 1, 2] ∧ ¬ Held g [32, 1, 2] :=
  ⟨act g0, 3, g0, acts g0, rfl, by unfold Held; decide +kernel⟩
theorem wit_UniformComparesAndConditions : ∃ s u g, Acts s u g ∧ Held g [1, 2] ∧ ¬ Held g [32, 2] ∧ g.gwid ≤ 64 :=
  ⟨act g0, 3, g0, acts g0, rfl, by unfold Held; decide +kernel, by decide +kernel⟩
theorem wit_MaskWordsWriteTheirValue : ∃ s u g, Acts s u g ∧ Held g [] ∧ Held g [30, 31] ∧ ¬ Held g [32, 33] :=
  ⟨act g0, 3, g0, acts g0, rfl, rfl, by unfold Held; decide +kernel⟩
theorem wit_HardwiredRegistersReadAsConstants : g0.gwid ≤ 64 := by decide +kernel
/-- A group with an outstanding write of x1, parked on a marker. -/
def open1 : Group := { writeX (act g0) g0 1 (full g0) (fun _ => 7) with park := some .marker }
theorem wit_ReadsFollowTheMarkerContract : openWrites g0 1 = [] ∧ openWrites open1 1 ≠ [] ∧ openMasks g0 1 = [] ∧ g0.histF = [] ∧
    loose (detAct g0) g0 = false ∧ mget (act open1).groups 3 = some open1 ∧ open1.park = some .marker ∧ open1.exited = false := by decide +kernel

/-! ### Control -/

theorem wit_BranchesCallsAndYieldsMoveControl :
    condHolds (act g0) g0 .eq = false ∧ condHolds (act g0) g0 .al = true ∧ Cond.ofCode 3 = some .lt ∧
    nativeCode (act g0) g0 = true ∧ (uni (act (regs [(1, 8)])) (regs [(1, 8)]) 1).toNat = 8 ∧ (uni (act (regs [(1, 6)])) (regs [(1, 6)]) 1).toNat % 4 = 2 ∧
    (uni (act (regs [(31, 8)])) (regs [(31, 8)]) 31).toNat = 8 ∧ (uni (act (regs [(31, 9)])) (regs [(31, 9)]) 31).toNat % 4 = 1 ∧
    oldest g0.table = none ∧ oldest [.pending 0xF0 8 4095] = some (0, 0xF0, 8, 4095) ∧ 4095 < g0.agelim.toNat ∧
    oldest [.pending 0xF0 8 4096] = some (0, 0xF0, 8, 4096) ∧ g0.agelim.toNat ≤ 4096 := by decide +kernel
/-- A table of n entries. -/
def full31 (n : Nat) : List PathEntry := List.replicate n (.split 99 0xFF 0)
/-- Code in which a `dif` at 0 has a `dend` at 8, a `delse` at 12 and a `dloop` at 16. -/
def joinCode (g : Group) : State :=
  withCode [0, 0, (encode (.dend false)).getD 0, (encode (.delse false (-1))).getD 0, (encode (.dloop false 2 (-2))).getD 0] g
theorem wit_DivergenceWordsOpenAndCloseConstructs :
    construct g0 = none ∧ construct { g0 with table := [.split 0 0xFF 0] } = some 0 ∧ construct { g0 with table := [.loop 0 0 0xFF 0] } = some 0 ∧
    instrAt (joinCode g0) 3 g0 8 = some (.dend false, 4) ∧ instrAt (joinCode g0) 3 g0 12 = some (.delse false (-1), 4) ∧
    instrAt (joinCode g0) 3 g0 16 = some (.dloop false 2 (-2), 4) ∧
    instrAt (joinCode g0) 3 g0 0 = some (.vadd false 0 0 0 0, 4) ∧
    (g0.active &&& kRead (joinCode g0) g0 0 ≠ 0) ∧ (g0.active &&& ~~~ kRead (joinCode g0) g0 0 = 0) ∧ (g0.active &&& kRead (joinCode g0) g0 1 = 0) ∧
    (full31 30).length ≤ 30 ∧ (full31 31).length ≤ 31 ∧ 31 < (full31 32).length ∧
    (loopEntry g0 16).2.length ≤ 32 ∧ 32 < (loopEntry { g0 with table := full31 32 } 16).2.length ∧
    ((0x0F : Mask) ||| 0xF0 = 0xFF) ∧ ((0x0F : Mask) ||| 0x0F ≠ 0xFF) := by decide +kernel

/-! ### Memory -/

theorem wit_UniformMemoryWordsReadAndWriteMemory :
    Held (regs (own 124)) (dataRegs 6 4 ++ [4, 5]) ∧ ¬ Held (regs (own 124)) (dataRegs 32 4 ++ [4, 5]) ∧
    isOk (uPlace (act (regs (own 124))) (regs (own 124)) (uniPair (act (regs (own 124))) (regs (own 124)) 4) 4 0) (localLoc 2 124) = true ∧
    isErr (uPlace (act (regs (own 128))) (regs (own 128)) (uniPair (act (regs (own 128))) (regs (own 128)) 4) 4 0) (.cause 0x08) = true ∧
    uniPair (act (regs (own 126))) (regs (own 126)) 4 % 4 ≠ 0 ∧
    detOf (act g0) g0 = false ∧ hidden (act g0) (agent 3 0) .never (localLoc 2 16) 4 = [] ∧
    (isOk (uPlace (paged (act (regs (glob 0x1000)))) (regs (glob 0x1000)) 0x1000 4 1) 0x41000 = true ∧ isPhys (localLoc 2 16) = false ∧ isPhys 0x41000 = true) ∧
    detOf (paged (detAct (regs (glob 0x1000)))) g0 = true ∧
    isOk (uPlace (paged (detAct (regs (glob 0x1000)))) (regs (glob 0x1000)) 0x1000 4 1) 0x41000 = true ∧
    (match bufAdd (paged (detAct g0)) 2 [⟨0x41000, 5, 0⟩] with | .ok _ => true | .error _ => false) = true ∧
    Memory.wf (paged (act g0)).mem = true ∧ holdsCoin (coinAct g0) g0 = true ∧ holdsCoin (detAct g0) g0 = false := by
  unfold Held; decide +kernel
/-- A group with window a0 on virtual address 0 and offset a register, one lane active. -/
def windowed (s : State) (g : Group) (off : Nat) : Group :=
  { g with win := [(0, openWindow s 0 0)], active := 1, x := mset g.x 1 (List.replicate 8 (BitVec.ofNat 32 off)) }
/-- What the lanes of that group meet: how many go through and how many fault, or a cause. -/
def meets (s : State) (off n kind : Nat) : Except Nat (Nat × Nat) :=
  let g := windowed s g0 off
  match winLanes s g 0 1 0 n kind with
  | .ok r => .ok (r.1.length, r.2.1.length)
  | .error c => .error c
theorem wit_LaneLoadsAndStoresThroughAWindow :
    Held g0 (dataRegs 6 4 ++ [1]) ∧ ¬ Held g0 (dataRegs 32 4 ++ [1]) ∧ ¬ Held g0 (dataRegs 31 8 ++ [1]) ∧
    isOk (meets (paged (act g0)) 0x1000 4 0) (1, 0) = true ∧ isErr (meets (paged (act g0)) 0x1002 4 0) 0x04 = true ∧ isOk (meets (paged (act g0)) 0x10000 4 0) (0, 1) = true ∧
    isOk (meets (paged (act g0)) 0xFFFC 4 1) (1, 0) = true ∧ isOk (meets (paged (detAct g0)) 0x1000 4 1) (1, 0) = true ∧
    detOf (act g0) g0 = false ∧ detOf (detAct g0) g0 = true ∧ holdsCoin (coinAct g0) g0 = true ∧ holdsCoin (detAct g0) g0 = false ∧
    (match bufAdd (paged (detAct g0)) 2 [⟨0x41000, 5, 0⟩] with | .ok _ => true | .error _ => false) = true := by
  unfold Held; decide +kernel
/-- What the lanes of a group meet in the own allocation. -/
def localMeets (off n : Nat) : Nat :=
  match localLanes (act g0) g0 [0, 1] (fun _ => off) n with | .ok as => as.length | .error (.cause c) => 100 + c | .error _ => 200
theorem wit_LaneAtomicsHappenInLaneOrder :
    Held g0 ([6, 1] ++ [7]) ∧ ¬ Held g0 ([32, 1]) ∧ isOk (meets (paged (act g0)) 0x1000 4 1) (1, 0) = true ∧ isErr (meets (paged (act g0)) 0x1001 4 1) 0x04 = true ∧
    localMeets 124 4 = 2 ∧ localMeets 128 4 = 108 ∧ localMeets 2 4 = 104 ∧ holdsCoin (coinAct g0) g0 = true ∧ holdsCoin (detAct g0) g0 = false := by
  unfold Held; decide +kernel
/-- The state in which the lines of an `ltag`-free block's first 128 bytes are on the way. -/
def pending (g : Group) : State := { act g with blocks := [(2, { wordBlock with pend := [(0, 1)] })] }
theorem wit_LocalLaneAccessesReachTheAllocation :
    Held g0 (dataRegs 6 4 ++ [1]) ∧ ¬ Held g0 (dataRegs 32 8 ++ [1]) ∧ xlanes (act g0) g0 0 ≠ [] ∧
    (124 % 4 = 0 ∧ 124 + 4 ≤ allocSize (act g0) 2 ∧ absentLines (act g0) 2 124 4 = []) ∧ 126 % 4 ≠ 0 ∧ allocSize (act g0) 2 < 128 + 4 ∧
    absentLines (pending g0) 2 0 4 ≠ [] ∧ sizeBytes .w = 4 := by unfold Held; decide +kernel

/-! ### Synchronisation -/

/-- A panel with one more group, 4, of the same block. -/
def two (g q : Group) : State :=
  { act g with groups := [(3, g), (4, q)], blocks := [(2, { wordBlock with groups := [3, 4] })], grids := [(1, { wordGrid with ngrp := 2 })] }
/-- The other group. -/
def g1 : Group := { g0 with gidx := 1, slot := 1 }
theorem wit_BarrierAndWatchedWordsParkAndWake :
    (let g := regs (own 16 ++ [(6, 0xFFFFFF)])
     Held g [6, 4, 5] ∧ isOk (uPlace (act g) g (uniPair (act g) g 4 % 2 ^ 64) 8 1) (localLoc 2 16) = true ∧ isOk (uPlace (act g) g (uniPair (act g) g 4 % 2 ^ 64) 8 0) (localLoc 2 16) = true ∧
     detOf (act g) g = false ∧ 1 ≤ (uni (act g) g 6).toNat ∧ (uni (act g) g 6).toNat ≤ 0xFFFFFF) ∧
    (0x1000000 : Nat) > 0xFFFFFF ∧
    leNat (Memory.readN (act g0).mem (localLoc 2 16) 8) % 2 ^ 24 = 0 ∧
    (leNat (Memory.readN (put (act g0) 16 0x01000002).mem (localLoc 2 16) 8) % 2 ^ 24 = 2 ∧
      leNat (Memory.readN (put (act g0) 16 0x01000002).mem (localLoc 2 16) 8) / 2 ^ 24 % 2 ^ 24 = 1 ∧ Memory.wf (put (act g0) 16 0x01000002).mem = true) ∧
    (let g := regs (glob 0x1000)
     isOk (uPlace (paged (detAct g)) g 0x1000 8 1) 0x41000 = true ∧ isPhys 0x41000 = true ∧ detOf (detAct g) g = true ∧ holdsCoin (detAct g) g = false) ∧
    (let q := { g1 with park := some (.bwt (localLoc 2 16) 1 false) }
     mget (two g0 q).groups 4 = some q ∧ leNat (Memory.readN (two g0 q).mem (localLoc 2 16) 8) / 2 ^ 48 % 2 ^ 16 ≠ 1) ∧
    (let g := regs (own 16)
     Held g [7, 4, 5, 6] ∧ ¬ Held g [32, 4, 5, 6] ∧ isOk (uPlace (act g) g (uniPair (act g) g 4 % 2 ^ 64) 4 0) (localLoc 2 16) = true ∧
     BitVec.ofNat 32 (leNat (loadUnit (act g) 3 g true (localLoc 2 16) 4)) = uni (act g) g 6 ∧
     BitVec.ofNat 32 (leNat (loadUnit (put (act g) 16 9) 3 g true (localLoc 2 16) 4)) ≠ uni (act g) g 6 ∧ watchFull (act g) g (localLoc 2 16) = false ∧
     isOk (wakePlace (act g) g (uniPair (act g) g 4 % 2 ^ 64)) (localLoc 2 16) = true) ∧
    (let q := { g1 with park := some (.wadr (localLoc 2 16) 7 false (some 0)) }
     mget (two g0 q).groups 4 = some q) := by
  unfold Held; decide +kernel
/-- A block with a tag table of one set of two ways. -/
def tagged (g : Group) : State := { act g with grids := [(1, { wordGrid with sets := 1, ways := 2, gran := 7 })] }
theorem wit_TagWordsLookUpAndChangeTheTable :
    (tagsOf (tagged g0) g0).isSome = true ∧ tagsOf (act g0) g0 = none ∧ Held g0 [6, 7, 4, 5, 1] ∧
    (match tagsOf (tagged g0) g0 with
     | some t => (t.absent (tagged g0) g0 (t.slots (t.set 0)) == []) && (t.hit (tagged g0) 3 g0 0).isNone && slotOk t 0 0 && !slotOk t 0 2
         && t.absent (tagged g0) g0 (List.range (t.sets * t.ways)) == []
     | none => false) = true := by unfold Held; decide +kernel
theorem wit_WindowsOpenAndPrefetchesNeverFault :
    Held g0 [4, 5, 1] ∧ ¬ Held g0 [32, 33] ∧ uniPair (act (regs [(4, 0xFFFFFFFF), (5, 0xFFFFF)])) (regs [(4, 0xFFFFFFFF), (5, 0xFFFFF)]) 4 < 2 ^ 52 ∧
    2 ^ 52 ≤ uniPair (act (regs [(4, 0), (5, 0x100000)])) (regs [(4, 0), (5, 0x100000)]) 4 := by unfold Held; decide +kernel
theorem wit_BlockBarrierOpensWithTheLastArrival :
    Acts (act g0) 3 g0 ∧ mget (act g0).blocks g0.block = some wordBlock ∧ wordBlock.groups.Nodup ∧ 3 ∈ liveGroups (act g0) wordBlock ∧
    liveGroups (two g0 g1) { wordBlock with groups := [3, 4] } = [3, 4] ∧ bit (mgetD wordBlock.bars 0 Bar.init).mask g1.gidx = false := by
  unfold Acts; decide +kernel
/-- A kernel with one carry set. -/
def carryCode (g : Group) : State :=
  modCtx (act g) 0 fun c => { c with images := [{ kernels := [{ kernelWith [0, 0] with carry := [0x10], pins := [0] }], exports := [], runs := [] }] }
/-- A block whose one group has arrived at a `barph`. -/
def arrivedBlock : Block := { wordBlock with phase := some (0, 0, [3]) }
theorem wit_PhaseBarrierRecordsAndQueues :
    Acts (carryCode g0) 3 g0 ∧ mget (carryCode g0).blocks g0.block = some wordBlock ∧ g0.table = [] ∧
    (groupKernel (carryCode g0) g0).map (·.carry.length) = some 1 ∧ (mgetD wordBlock.bars 0 Bar.init).count = 0 ∧ wordBlock.phase = none ∧
    (let q := { g0 with park := some (.barph 0 0 false) }
     phaseDone { carryCode q with blocks := [(2, arrivedBlock)] } 2 arrivedBlock = true) := by
  unfold Acts; decide +kernel
/-- A copy command of group 3 with a token. -/
def cmd (tok : Word) : Cmd :=
  { kind := .cpy, grp := 3, block := 2, grid := 1, ctx := 0, core := 0, slot := 0, cls := 0, token := tok, arv := none, chosen := [], prog := 0
    prm := [0xFFE00000, 0xFFFFFFFF, 0xFFE00040, 0xFFFFFFFF, 16], stalled := false, started := false, members := [], node := none, comm := 0, seq := 0
    writes := [], ordered := [], data := [], fail := none, save := false }
/-- A group that has a command under way. -/
def busy (g : Group) : State := { act g with cmds := [(9, cmd 1)] }
theorem wit_WaitsGoOnWhenCommandsComplete :
    (groupCmds (act g0) 3).length ≤ 0 ∧ 0 < ((groupCmds (busy g0) 3).filter fun e => e.2.cls == 0).length ∧ Held g0 [1] ∧ ¬ Held g0 [32] ∧
    (let g := { regs [(1, 1)] with cnt := [(0, 1)] }
     let d := ((uni (act g) g 1).toNat % 2 ^ 30 + 2 ^ 30 - mgetD g.cnt ((uni (act g) g 1).toNat / 2 ^ 30) 0) % 2 ^ 30
     d = 0 ∧ groupCmds (act g) 3 = [] ∧ ((groupCmds (busy g) 3).any fun e => e.2.token == uni (act g) g 1) = true) ∧
    (let g := regs [(1, 1)]
     ((uni (act g) g 1).toNat % 2 ^ 30 + 2 ^ 30 - mgetD g.cnt 0 0) % 2 ^ 30 = 1) ∧
    (0xC0000000 : Nat) / 2 ^ 30 = 3 := by unfold Held; decide +kernel
theorem wit_FencesAndEntryConsistencyOrderAccesses :
    Acts (act g0) 3 g0 ∧
    (let g := regs (glob 0xFF8 ++ [(8, 0x2000), (9, 0), (10, 64)])
     Held g [4, 5] ∧ Held g [7, 4, 5, 8, 9, 10] ∧ isOk (objPlace (paged (act g)) g 0xFF8) 0x40FF8 = true ∧ detOf (act g) g = false ∧
     uniPair (act g) g 4 % 8 = 0 ∧ uniPair (act g) g 4 < 2 ^ 52 ∧ uniPair (act g) g 8 < 2 ^ 52 ∧ bindStatus [] 0xFF8 0x2000 64 = 0) ∧
    (own 4).head? = some (4, 0xFFE00004) ∧ (0xFFE00004 : Nat) % 8 ≠ 0 ∧
    (let g := regs [(4, 0), (5, 0x100000)]
     uniPair (act g) g 4 % 8 = 0 ∧ 2 ^ 52 ≤ uniPair (act g) g 4) := by unfold Acts Held; decide +kernel
/-- A core with one slab less than three blocks need. -/
def tight (g : Group) : State := { act g with groups := [(3, g), (4, { g1 with ext := 3, gwid := 64 })] }
theorem wit_RegisterBlocksAreGrantedAndReleased :
    Acts (act g0) 3 g0 ∧ mget (act g0).grids g0.grid = some wordGrid ∧ ¬ (g0.ext ≠ 0 ∨ 128 - wordGrid.ngrp * g0.gwid / 8 < 3 * g0.gwid / 8) ∧
    slabsFree (act g0) g0 3 = true ∧ ({ g0 with ext := 1 }).ext ≠ 0 ∧
    (let q := { g0 with park := some (.xacq 3 false) }
     let s := { act q with cores := [(0, { coreOf (act q) 0 with grantQ := [3] })] }
     (coreOf s 0).grantQ = [3] ∧ mget s.groups 3 = some q ∧ slabsUsed s 0 + 3 * q.gwid / 8 ≤ 128) := by unfold Acts; decide +kernel
theorem wit_HaltEndsTheGroup :
    Acts (act g0) 3 g0 ∧ g0.hstack = none ∧ g0.causes = [] ∧ groupCmds (act g0) 3 = [] ∧ g0.exited = false ∧ groupCmds (busy g0) 3 ≠ [] ∧
    (let q := { g0 with halted := true, park := some .halted }
     canExit (act q) 3 q = true) := by unfold Acts; decide +kernel

/-! ### Causes, system words, special registers -/

theorem wit_CausesEnterSupervisorModeOrKill : g0.sup = false ∧ ({ g0 with sup := true }).sup = true ∧ MemoryCanonical (act g0) := by
  unfold MemoryCanonical; decide +kernel
theorem wit_SystemWordsTrapOrGoOn : Acts (act g0) 3 g0 ∧ g0.mode.getLsbD 3 = false ∧ ({ g0 with mode := 8 }).mode.getLsbD 3 = true := by
  unfold Acts; decide +kernel
/-- A group in its supervisor handler, with a return kind. -/
def inHandler (kind : Nat) : Group :=
  { g0 with sup := true, sretc := BitVec.ofNat 32 kind, hstack := some ⟨[], 0xFF, g0.flags, 0, 0, none, []⟩ }
theorem wit_SupervisorReturnRestoresOrDelivers :
    Acts (act (inHandler 1)) 3 (inHandler 1) ∧ (inHandler 1).sup = true ∧ (inHandler 1).trapCmd = none ∧ (inHandler 1).hstack.isSome = true ∧ g0.sup = false ∧
    (inHandler 1).sretc.toNat % 4 = 1 ∧ (inHandler 0).sretc.toNat % 4 = 0 ∧ (inHandler 2).sretc.toNat % 4 = 2 ∧ (inHandler 2).uhnd = 0xFFFFFFFF ∧
    ({ inHandler 2 with uhnd := 64 }).uhnd ≠ 0xFFFFFFFF ∧ (inHandler 2).inUser = false ∧ ({ inHandler 2 with inUser := true }).inUser = true ∧
    (inHandler 0x08).sretc.getLsbD (1 + 2) = true ∧ (inHandler 1).sretc.getLsbD (7 + 2) = false := by
  unfold Acts; decide +kernel
theorem wit_SpecialRegistersCheckReadAndWrite :
    Acts (act g0) 3 g0 ∧ g0.sup = false ∧ 0x100 ≤ 0x100 ∧ Held g0 [9] ∧ Held g0 [8, 9] ∧ ¬ Held g0 [32] ∧ specialPair 0x020 = true ∧
    specialPair 0x000 = false ∧ (inHandler 0).sup = true ∧ (ctxOf (detAct g0) g0.ctx).det = true ∧
    mget (act g0).blocks g0.block = some wordBlock ∧ mget (act g0).grids g0.grid = some wordGrid := by unfold Acts Held; decide +kernel
theorem wit_TopologyAndCapabilityWordsGiveFacts :
    Acts (act g0) 3 g0 ∧ Held g0 [3, 1] ∧ ¬ Held g0 [3, 32] ∧ mget (act g0).grids g0.grid = some wordGrid := by unfold Acts Held; decide +kernel

/-! ### The coin, commands, engines -/

/-- The deterministic context with the coin at a position. -/
def coinAt (g : Group) (n : Nat) : State := { detAct g with grids := [(1, { wordGrid with coinPos := n })] }
theorem wit_CoinWordsTakeAndPassTheCoin :
    Acts (act g0) 3 g0 ∧ detOf (act g0) g0 = false ∧ Acts (coinAt g0 0) 3 g0 ∧ detOf (coinAt g0 0) g0 = true ∧ coinIdx (coinAt g0 0) g0 = 0 ∧
    0 < coinIdx (coinAt g1 0) g1 ∧ coinIdx (coinAt g0 1) g0 < 1 ∧ holdsCoin (coinAct g0) g0 = true ∧
    (let q := { g0 with park := some .coinWait }
     mget (coinAt q 0).groups 3 = some q ∧ mget (coinAt q 0).blocks q.block = some wordBlock ∧ wordBlock.st = .running ∧ wordGrid.coinHeld = false) := by
  unfold Acts; decide +kernel
/-- A group with words in the registers from x10 on. -/
def params (l : List Nat) : Group := regs (l.mapIdx fun i v => (10 + i, v))
/-- A pair in the own allocation, as two words. -/
def at_ (off : Nat) : List Nat := [0xFFE00000 + off, 0xFFFFFFFF]
/-- The block that a command word reads. -/
def blk (l : List Nat) (s : Group → State) : List Word := blockOf (s (params l)) (params l) 10 l.length
/-- A record of the block in its cluster. -/
def rec0 : MxRec := { block := 2, kb := 1, next := 4, bfmt := 8, pcnt := 15, pfirst := 0, sparse := 0, soff := 0, closing := false, weights := [], scales := [] }
/-- A panel whose engine holds that record, for a block with much memory. -/
def matrix (g : Group) : State :=
  { act g with clusters := [(ownCluster (act g) g, { Cluster.idle with recs := [(0, rec0)] })], blocks := [(2, { wordBlock with lmem := 16384 })],
               grids := [(1, { wordGrid with lmem := 16384 })] }
/-- The block of an `mxmm` with one row, one strip and one column on that record. -/
def mm : List Nat := at_ 0 ++ at_ 8000 ++ at_ 8192 ++ [128, 4, 1, 128, 1, 0x30] ++ at_ 0 ++ at_ 0
/-- A panel on which the group may issue 16 commands no more. -/
def filled (g : Group) : State := { act g with cmds := (List.range 16).map fun i => (100 + i, cmd (BitVec.ofNat 32 i)) }
theorem wit_CommandWordsIssueWithTheirToken :
    Acts (act g0) 3 g0 ∧ Held g0 (20 :: (List.range 10).map (10 + ·)) ∧ ¬ Held g0 (32 :: (List.range 5).map (10 + ·)) ∧
    classCount (act g0) 3 0 < 16 ∧ 16 ≤ classCount (filled g0) 3 0 ∧
    cpyCheck false (act g0) 2 (blk (at_ 0 ++ at_ 64 ++ [16]) act) = none ∧ cpyCheck false (act g0) 2 (blk (at_ 0 ++ at_ 8 ++ [16]) act) = some 0x0C ∧
    cpy2dCheck false (act g0) 2 (blk (at_ 0 ++ at_ 64 ++ [8, 2, 16, 16]) act) = none ∧
    gatherCheck true false (gatherArv false false) (act g0) g0 (blk (at_ 0 ++ at_ 64 ++ at_ 96 ++ [2, 8]) act) = none ∧
    gatherCheck false false (gatherArv false false) (act g0) g0 (blk (at_ 0 ++ at_ 64 ++ at_ 96 ++ [2, 8]) act) = none ∧
    cpylCheck false (act g0) g0 (blk ([0, 0] ++ at_ 64 ++ [16]) act) = none ∧ fillCheck false (act g0) 2 (blk (at_ 0 ++ [7, 16]) act) = none ∧
    fillCheck true (act g0) 2 (blk (at_ 0 ++ [7, 16] ++ at_ 64) act) = none ∧ fillCheck true (act g0) 2 (blk (at_ 0 ++ [7, 16] ++ at_ 65) act) = some 0x04 := by
  unfold Acts Held; decide +kernel
theorem wit_collectives : ∀ k ∈ [CmdKind.allred .sum false, .allgath, .redscat .max true, .bcast],
    collCheck k false (paged (act g0)) g0 (blk (at_ 0 ++ at_ 64 ++ [4, 0, 0x1000, 0, 0]) act) = none ∧
    collCheck k false (paged (act g0)) g0 (blk (at_ 0 ++ at_ 64 ++ [4, 0] ++ at_ 96 ++ [0]) act) = some 0x06 := by decide +kernel
theorem wit_matrix :
    ownEngine (act g0) g0 = true ∧ recordOf (matrix g0) (ownCluster (matrix g0) g0) g0.block 0 = some rec0 ∧
    mxldCheck (matrix g0) g0 (blk ([0, 8] ++ at_ 0 ++ at_ 8192) matrix) = none ∧ mxldCheck (act g0) g0 (blk ([0, 8] ++ at_ 0 ++ at_ 8192) act) = some 0x0B ∧
    mxmmCheck (matrix g0) g0 (blk mm matrix) = none := by decide +kernel
/-- A gang of slots 0 and 1. -/
def gang01 : DWord := 0x80000000080
theorem wit_ReservationsAndGangsOpen :
    Acts (act g0) 3 g0 ∧ Held g0 [20, 10, 11] ∧ ¬ Held g0 [32, 10, 11] ∧ Held g0 (31 :: (List.range 16).map (10 + ·)) ∧
    resRefused (act (params [0x01048F00, 0])) (params [0x01048F00, 0]) (blk [0x01048F00, 0] act) = false ∧ resRefused (act g0) g0 (blk [0, 0] act) = true ∧
    (let g := { g0 with gang := gang01 }
     gangBad (two g { g1 with gang := gang01 }) g = false ∧ classCount (two g g1) 3 2 < 16 ∧ ownEngine (two g g1) g = true ∧
       findLatch (two g g1) (ownCluster (two g g1) g) g = none ∧ (clusterOf (two g g1) 0).latches.length < 4) ∧ gangBad (act g0) g0 = true ∧
    (let s := { act g0 with retiredEngines := [(0, 0)] }
     ownEngine s g0 = false) ∧ 4 ≤ (clusterOf { act g0 with clusters := [(0, { Cluster.idle with latches := List.replicate 4 ⟨[], 0, [], []⟩ })] } 0).latches.length := by
  unfold Acts Held; decide +kernel
/-- A copy within the own allocation, from 64 to 0, at some progress. -/
def copying (n : Nat) : Cmd := { cmd 1 with prm := (at_ 0 ++ at_ 64 ++ [16]).map (BitVec.ofNat 32), prog := n, chosen := [(0, 2)] }
/-- The panel with one command under way. -/
def under (d : Cmd) : State := { act g0 with cmds := [(9, d)] }
/-- The same with pages. -/
def underPaged (d : Cmd) : State := { paged (act g0) with cmds := [(9, d)] }
/-- A collective of one rank on a communicator at virtual 0x1000. -/
def coll (d : Cmd) : State := let s := underPaged d; { s with mem := Memory.writeN s.mem 0x41000 (leBytes 4 1) }
def gather1 : Cmd := { cmd 1 with chosen := [(0, 2)], kind := .allred .sum false, cls := 1, prm := (at_ 0 ++ at_ 64 ++ [4, 0, 0x1000, 0, 0]).map (BitVec.ofNat 32) }
/-- A cluster whose slot 5 has a command at its head. -/
def queued5 (d : Cmd) : State := { under d with clusters := [(0, { Cluster.idle with queues := [(5, [9])], recs := [(0, { rec0 with closing := true })] })] }
def release0 : Cmd := { cmd 1 with kind := .mxrel, cls := 2, prm := [0], slot := 5 }
theorem wit_CommandsRunCompleteAndQueue :
    (let g := { g0 with causes := [{ cause := 6, token := 1, va := none, write := false, cmd := none }] }
     mget (act g).groups 3 = some g ∧ g.causes ≠ [] ∧ g.hstack = none ∧ g.exited = false ∧ g.replay = none ∧ g.sup = false ∧
       mget (act g).blocks g.block = some wordBlock ∧ wordBlock.st = .running ∧ (ctxOf (act g) g.ctx).cst = 1) ∧
    (mget (under (copying 16)).cmds 9 = some (copying 16) ∧ (copying 16).node = none ∧ (copying 16).cls = 0 ∧ cmdRuns (under (copying 16)) (copying 16) = true ∧
      copyTotal (copying 16) ≤ 16 ∧ (copying 16).arv = none ∧ (copying 16).grp = 3) ∧
    ((copying 0).prog < copyTotal (copying 0) ∧ (match nextMoves (under (copying 0)) 9 (copying 0) with
      | .ok (ms, _) => (match makeMoves (under (copying 0)) 9 (copying 0) ms with | .ok _ => true | .error _ => false)
      | .error _ => false) = true) ∧
    (Memory.wf (coll gather1).mem = true ∧ isOk (resolve (coll gather1) 0 (prmP gather1.prm 6) 0) 0x41000 = true ∧
      isOk (resolve (coll gather1) 0 (prmP gather1.prm 6 + 8 + 8 * prmW gather1.prm 5) 1) 0x41008 = true ∧
      prmW gather1.prm 5 < leNat (Memory.readN (coll gather1).mem 0x41000 4) ∧ cmdRuns (coll gather1) gather1 = true ∧ gather1.stalled = false ∧ gather1.started = false) ∧
    (let d := { gather1 with started := true, prog := 1, data := leBytes 4 7 ++ leBytes 4 8 ++ leBytes 4 9 ++ leBytes 4 1 }
     (match engWrite (under d) d (cmdRng d (prmP d.prm 0)) 0 d.data with | .ok _ => true | .error _ => false) = true) ∧
    nextSlot (queued5 release0) 0 = some (5, 9) ∧ mget (queued5 release0).cmds 9 = some release0 := by
  decide +kernel

/-! ### Blocks, grids, rounds -/

/-- A panel on which a grid of two blocks waits: nothing runs yet. -/
def grid2 : Grid := { wordGrid with gdx := 2, started := [] }
def waiting2 : State := { act g0 with cur := none, groups := [], blocks := [], grids := [(1, grid2)] }
theorem wit_BlockPlaceStartsItsGroups :
    mget waiting2.grids 1 = some grid2 ∧ canPlace waiting2 1 0 grid2 = true ∧ earlierFits waiting2 1 grid2 = false ∧
    (firstWaiting waiting2 1 grid2).map (fun x => (x.2.1, x.2.2)) = some (0, none) ∧ freeBase waiting2 0 grid2.lmem = some 0 ∧
    nextBlock (ctxOf waiting2 grid2.ctx).det grid2 = some 0 := by decide +kernel
/-- The header of group 3 in a phase record. -/
def header3 : PhaseHeader :=
  { group := 3, regs := [(5, List.replicate 8 7)], k := [], win := [], flags := g0.flags, agelim := 64, srx := 0, icnt := 9, ver := 0, spn := 0, xstat := 0
    xreq := none, carry := 0, pc := 4, exited := false }
/-- A block as it waits for its core, or lies saved. -/
def resting (st : BlockSt) : Block := { wordBlock with st := st, record := [header3] }
def restingOn (st : BlockSt) : State :=
  { act g0 with cur := none, blocks := [(2, resting st)], cores := [(0, { coreOf (act g0) 0 with phaseQ := [2] })] }
/-- A group that is done. -/
def gone : Group := { g0 with exited := true }
/-- A group at its `rnd`. -/
def atRnd : Group := { g0 with park := some (.rnd false) }
/-- A deterministic grid of two blocks of which one waits, with no start admitted any more in this step of its region. -/
def crowded : State :=
  { detAct atRnd with groups := [(3, atRnd)], grids := [(1, { wordGrid with gdx := 2 })], regions := [(regionOfDie 0, { Region.reset with admitted := 10 ^ 6 })] }
theorem wit_BlocksResumeRetireAndComplete :
    (inPartition (restingOn .queued) 0 0 = true ∧ (ctxOf (restingOn .queued) 0).cst = 1 ∧ (ctxOf (restingOn .queued) 0).draining = false ∧
      gateLets (restingOn .queued) 0 2 = true ∧ mget (restingOn .queued).grids 1 = some wordGrid ∧ header3.xreq = none ∧
      fits (restingOn .queued) 0 1 wordGrid (some 2) = true ∧ ((resting .queued).record.map (·.group)).Nodup ∧ nextPhase (restingOn .queued) 0 = some 2 ∧
      mayMove (restingOn .queued) 2 (resting .queued) 0 = true) ∧
    (boundSet (restingOn .saved) 2 = [2] ∧ (resting .saved).record ≠ [] ∧ mayReturn (restingOn .saved) (resting .saved) 2 0 wordGrid = true) ∧
    canRetire (act gone) wordBlock 2 = true ∧
    (mget crowded.blocks 2 = some wordBlock ∧ (ctxOf crowded 0).det = true ∧ suspendable crowded 2 wordBlock = true ∧
      coinAtBlock { wordGrid with gdx := 2, coinPos := 1 } 0 = false ∧
      waits crowded 1 { wordGrid with gdx := 2, coinPos := 1 } = true ∧ gateOpen crowded 0 = false ∧
      (gridCores crowded { wordGrid with gdx := 2, coinPos := 1 }).all (fun c => !canPlace crowded 1 c { wordGrid with gdx := 2, coinPos := 1 }) = true) ∧
    (let gr := { wordGrid with retired := [0] }
     gridDone { act g0 with blocks := [], groups := [], grids := [(1, gr)] } 1 gr = true) := by decide +kernel
/-- A deterministic round with one buffered byte, its one group waiting at `rnd`. -/
def round1 : State :=
  { detAct atRnd with cur := none, blocks := [(2, { wordBlock with rbuf := [⟨0x41000, 5, 0⟩] })], grids := [(1, { wordGrid with coinPos := 1 })] }
theorem wit_RoundCloseMergesTheBuffers :
    MemoryCanonical round1 ∧ roundCloses round1 1 { wordGrid with coinPos := 1 } = true ∧ (roundBytes round1 1 { wordGrid with coinPos := 1 }).length = 1 := by
  unfold MemoryCanonical; decide +kernel

/-! ### The panel -/

/-- A panel that is ready. -/
def ready : State := { State.reset with ready := true, stage := 7 }
theorem wit_connected : (connected farDies [] = true ∧ connected farDies ([168 * 4].flatMap fun x => downEnds (x / 4) (x % 4)) = false) ∧ connected [168, 215] [] = false := by
  decide +kernel
theorem wit_PowerEventsActAndPowerOnStarts :
    Answers ready ∧ (regionOf ready 15).alarm = false ∧ (regionOf { ready with regions := [(15, { Region.reset with alarm := true })] } 15).alarm = true ∧
    ready.frozen = false := by unfold Answers; decide +kernel
/-- A panel with a page-table tree for context 0 and the host's eyes on it. -/
def owned (vault : Bool) : State := modCtx (paged (act g0)) 0 fun c => { c with vault := vault }
theorem wit_LinksAndBar2Answer :
    linkThere (.peer 31) = true ∧ linkThere (.host 1) = true ∧
    (let s := { ready with links := [(.peer 3, 0x40000000)], peers := [(3, ⟨0, 0, [(0, [1])], [256, 256, 256, 256], [(0, 16)], false, none, [], []⟩)] }
     (linkStatus s (.peer 3)).toNat / 2 ^ 30 = 1 ∧ (mget s.peers 3).isSome = true ∧ (s.ctxs.map (·.1)).Nodup) ∧
    Answers ready ∧ MemoryCanonical ready ∧ vaultResident ready = false ∧ bar2Addr ready 0x1000 = some 0x1000 ∧ bar2Addr ready 0x3F000000000 = none ∧
    Answers (owned true) ∧ bar2Addr (owned true) 0x40000 = some 0x40000 ∧ vaultFrame (owned true) 0x40000 none = true := by
  unfold Answers MemoryCanonical; decide +kernel

/-! ### Contexts -/

/-- A context descriptor at 0x1000: one core die, no vault, page tables at 0x20000. -/
def described : State :=
  { ready with mem := Memory.writeN (Memory.writeN (Memory.writeN [] 0x1010 (leBytes 8 0x20000)) 0x1034 [1]) 0x1050 [1] }
theorem wit_ContextsAreCreatedAndRequestsReachTheHost :
    Answers ready ∧ ready.creating = none ∧ ({ ready with creating := some 5 }).creating ≠ none ∧
    createRefusal described (0x1000 / 64 * 2 ^ 6 + 5) (Memory.readN described.mem 0x1000 256) = 0 ∧ createRefusal ready (0x1000 / 64 * 2 ^ 6 + 5) (Memory.readN ready.mem 0x1000 256) ≠ 0 ∧
    ready.xlatInv.msb = false ∧ ({ ready with xlatInv := 0x80000000 }).xlatInv.msb = true ∧
    (ctxOf (modCtx (act g0) 0 fun c => { c with forward := [3] }) 0).forward = [3] ∧
    (let s := modCtx (paged (act g0)) 0 fun c => { c with rqtab := 0x1000, cgen := 1 }
     let s1 := { s with mem := Memory.writeN s.mem 0x41050 [2, 0] }
     Answers s1 ∧ Memory.wf s1.mem = true ∧ ctxField s1 0 (0x1000 + 32 * 2 + 16) 2 = some 2 ∧ ctxField s1 0 (0x1000 + 32 * 2 + 20) 4 = some 0 ∧
       isOk (resolve s1 0 (0x1000 + 32 * 2 + 20) 1) 0x41054 = true) := by
  unfold Answers; decide +kernel
/-- A group that stopped at `brk` under the host's eyes. -/
def stopped : Group := { inHandler 2 with park := some .brk, sepc := 8 }
theorem wit_ContextControlActs :
    Answers (act g0) ∧ (ctxOf (act g0) 0).cst = 1 ∧ ¬ (true = true ∧ (ctxOf (act g0) 0).vault = true) ∧ (ctxOf (owned true) 0).vault = true ∧
    (ctxOf (modCtx (act g0) 0 fun c => { c with cst := 2 }) 0).cst = 2 ∧ (act g0).marked = [] ∧
    (((act stopped).groups.map (·.1)).Nodup ∧ mget (act stopped).groups 3 = some stopped ∧ stopped.ctx = 0 ∧ stopped.park = some .brk ∧
      stopped.hstack.isSome = true ∧ stopped.trapCmd = none ∧ stopped.halted = false) ∧
    (ctxOf (modCtx (act g0) 0 fun c => { c with draining := true }) 0).draining = true ∧ drained (act g0) 0 = true := by unfold Answers; decide +kernel

/-! ### Firmware, dies, security -/

/-- An image of one kernel with one empty-mapped native version of one word, and no section. -/
def image1 : List Nat :=
  ((leBytes 4 0x4D494C47 ++ leBytes 2 1 ++ leBytes 2 1 ++ leBytes 8 64 ++ leBytes 8 648 ++ leBytes 8 0 ++ leBytes 8 0 ++ leBytes 8 0 ++ leBytes 16 0)
    ++ (leBytes 8 0 ++ leBytes 8 1 ++ leBytes 8 128 ++ leBytes 8 0 ++ leBytes 32 0)
    ++ (leBytes 1 2 ++ leBytes 1 0 ++ leBytes 2 0x0101 ++ leBytes 4 8 ++ leBytes 8 640 ++ leBytes 16 0) ++ leBytes 480 0
    ++ leBytes 8 0 ++ leBytes 72 0).map (·.toNat)
/-- A panel whose checkpoint area lies in a CXL window of 1 MiB. -/
def ckptReady : State := { ready with cxlCap := [(0, 2 ^ 20)], ckptBase := BitVec.ofNat 64 cxlBase }
/-- The same, its area holding an empty checkpoint: the header of R318, with the panel's serial number and the digest of no byte. -/
def ckptHeld : State :=
  { ckptReady with
    mem := [(cxlBase, 0x4C), (cxlBase + 1, 0x5A), (cxlBase + 2, 0x43), (cxlBase + 3, 0x4B), (cxlBase + 4, 1)]
      ++ (List.range 16).map (fun i => (cxlBase + 8 + i, Config.serial i)) ++ [(cxlBase + 25, 16)]
      ++ (List.range 32).map (fun i => (cxlBase + 40 + i, BitVec.ofNat 8 ((Config.sha3 []).getD i 0)))
      ++ [(cxlBase + 73, 16), (cxlBase + 81, 16)] }
theorem read_beyond (m : List Host.Cell) (a : Nat) (h : (m.all fun c => decide (c.1 < a)) = true) : Memory.read m a = 0 := by
  induction m with
  | nil => rfl
  | cons c m ih =>
    simp only [List.all_cons, Bool.and_eq_true, decide_eq_true_eq] at h
    rw [Memory.read, if_neg (by omega), ih h.2]
theorem wit_header_zero : ((List.range 4008).all fun i => headField ckptHeld (88 + i) 1 == 0) = true := by
  have hm : ∀ i, ckptHeld.mem.all (fun c => decide (c.1 < cxlBase + (88 + i))) = true := by
    intro i
    have h : ckptHeld.mem.all (fun c => decide (c.1 < cxlBase + 88)) = true := by decide +kernel
    rw [List.all_eq_true] at h ⊢
    intro c hc
    have := h c hc
    simp only [decide_eq_true_eq] at this ⊢
    omega
  have hb : ckptHeld.ckptBase.toNat = cxlBase := by decide +kernel
  rw [List.all_eq_true]
  intro i _
  simp only [headField, hb, Memory.readN, List.range_one, List.map_cons, List.map_nil, Nat.add_zero, read_beyond _ _ (hm i)]
  rfl
theorem wit_restore_header :
    headField ckptHeld 0 4 = 0x4B435A4C ∧ headField ckptHeld 4 4 = 1 ∧ headField ckptHeld 32 4 = 0 ∧ headField ckptHeld 36 4 = 0 ∧
    headField ckptHeld 24 8 = 4096 ∧ cxlRange ckptHeld cxlBase 4096 = true ∧ ckptHeld.ckptBase.toNat = cxlBase := by
  decide +kernel
theorem wit_restore : restoreRefusal ckptHeld = 0 := by
  obtain ⟨h0, h1, h2, h3, h4, h6, h7⟩ := wit_restore_header
  have h5 := wit_header_zero
  have hs : Memory.readN ckptHeld.mem (cxlBase + 8) 16 = serialBytes := rfl
  have hd : areaDigest ckptHeld.mem cxlBase 4096 = (Memory.readN ckptHeld.mem (cxlBase + 40) 32).map (·.toNat) := rfl
  have hk : heldCkpt ckptHeld = none := rfl
  simp [restoreRefusal, tableCtxs, tableRanges, h0, h1, h2, h3, h4, h5, h6, h7, hs, hd, hk]
/-- A context with an event kernel and a record that waits. -/
def eventful (evk : Option (Nat × Nat)) : State := modCtx (act g0) 0 fun c => { c with evk := evk, events := [List.replicate 32 0] }
theorem wit_FirmwareServicesRun :
    (ctxOf (act g0) 0).cst = 1 ∧ (ctxOf (act g0) 0).images.length < 65536 ∧
    (match readImage (asBytes image1) [] [] 1 with
     | some l => (List.range 3).all (fun i => baseOk (sectionOf (asBytes image1) i) 0 && runMapped (act g0) 0 0 (sectionOf (asBytes image1) i).size) && (codeRuns l.kernels == [])
     | none => false) = true ∧ headerOk [] = false ∧
    Answers ready ∧ ready.importing = none ∧ ({ ready with importing := some 0 }).importHeld = [] ∧ importOne ready 0 = none ∧
    ckptRunning ready = false ∧ cxlRange ckptReady ckptReady.ckptBase.toNat (ckptTotal ckptReady) = true ∧ cxlRange ready ready.ckptBase.toNat (ckptTotal ready) = false ∧
    restoreRefusal ready ≠ 0 ∧ ckptRunning ckptHeld = false ∧ Memory.wf ckptReady.mem = true ∧ residents ckptReady = [] ∧
    (eventTask (eventful (some (0, 0))) 0).isSome = true ∧ (ctxOf (eventful none) 0).evk = none ∧ (ctxOf (eventful none) 0).draining = false ∧
    (ctxOf (eventful none) 0).evRun = none ∧ (ctxOf (eventful none) 0).det = false := by unfold Answers; decide +kernel
/-- A panel that moves a die's pages away. -/
def movingOff : State := { ready with offCtl := 0x10000001 }
theorem wit_DiesAreLostOfflinedAndHarvested :
    ready.ready = true ∧ ready.frozen = false ∧ 5 ∈ ({ ready with lostDies := [5] }).lostDies ∧ 5 ∉ ready.lostDies ∧
    Answers ready ∧ evacuating ready = false ∧ isMemDie 0 = false ∧ isMemDie 1 = true ∧ 1 ∉ ready.lostDies ∧ MemoryCanonical ready ∧ evacuating movingOff = true ∧
    ready.harvCtl.msb = true ∧ unitThere 0 0 959 = true ∧ harvThresh ({ ready with harvCtl := 0x80010020 }) = 1 ∧ 1 < harvThresh ready ∧
    (0, 0, 5, 1) ∈ ({ ready with marked := [(0, 0, 5, 1)] }).marked ∧ drainedFor ready (0, 0, 5) = true ∧ 384 ≤ 511 % 512 ∧ ready.harvest.length < 4096 := by
  unfold Answers MemoryCanonical; decide +kernel
/-- A kernel whose start count has reached the threshold. -/
def counted : State := modCtx (act g0) 0 fun c => { c with triggers := [(0, 1)] }
/-- A context of one core die with a trace ring of 64 KiB. -/
def traced : State := modCtx (act g0) 0 fun c => { c with trbase := 0x1000, trlog := 16, trmask := 1 }
theorem wit_SecurityMintAndTraceEventsAct :
    ready.secPolicy.getLsbD 4 = true ∧ ({ ready with secPolicy := 0 }).secPolicy.getLsbD 4 = false ∧ (ctxOf (owned true) 0).vault = true ∧
    (ctxOf (owned true) 0).cst = 1 ∧ Answers ready ∧ (kernelOf counted 0 0 0).isSome = true ∧ mintReached counted 0 0 0 = some 0 ∧ counted.mintCtl.getLsbD 31 = true ∧
    counted.mint = [] ∧
    (({ ready with mint := [{ key := [], vaultCtx := none, kern := 0, home := 0, st := 1, built := none, order := 1, waiting := [(0, 0, 0)] }] }).mint.find?
      fun (e : MintEntry) => e.st == 1 && e.waiting.contains (0, 0, 0)).isSome = true ∧
    traces (ctxOf traced 0) 9 0 = true ∧ (ctxOf traced 0).vault = false ∧ 4 ≤ (ctxOf traced 0).trlog := by unfold Answers; decide +kernel

/-! ### Escrow -/

/-- A panel whose context has room for episodes. -/
def escrow (g : Group) : State := modCtx (act g) 0 fun c => { c with epq := 2, stq := 16, lqcap := 8 }
theorem wit_EscrowWordsActAndGiveStatus :
    Acts (escrow g0) 3 g0 ∧ Held g0 (20 :: (List.range 8).map (10 + ·)) ∧ ¬ Held g0 (32 :: (List.range 8).map (10 + ·)) ∧ (ctxOf (act g0) 0).epq = 0 ∧
    (ctxOf (escrow g0) 0).epq ≠ 0 ∧ detOf (escrow g0) g0 = false ∧ detOf (detAct g0) g0 = true ∧ holdsCoin (detAct g0) g0 = false ∧ holdsCoin (coinAct g0) g0 = true ∧
    openStatus (escrow g0) 5 0 7 4 = 0 ∧ openStatus (escrow g0) 5 0 7 0 = 4 ∧ openStatus (escrow g0) 5 0 7 17 = 1 ∧ stepStatus (escrow g0) 5 0 7 0 = 3 ∧
    closeStatus (escrow g0) 5 0 7 1 = 3 ∧ cfgStatus (escrow g0) 0 [0, 0, 0, 0, 0, 0, 0, 0] = 0 ∧ cfgStatus (escrow g0) 0 [0x40000000, 0, 0, 0, 0, 0, 0, 0] = 8 := by
  unfold Acts Held; decide +kernel
/-- An open episode of two steps with its status words. -/
def episode2 (closed : Option (Nat × Word)) : Episode :=
  { ctx := 0, key := 7, cap := 2, ver := 0, cfg := { EscrowCfg.init with tout := 5 }, steps := [(0, (0, 0, 0))], closed := closed, rewards := [], conflict := false, filled := false
    age := 0, done := none, results := none }
def holding (e : Episode) (os : List Orphan) : State := { escrow g0 with slices := [(homeOf (escrow g0) 7, { Slice.empty with episodes := [e], orphans := os })] }
theorem wit_episode_words :
    stepStatus (holding (episode2 none) []) (homeOf (escrow g0) 7) 0 7 1 = 0 ∧ closeStatus (holding (episode2 none) []) (homeOf (escrow g0) 7) 0 7 1 = 0 := by decide +kernel
theorem wit_lqpop :
    (let g := params (at_ 0 ++ [1])
     uniPair (escrow g) g 10 % 8 = 0 ∧ (match rangeOf (escrow g) g.block (uniPair (escrow g) g 10) 32 with
       | .ok r => (match popUnits (escrow g) g r 32 with | .ok l => l.length | .error _ => 0)
       | .error _ => 0) = 8) ∧
    (let g := params (at_ 4 ++ [1])
     uniPair (escrow g) g 10 % 8 ≠ 0) := by decide +kernel
/-- A post on its way to the episode. -/
def post1 : Post := { ctx := 0, key := 7, t := 1, r := 5, src := 6, grid := 0, core := 0, writer := 0 }
theorem wit_EscrowEventsMoveRewardsOn :
    (let s := { holding (episode2 none) [] with posts := [(20, post1)] }
     mget s.posts 20 = some post1 ∧ (ctxOf s 0).det = false ∧ (ctxOf s 0).cst ≠ 0 ∧ earlierPosts s post1.src (homeOf s 7) 20 = [] ∧
       findEpisode s (homeOf s 7) 0 7 = some (episode2 none) ∧ post1.t < (episode2 none).cap ∧ mget (episode2 none).rewards 1 = none) ∧
    (let o : Orphan := { ctx := 0, key := 8, t := 0, r := 1, age := 0 }
     let s := holding (episode2 none) [o]
     (sliceOf s (homeOf (escrow g0) 7)).orphans.findIdx? (fun o => o.ctx == 0 && o.key == 8 && o.t == 0) = some 0) ∧
    (episode2 (some (1, 0))).waitsTout = true ∧ (episode2 (some (1, 0))).cfg.policy.getLsbD 0 = false ∧
    ({ episode2 (some (1, 0)) with cfg := { EscrowCfg.init with tout := 5, policy := 1 } }).cfg.policy.getLsbD 0 = true ∧
    (let e := { episode2 (some (1, 0)) with rewards := [(0, 1)], done := some 4 }
     let q := { e with results := some e.compute }
     earliestDone (sliceOf (holding e []) (homeOf (escrow g0) 7)).episodes (fun e => e.results.isNone && !(ctxOf (holding e []) e.ctx).det) = some e ∧
       findEpisode (holding e []) (homeOf (escrow g0) 7) 0 7 = some e ∧
       earliestDone (sliceOf (holding q []) (homeOf (escrow g0) 7)).episodes (fun e => e.ctx == 0 && e.results.isSome) = some q ∧
       (ctxOf (holding q []) 0).esc.minver.toNat ≤ q.ver.toNat ∧ q.conflict = false ∧ (ctxOf (holding q []) 0).queue.length + q.records.length ≤ (ctxOf (holding q []) 0).lqcap ∧
       q.ver.toNat < ({ EscrowCfg.init with minver := 1 }).minver.toNat) ∧
    Answers (escrow g0) ∧ badPost (escrow g0) (7 + 2 ^ 64) = false ∧ badPost (escrow g0) (2 ^ 80) = true := by unfold Answers; decide +kernel

/-! ### Versions and graphs -/

/-- A safe point's map, with one value in a register, or in the allocation. -/
def map5 (kind : Nat) : SpMap :=
  { spn := 5, spadr := 0, resume := 4, xblk := 0, gkind := 0, gval := 0, gt := 0, pad0 := 0, pad1 := 0, con := []
    ents := [{ val := 1, kind := kind, opnd := 0, reg := 9, w1 := 0, w2 := 0 }] }
/-- A kernel with versions 0 and 1 on such maps. -/
def twoVersions (kind : Nat) : Kernel :=
  let v : Version := { nform := true, mint := false, profile := 0x0101, code := leBytes 16 0, va := none, maps := [map5 0] }
  { kernelWith [0, 0] with vers := [(0, v), (1, { v with maps := [map5 kind] })] }
def asked (kind : Nat) (pend : AMap Nat) (g : Group) : State :=
  let s := modCtx (act g) 0 fun c => { c with images := [{ kernels := [twoVersions kind], exports := [], runs := [] }] }
  { s with blocks := [(2, { wordBlock with pend := pend })] }
theorem wit_SafePointsTransferAndYield :
    Acts (act g0) 3 g0 ∧ g0.xreq = none ∧
    (match transfer (asked 0 [] g0) 3 g0 5 1 with | .done _ _ _ => true | _ => false) = true ∧
    (match transfer (asked 0 [] g0) 3 g0 6 1 with | .refused r => r == 2 | _ => false) = true ∧
    (match transfer (asked 2 [(0, 1)] g0) 3 g0 5 1 with | .absent l => l.length == 1 | _ => false) = true ∧
    runnableVersion (asked 0 [] g0) g0 1 ≠ none ∧ runnableVersion (asked 0 [] g0) g0 2 = none ∧ Held g0 [20, 10] ∧ ¬ Held g0 [32, 10] ∧
    (uni (act (params [0xFFFFFFFF])) (params [0xFFFFFFFF]) 10).toNat = 0xFFFFFFFF := by unfold Acts Held; decide +kernel
/-- The words of a launch of one block of kernel 0. -/
def launch1 : List Nat := [0, 0, 1, 1, 1, 1, 128, 0, 0, 0, 0xFFFFFFFF, 0, 0, 0, 0, 0]
theorem wit_full_grids (n : Nat) : n ≤ liveGrids { act g0 with grids := List.replicate n (1, wordGrid) } 0 := by
  simp [liveGrids, wordGrid]
/-- A graph of one launch node. -/
def node1 (kern : Nat) : Node := { kind := 0, fn := 0, pb := ((kern :: launch1.drop 1) ++ List.replicate 14 0).map (BitVec.ofNat 32) }
def graph1 (kern : Nat) : Graph :=
  { ctx := 0, nodes := [node1 kern], edges := [], crec := 0x1000, vec := 9, trigs := [], issued := 0, runs := 0, run := none, killed := none }
/-- The panel with one graph, 6. -/
def withGraph (g : Graph) : State := { act g0 with graphs := [(6, g)] }
theorem wit_LaunchTriggerAndCommitWords :
    Acts (act g0) 3 g0 ∧ Held g0 (31 :: (List.range 18).map (10 + ·)) ∧ ¬ Held g0 (32 :: (List.range 16).map (10 + ·)) ∧
    launchCause (act g0) g0 false (blk launch1 act) = none ∧ (launchArgs (act g0) 0 (blk launch1 act)).isSome = true ∧ launchCause (act g0) g1 false (blk launch1 act) = some 0x0D ∧
    liveGrids (act g0) 0 < 4096 ∧ 
    mget (act g0).grids g0.grid = some wordGrid ∧ wordGrid.firing = none ∧
    (let g := params [6, 0, 0x1000, 0]
     mget (withGraph (graph1 0)).graphs (uni (act g) g 10).toNat = some (graph1 0) ∧ uniPair (act g) g 12 % 16 = 0 ∧ uniPair (act g) g 12 < 2 ^ 52 ∧
       (graph1 0).trigs.length < 4 ∧ mget (act g).graphs (uni (act g) g 10).toNat = none) ∧
    4 ≤ ({ graph1 0 with trigs := List.replicate 4 ⟨0, []⟩ }).trigs.length ∧
    (let g := params [6, 0, 8, 0]
     uniPair (act g) g 12 % 16 ≠ 0) ∧
    (let gr := { wordGrid with firing := some (6, 0, 0, 0) }
     gr.firing = some (6, 0, 0, 0) ∧ gr.committed = false) ∧ groupCmds (act g0) 3 = [] ∧ groupCmds (busy g0) 3 ≠ [] := by unfold Acts Held; decide +kernel
/-- An image of that graph at virtual 0x2000. -/
def imaged : State :=
  let s := paged (act g0)
  { s with mem := Memory.writeN s.mem 0x42000 (leBytes 8 1 ++ leBytes 8 0x1000 ++ leBytes 16 9 ++ leBytes 8 0 ++ launch1.flatMap (leBytes 4) ++ leBytes 56 0) }
/-- A GLOAD of graph 6 from there into context 0. -/
def gload6 : Nat := 6 * 2 ^ 46 + 0x2000 / 64
theorem load_fits (s : State) (v n : Nat) (h : (match loadImage s v with | .ok p => p.1 == n | .error _ => false) = true)
    (hn : graphBytes s (fld v 55 46) + n ≤ 589856) : ∃ g, loadGraph s v = .ok g := by
  unfold loadGraph
  cases hl : loadImage s v with
  | error r => rw [hl] at h; cases h
  | ok p =>
    rw [hl] at h
    have hp : p.1 = n := by simpa using h
    refine ⟨p.2, ?_⟩
    have : ¬ Config.graphMemory < graphBytes s (fld v 55 46) + p.1 := by rw [hp]; unfold Config.graphMemory; omega
    simp only [this, if_false]
theorem wit_load : ∃ g, loadGraph imaged gload6 = .ok g := load_fits imaged gload6 160 (by decide +kernel) (by decide +kernel)
/-- A run of that graph before its node starts. -/
def run1 (st : NodeSt) : Run := { st := [st], fail := none, sg := [], acq := [], rel := [] }
theorem wit_GraphsLoadRunAndComplete :
    Answers ready ∧ ready.loading = none ∧ isErr (loadGraph (act g0) gload6) 7 = true ∧
    (mget (withGraph (graph1 0)).graphs (6 * 2 ^ 48 / 2 ^ 48 % 2 ^ 10) = some (graph1 0) ∧ (ctxOf (withGraph (graph1 0)) 0).cst = 1 ∧ (graph1 0).ctx = 6 * 2 ^ 48 / 2 ^ 58 % 2 ^ 6) ∧
    ¬ (graph1 0).ctx = 2 ^ 58 / 2 ^ 58 % 2 ^ 6 ∧
    readPatches (withGraph (graph1 0)) (graph1 0) 0 = some [] ∧ readPatches (withGraph (graph1 0)) (graph1 0) 0x100000 = none ∧
    (run1 .waiting).st[0]? = some .waiting ∧ (graph1 0).edges = [] ∧ liveGrids (withGraph (graph1 0)) 0 < 4096 ∧
    (launchArgs (withGraph (graph1 0)) 0 (node1 0).pb).isSome = true ∧ launchArgs (withGraph (graph1 1)) 0 (node1 1).pb = none ∧
    (run1 .completed).over = true := by unfold Answers; decide +kernel
/-- A stage graph: two stages on kernel 0, one edge of one record a firing. -/
def stages2 : StageGraph :=
  let st : SgStage := { img := 0, kern := 0, param := 0, cores := 2, stateless := false, ngrp := 1, wcode := 0 }
  { desc := 0x1000, result := 0x2000, arena := 0x4000, arenaBytes := 4096, periods := 4, gov := true, stages := [st, st]
    edges := [{ frm := 0, dst := 1, prod := 1, cons := 1, init := 0, rsize := 4, high := 0, low := 0 }], q := [1, 1], table := [0x101, 0x1000101], rings := [⟨0x4000, 1, 4⟩]
    occ := [0], next := [0, 0], done := [], flight := [], cores := [[0, 1], [2, 3]], moves := [(0, 1)], rebind := true, base := 0, tabPos := 0, since := [], acq := [] }
/-- The panel on which it runs as node 0 of graph 6. -/
def staged (g : StageGraph) : State := withGraph { graph1 0 with nodes := [{ kind := 2, fn := 0, pb := [] }], run := some { run1 .running with sg := [(0, g)] } }
/-- The same with its descriptor in memory, and its result area mapped. -/
def described2 : State :=
  let s := paged (staged stages2)
  let st : List Byte := leBytes 16 0 ++ leBytes 1 2 ++ leBytes 1 0 ++ leBytes 1 1 ++ leBytes 5 0
  { s with mem := Memory.writeN s.mem 0x41000 ([2, 1, 1] ++ leBytes 5 0 ++ st ++ st ++ [0, 1] ++ leBytes 2 1 ++ leBytes 2 1 ++ leBytes 2 0 ++ leBytes 4 4 ++ leBytes 4 0) }
theorem wit_StageGraphsFireMoveAndRebind :
    stageGraphOf (staged stages2) 6 0 = some stages2 ∧ (ctxOf (staged stages2) 0).cst = 1 ∧
    (let g := { stages2 with rebind := false, moves := [] }
     g.ready false 0 = true ∧ (match g.stages[0]? with | some x => firingFits (staged g) 0 g 0 x 1 | none => false) = true ∧ g.place 0 = 0 ∧
       (ctxOf (staged g) 0).draining = false ∧ (readyFirings (staged g)).all (fun f => f.2.1 == 6 && f.2.2.1 == 0 && decide (g.place 0 ≤ g.place f.2.2.2)) = true ∧
       gridBefore (staged g) (mgetD g.since 0 0) = false) ∧
    (stages2.moves.find? (fun m => (idleCore (staged stages2) 0 stages2 m.1).isSome) = some (0, 1) ∧ idleCore (staged stages2) 0 stages2 0 = some 0 ∧
      1 < stages2.cores.length) ∧
    Answers (staged stages2) ∧ (graph1 0).ctx = 6 * 2 ^ 48 / 2 ^ 58 % 2 ^ 6 ∧ stageGraphOf ready (6 * 2 ^ 48 / 2 ^ 48 % 2 ^ 10) 0 = none ∧
    stages2.rebind = true ∧ stages2.periodDone = true ∧ stages2.settled (ctxOf (staged stages2) 0).det = true ∧ stages2.settled true = true ∧
    (match bindGraph (staged stages2) 0 stages2.desc stages2.result stages2.arena stages2.arenaBytes stages2.periods [] with | .status n => n | .ok _ => 0) = 5 ∧
    (match bindGraph described2 0 stages2.desc stages2.result stages2.arena stages2.arenaBytes stages2.periods [] with
     | .ok b => b.edges.map (·.init) == stages2.edges.map (·.init) && schedWritable described2 0 b.result (resultBytes b).length
     | .status _ => false) = true := by unfold Answers; decide +kernel

/-! ### The machine as a whole -/

theorem wit_StepKeepsMemoryCanonical : MemoryCanonical ready ∧ ∃ t, step ready = .next t := ⟨by unfold MemoryCanonical; decide +kernel, _, rfl⟩
theorem wit_DecodeOfEncode : (Instr.vadd true 3 3 4 0).wf = true ∧ Instr.shortNop.wf = true ∧ decodeTableWord 32 0x40060C20 = some (.vadd true 3 3 4 0) := by decide +kernel
/-- The machine about to run `vadd x3, x3, x4`. -/
def about : State := State.reset.withFetchWord 32 0x40060C20
/-- The machine about to run `nop` in its parcel. -/
def aboutShort : State := State.reset.withFetchWord 16 ((encode .shortNop).getD 0)
theorem wit_StepRunsTheDecodedInstruction :
    about.inputs = [] ∧ (moves about).length = 1 ∧ (mget about.groups 3).isSome = true ∧ nativeCode about g0 = true ∧ nativeCode aboutShort g0 = false ∧ g0.pc % 4 = 0 ∧
    (match fetchUnit about 3 g0 0 with | .ok b => b == leBytes 4 0x40060C20 | .error _ => false) = true ∧ decodeNative 0x40060C20 0 = some (.vadd true 3 3 4 0, 1) ∧
    encode Instr.importEnd = none ∧ ready.frozen = false ∧ ({ ready with frozen := true }).frozen = true := by decide +kernel
theorem wit_SselPicksByItsCondition : Acts (act g0) 3 g0 ∧ Held g0 [3, 1, 2] := by unfold Acts Held; decide +kernel
theorem wit_LostDiesLoseTheirPorts : Answers ready ∧ 383 < 384 ∧ ready.lostDies.contains 383 = false ∧ linkThere (.peer 0) = true ∧ linkDie (.peer 0) < 384 := by
  unfold Answers; decide +kernel

/-! ### Clauses at their bounds, and clauses on the panel's own events -/

/-- A uniform access's cause with a later one known already. -/
def lowest (g : Group) : Except AccErr Nat := withCause (some 0x09) (uPlace (act g) g (uniPair (act g) g 4 % 2 ^ 64) 8 1)
theorem wit_barrier_words_stop :
    (let g := regs (own 16 ++ [(6, 0)])
     (uni (act g) g 6).toNat = 0 ∧ isOk (uPlace (act g) g (uniPair (act g) g 4 % 2 ^ 64) 8 1) (localLoc 2 16) = true ∧ isErr (lowest g) (.cause 0x09) = true) ∧
    (let g := regs (own 128 ++ [(6, 0x1000000)])
     (uni (act g) g 6).toNat = 0x1000000 ∧ isErr (lowest g) (.cause 0x08) = true) ∧
    (let g := regs (own 20 ++ [(6, 1)])
     uniPair (act g) g 4 % 2 ^ 64 % 8 ≠ 0 ∧ ¬ Held g [32, 4, 5]) ∧
    (let g := regs (glob 0x1000)
     isOk (uPlace (paged (detAct g)) g 0x1000 8 0) 0x41000 = true ∧ isOk (uPlace (paged (detAct g)) g 0x1000 4 0) 0x41000 = true ∧ isPhys 0x41000 = true ∧
       detOf (paged (detAct g)) g = true ∧ holdsCoin (paged (detAct g)) g = false ∧ holdsCoin (paged (coinAct g)) g = true ∧
       isOk (objPlace (paged (detAct g)) g 0x1000) 0x41000 = true) ∧
    (let g := regs (own 128)
     isErr (uPlace (act g) g (uniPair (act g) g 4 % 2 ^ 64) 4 0) (.cause 0x08) = true) := by unfold Held; decide +kernel
/-- Two groups of a block, the second parked at `bar` 0, where it has arrived. -/
def lastMissing : State :=
  let q := { g1 with park := some (.bar 0 4 false) }
  { two g0 q with blocks := [(2, { wordBlock with groups := [3, 4], bars := [(0, ⟨1, 2, false⟩)] })] }
theorem wit_halt_opens_a_bar :
    Acts lastMissing 3 g0 ∧ (clusterOf lastMissing (ownCluster lastMissing g0)).latches = [] ∧
    (let b := { wordBlock with groups := [3, 4], bars := [(0, ⟨1, 2, false⟩)] }
     mget lastMissing.blocks g0.block = some b ∧ liveGroups lastMissing b = [3, 4] ∧ (mgetD b.bars 0 Bar.init).count ≠ 0 ∧
       bit (mgetD b.bars 0 Bar.init).mask g1.gidx = true) := by unfold Acts; decide +kernel
theorem wit_firing_registers :
    (let gr := { wordGrid with firing := some (6, 0, 0, 1) }
     gr.firing = some (6, 0, 0, 1) ∧ gr.cores[0]? = some wordBlock.core ∧ wordGrid.firing = none) ∧ g0.gang.toNat < 2 ^ 45 ∧ wordGrid.ctx = g0.ctx ∧
    specialPair 0x051 = false ∧ (0x00A < 0x00B ∧ 0x00B < 0x010) := by decide +kernel
/-- A `cpyl` of 16 bytes within the allocation. -/
def lines0 : Cmd := { cmd 1 with kind := .cpyl, prm := ([0, 0] ++ at_ 64 ++ [16]).map (BitVec.ofNat 32), chosen := [(0, 2)] }
theorem wit_cpyl_piece :
    mget (under lines0).cmds 9 = some lines0 ∧ cmdRuns (under lines0) lines0 = true ∧ lines0.prog < copyTotal lines0 ∧
    (match nextMoves (under lines0) 9 lines0 with
     | .ok (ms, q) => q == 16 && (match makeMoves (under lines0) 9 lines0 ms with | .ok _ => true | .error _ => false)
     | .error _ => false) = true := by decide +kernel
/-- A deterministic context's panel with one command under way, and pages. -/
def detUnder (d : Cmd) : State := let s := { paged (detAct g0) with cmds := [(9, d)] }; { s with mem := Memory.writeN s.mem 0x41000 (leBytes 4 1) }
theorem wit_buffered_round :
    bufferedCmd (detUnder gather1) gather1 = true ∧ cmdRuns (detUnder gather1) gather1 = true ∧ prmW gather1.prm 5 < commWord (detUnder gather1) gather1 0x41000 ∧
    isOk (resolve (detUnder gather1) 0 (prmP gather1.prm 6) 0) 0x41000 = true ∧ isOk (resolve (detUnder gather1) 0 (prmP gather1.prm 6 + 8 + 8 * prmW gather1.prm 5) 1) 0x41008 = true ∧
    (match bufferWord (detUnder gather1) gather1 0x41008 4 1 with | .ok _ => true | .error _ => false) = true ∧ (ctxOf (coll gather1) 0).det = false := by
  decide +kernel
/-- The panel of `matrix` with one command at the head of slot 5. -/
def served (d : Cmd) : State :=
  { matrix g0 with cmds := [(9, d)], clusters := [(0, { Cluster.idle with recs := [(0, rec0)], queues := [(5, [9])] })] }
def load0 : Cmd := { cmd 1 with kind := .mxld, cls := 2, slot := 5, prm := ([0, 8] ++ at_ 0 ++ at_ 8192).map (BitVec.ofNat 32), chosen := [(0, 2)] }
/-- The multiplication of `mm`, and one on a sparse table of zeros. -/
def mult0 (ctl : Nat) : Cmd :=
  { load0 with kind := .mxmm, prm := (at_ 0 ++ at_ 8000 ++ at_ 8192 ++ [128, 4, 1, 128, 1, ctl] ++ at_ 0 ++ at_ 0).map (BitVec.ofNat 32) }
theorem wit_matrix_units :
    nextSlot (served load0) 0 = some (5, 9) ∧ mget (served load0).cmds 9 = some load0 ∧ clusterNum load0.core = 0 ∧
    mget (clusterOf (served load0) 0).recs (prmW load0.prm 0) = some rec0 ∧ rec0.kb ≤ load0.prog + 1 ∧
    nextSlot (served (mult0 0x30)) 0 = some (5, 9) ∧ tileCount (mmArgs (mult0 0x30).prm) = 1 ∧
    (let x := mmArgs (mult0 0x30).prm
     mget (clusterOf (served (mult0 0x30)) 0).recs x.ridx = some rec0 ∧ tableOk_ x [] = true ∧ cmdRng (mult0 0x30) x.d = .loc 2 8192 ∧ x.dstr % 4 = 0 ∧
       8192 + extent x.m x.dstr (4 * x.n) ≤ allocSize (served (mult0 0x30)) 2) ∧
    (let d := mult0 0x430
     let x := mmArgs d.prm
     nextSlot (served d) 0 = some (5, 9) ∧ x.sparse ≠ 0 ∧ 0 < tileCount x ∧ tableOk_ x (mxRead (turnTo (served d) 0 5 9 d) 9 d x.idx 0 (idxBytes x)) = false ∧
       d.grp ≠ 0 ∧ (mget (served d).groups d.grp).isSome = true ∧ d.members = []) ∧
    (64 : Int) ∈ (alignStrip 8 [.fin false 1 0]).1 := by decide +kernel
theorem wit_links_train_again :
    (let s := { ready with peers := [(31, ⟨0, 0, [(4095, [1])], [0, 0, 0, 0], [(4095, 16)], false, none, [], []⟩)] }
     (linkStatus s (.peer 31)).toNat / 2 ^ 30 ≠ 1 ∧ (mget s.peers 31).isSome = true ∧ s.lostDies.contains (linkDie (.peer 31)) = false ∧ s.offDies.contains (linkDie (.peer 31)) = false) ∧
    linkAt 0x40 = some (.host 0) ∧ linkAt 0x27C = some (.peer 31) ∧ linkAt 0x280 = none := by decide +kernel
/-- A context pre-empted while a unit of its die waits for another context's drain. -/
def waitsForHarvest : State :=
  modCtx (modCtx { act g0 with marked := [(0, 0, 5, 1)] } 0 fun c => { c with cst := 2 }) 1 fun _ => { Ctx.free with cst := 1, part := [0] }
theorem wit_held_resumption :
    (ctxOf waitsForHarvest 0).cst = 2 ∧ couldUse waitsForHarvest (0, 0, 5) 0 = true ∧ (waitsForHarvest.marked.all fun m => !drainedFor waitsForHarvest (m.1, m.2.1, m.2.2.1)) = true := by
  decide +kernel
/-- An image whose `.data` and `.bss` take 4 bytes each. -/
def image2 : List Nat := image1.take 648 ++ ([0, 4, 1, 0, 0, 1, 0, 4, 1].flatMap (leBytes 8)).map (·.toNat)
theorem wit_image_runs :
    apart (imageRuns (asBytes image1) [] []) = true ∧
    (match readImage (asBytes image2) [] [] 1 with
     | some l => !apart (imageRuns (asBytes image2) [] l.kernels) && (imageRuns (asBytes image2) [] l.kernels).all fun r => runMapped (paged (act g0)) 0 r.1 r.2
     | none => false) = true := by decide +kernel
/-- A vault's panel with a blob of one byte: its header at 0x1000, its key at 0x2000, its text at 0x3000, its destination at virtual 0. -/
def blob : State :=
  let s := modCtx (owned true) 0 fun c => { c with keys := true }
  { s with mem := Memory.writeN s.mem 0x1000 (leBytes 4 0 ++ leBytes 4 17 ++ leBytes 8 0x2000 ++ leBytes 16 0 ++ leBytes 8 0x3000 ++ leBytes 24 0) }
theorem wit_import (h : ∀ k e n b, (Config.importOpen k e n b).isSome = true) : Memory.wf blob.mem = true ∧ importOne blob 0x1000 ≠ none := by
  refine ⟨by decide +kernel, ?_⟩
  simp only [importOne]
  split
  · rename_i hk
    exact absurd hk (by decide +kernel)
  · intro hn
    rw [Option.map_eq_none_iff] at hn
    have := h _ _ _ _ ▸ congrArg Option.isSome hn
    cases this
/-- A building entry that the one portable kernel waits for. -/
def translated : State :=
  { wordState State.reset 16 0 with
    mint := [{ key := [], vaultCtx := none, kern := 0, home := 0, st := 1, built := none, order := 1, waiting := [(0, 0, 0)] }] }
theorem wit_mint_build :
    (translated.mint.find? fun e => e.st == 1 && e.waiting.contains (0, 0, 0)).isSome = true ∧
    (match kernelOf translated 0 0 0 with
     | some k => builtOk k ⟨[0, 0, 0, 0], [], 0⟩ && (List.range 16).find? (fun i => (mget k.vers i).isNone) == some 1 && k.vers.all (fun v => !v.2.mint)
         && (portableOf k).map (·.1) == some 0
     | none => false) = true ∧
    (readMaps [] true 4 0 0).isSome = true ∧ (mget translated.groups 3).map (·.ver) = some 0 ∧ (ctxOf translated 0).det = false := by decide +kernel
/-- A group that pops one record to virtual 0x1000. -/
def pop1 : Group := params [0x1000, 0, 1]
theorem wit_lqpop_stops :
    uniPair (escrow pop1) pop1 10 = 0x1000 ∧ Held pop1 [20, 10, 11, 12] ∧ isOk (rangeOf (escrow pop1) 2 0x1000 32) (.virt 0x1000) = true ∧
    destFault (escrow pop1) pop1 (.virt 0x1000) 32 = some (0x05, some 0x1000) ∧ destFault (paged (escrow pop1)) pop1 (.virt 0x1000) 32 = none ∧
    isErr (rangeOf (escrow pop1) 2 0xFFFFFFFF00000000 32) 0x06 = true ∧
    (let d := modCtx (paged (escrow pop1)) 0 fun c => { c with det := true }
     detOf d pop1 = true ∧ holdsCoin d pop1 = false ∧ holdsCoin { d with grids := [(1, { wordGrid with coinHeld := true })] } pop1 = true ∧
       (match popUnits d pop1 (.virt 0x1000) 32 with
        | .ok us => us != [] && us.all (fun q => isPhys q.loc)
        | .error _ => false) = true) := by unfold Held; decide +kernel

/-! ### Escrow words on their way (R350), and what waits for them -/

/-- A group that owes no escrow result is ready for every word whose registers it holds: so each of the groups above is. -/
theorem wit_ready (s : State) (g : Group) (rs : List Nat) (h : g.words = []) (hr : Held g rs) : Ready s g rs := ⟨hr, by simp [awaits, h]⟩
theorem wit_no_words : g0.words = [] ∧ g0.trapping = none ∧ (∀ l, (regs l).words = []) ∧ (out1 1).words = [] := by
  exact ⟨rfl, rfl, fun _ => rfl, rfl⟩
/-- An `epopen` of episode 7 with two steps, on its way, and an `lqpop` of one record to virtual 0x1000. -/
def open7 : EscWord := { kind := .epopen, prm := [7, 0, 2, 0], xd := 20, chosen := [] }
def popped : EscWord := { kind := .lqpop, prm := [0x1000, 0, 1], xd := 21, chosen := [] }
/-- A group with both on the way. -/
def sending : Group := { g0 with words := [(60, open7), (61, popped)] }
/-- The same in D-form code, which checks every dependence. -/
def shortCode (g : Group) : State := { wordState State.reset 16 ((encode .shortNop).getD 0) with cur := some 3, groups := [(3, g)] }
theorem wit_waits :
    Acts (shortCode sending) 3 sending ∧ Held sending [20, 10, 11] ∧ awaits (shortCode sending) sending [20, 10, 11] = true ∧
    awaits (shortCode sending) sending [10, 11] = false ∧ sending.words ≠ [] ∧ g0.words = [] := by unfold Acts Held; decide +kernel
theorem wit_words_arrive :
    mget (escrow sending).groups 3 = some sending ∧ sending.exited = false ∧ (wordsNext (escrow sending) 3 sending).map (·.1) = [60, 61] ∧
    (let s := { escrow sending with posts := [(40, { post1 with key := 7 })] }
     (wordsNext s 3 sending).map (·.1) = [61]) ∧
    (let s := modCtx (paged (escrow sending)) 0 fun c => { c with queue := [List.replicate 32 7] }
     destFault (escrow sending) sending popped.dest 32 = some (0x05, some 0x1000) ∧ destFault s sending popped.dest 32 = none ∧
       (match popUnits s sending popped.dest 32 with
        | .ok us => decide ((us.flatMap fun q => (List.range q.len).map (q.loc + ·)).Nodup)
        | .error _ => false) = true ∧ Memory.wf s.mem = true ∧ popped.dest.start % 4 = 0 ∧ ∀ r ∈ (ctxOf s 0).queue, r.length = 32) ∧
    earlierWords (escrow sending) 3 (homeOf (escrow sending) 7) 50 = false ∧ earlierWords (escrow sending) 3 (homeOf (escrow sending) 7) 61 = true := by
  decide +kernel
theorem wit_results_are_waited_for :
    (let g := { sending with xreq := some 1 }
     Acts (act g) 3 g ∧ g.xreq = some 1 ∧ g.words ≠ [] ∧
       (match transfer (asked 0 [] g) 3 g 5 1, transfer (asked 0 [] g) 3 g 6 1 with | .done _ _ _, .refused 2 => true | _, _ => false) = true) ∧
    (let g := { g0 with trapping := some ⟨0x03, 0, false, 0, [], 1, 0, 2, none, false⟩ }
     mget (act g).groups 3 = some g ∧ g.exited = false ∧ g.words = [] ∧ g.trapping.isSome = true) ∧
    sending.sup = false ∧ (let g := { inHandler 1 with words := [(60, open7)] }
     Acts (act g) 3 g ∧ g.sup = true ∧ g.words ≠ []) ∧
    (let g := { inHandler 1 with trapCmd := some 9 }
     mget ({ under (cmd 1) with groups := [(3, g)] }).cmds 9 = some (cmd 1) ∧ (cmd 1).grp = 3 ∧ g.exited = false) := by unfold Acts; decide +kernel

/-! ### Bytes that the engines move, and clauses on the panel's events -/

/-- The units of a range of command 9, and whether what it reads is all visible to it and what it writes does not overlap. -/
def moved (s : State) (d : Cmd) (r : Rng) (n kind : Nat) : Nat :=
  match rngUnits s d.ctx r d.prog n kind with
  | .ok us =>
    let l := us.flatMap fun q => (List.range q.len).map (q.loc + ·)
    if l.all (fun a => s.log.all fun e => !e.touches a 1 || e.knownAt (agent 9 1) a) && decide l.Nodup then l.length else 0
  | .error _ => 0
theorem wit_copies_move_bytes :
    (let d := copying 0
     let s := under d
     Memory.wf s.mem = true ∧ mget s.cmds 9 = some d ∧ cmdRuns s d = true ∧ d.prog < copyTotal d ∧ (ctxOf s d.ctx).det = false ∧
       mget s.groups d.grp = some g0 ∧ detOf s g0 = false ∧
       min (copyTotal d - d.prog) (4096 - ((cmdRng d (prmP d.prm 0)).start + d.prog) % 4096) = 16 ∧
       moved s d (cmdRng d (prmP d.prm 2)) 16 0 = 16 ∧ moved s d (cmdRng d (prmP d.prm 0)) 16 1 = 16) ∧
    (let d := { copying 0 with kind := .fill, prm := (at_ 0 ++ [0x04030201, 16]).map (BitVec.ofNat 32) }
     let s := under d
     cmdRuns s d = true ∧ d.prog < copyTotal d ∧ copyTotal d = 16 ∧ moved s d (cmdRng d (prmP d.prm 0)) 16 1 = 16) ∧
    (let s := under lines0
     lines0.data = [] ∧ Memory.wf s.mem = true ∧ cmdRuns s lines0 = true ∧ lines0.prog < copyTotal lines0 ∧ moved s lines0 (cmdRng lines0 (prmP lines0.prm 2)) 16 0 = 16 ∧
       min (copyTotal lines0 - lines0.prog) (128 - (prmW lines0.prm 0 + lines0.prog) % 128) = 16 ∧ moved s lines0 (.loc 2 (prmW lines0.prm 0)) 16 1 = 16) ∧
    (let d := { lines0 with data := List.replicate 16 7 }
     cmdRuns (under d) d = true ∧ d.data ≠ [] ∧ moved (under d) d (.loc 2 (prmW d.prm 0)) (d.data.take 16).length 1 = 16) := by
  decide +kernel
theorem wit_gathered_round :
    collTurn (coll gather1) 9 gather1 = true ∧
    (let d := { gather1 with started := true, comm := 0x41000 }
     let s := coll d
     (s.cmds.map (·.1)).Nodup ∧ gathered s d = true ∧ (roundOf s d).all (fun m => cmdReady s m.2) = true ∧ roundAgrees (roundOf s d) = true ∧ roundRanks s d = 1 ∧
       (match readSources s (roundRanks s d) (roundOf s d) with | .ok l => l.length | .error _ => 0) = 1) := by decide +kernel
/-- A context with an event kernel. -/
def listening : State := modCtx (act g0) 0 fun c => { c with evk := some (0, 0) }
theorem wit_mesh_link_trains_again :
    meshUp listening 0 1 = true ∧ (listening.ctxs.map (·.1)).Nodup ∧
    (match mget listening.ctxs 0 with
     | some x => x.cst != 0 && x.evk == some (0, 0) && decide (x.events.length < 256) && (match x.images[0]? with | some im => decide (0 < im.kernels.length) | none => false)
     | none => false) = true := by decide +kernel
theorem wit_pages_of_a_die :
    Answers (paged (act g0)) ∧ evacuating (paged (act g0)) = false ∧ ((paged (act g0)).ctxs.map (·.1)).Nodup ∧ residents (paged (act g0)) = [0] ∧
    (mappedPages (paged (act g0)) 0).any (fun e => e.2.runs.any fun r => decide (r.1 ≤ 0x41000 ∧ 0x41000 < r.1 + r.2)) = true ∧ 0x41000 < dramEnd ∧
    isMemDie (homeDie 0x41000) = true ∧ homeDie 0x41000 ≠ 168 ∧ homeDie 0x41000 ≠ 215 ∧ homeDie 0x41000 ∉ (paged (act g0)).lostDies := by
  unfold Answers; decide +kernel
theorem wit_posts_are_saved :
    (let s := { ckptReady with ckptBusy := some false, ctxs := [(0, { Ctx.free with cst := 2 })], posts := [(20, post1)] }
     Memory.wf s.mem = true ∧ s.ckptBusy = some false ∧ residents s = [0] ∧ (ctxOf s 0).cst ≠ 1 ∧ (s.posts.filter fun e => (residents s).contains e.2.ctx).length = 1) := by
  decide +kernel

/-! ### Clauses on scopes, empty masks, links, event tasks and records -/

theorem wit_no_lane_active :
    (let g := { windowed (paged (detAct g0)) g0 0x1000 with active := 0 }
     xlanes (detAct g) g 0 = [] ∧ holdsCoin (detAct g) g = false ∧ detOf (detAct g) g = true ∧
       (match winLanes (paged (detAct g)) g 0 1 0 4 1 with | .ok r => r.1.isEmpty && r.2.1.isEmpty | .error _ => false) = true) ∧
    xlanes (detAct g0) g0 0 ≠ [] ∧ isOk (meets (paged (detAct g0)) 0x10000 4 1) (0, 1) = true := by decide +kernel
theorem wit_round_groups :
    mget round1.groups 3 = some atRnd ∧ atRnd.grid = 1 ∧ atRnd.exited = false ∧ atRnd.park = some (.rnd false) := by decide +kernel
/-- Of two flits that differ in their CRC field alone one fails its check. -/
theorem wit_bad_flit : ∃ f : List Nat, f.length = 256 ∧ leAt (asBytes f) 248 4 ≠ crc32 (f.take 248) := by
  by_cases h : crc32 (List.replicate 248 0) = 0
  · refine ⟨List.replicate 248 0 ++ [1, 0, 0, 0, 0, 0, 0, 0], by decide +kernel, ?_⟩
    have h1 : leAt (asBytes (List.replicate 248 0 ++ [1, 0, 0, 0, 0, 0, 0, 0])) 248 4 = 1 := by decide +kernel
    have h2 : (List.replicate 248 0 ++ [1, 0, 0, 0, 0, 0, 0, 0]).take 248 = List.replicate 248 0 := by decide +kernel
    rw [h1, h2, h]; decide
  · refine ⟨List.replicate 248 0 ++ [0, 0, 0, 0, 0, 0, 0, 0], by decide +kernel, ?_⟩
    have h1 : leAt (asBytes (List.replicate 248 0 ++ [0, 0, 0, 0, 0, 0, 0, 0])) 248 4 = 0 := by decide +kernel
    have h2 : (List.replicate 248 0 ++ [0, 0, 0, 0, 0, 0, 0, 0]).take 248 = List.replicate 248 0 := by decide +kernel
    rw [h1, h2]; exact fun e => h e.symm
theorem wit_buffers_hold_stores :
    (let s := { round1 with xlatInv := 0x80000000 }
     (s.blocks.any fun e => decide (e.2.ctx = s.xlatInv.toNat % 64 ∧ e.2.rbuf ≠ [])) = true) ∧
    ((act g0).blocks.all fun e => decide (e.2.ctx = 0 → e.2.rbuf = [])) = true ∧ ((act g0).grids.all fun e => decide (e.2.ctx = 0 → e.2.oldBufs = [])) = true := by
  decide +kernel
theorem wit_event_task_starts :
    (let s := eventful (some (0, 0))
     MemoryCanonical s ∧ (ctxOf s 0).events = [List.replicate 32 0] ∧ (ctxOf s 0).cst = 1 ∧ (ctxOf s 0).draining = false ∧ (ctxOf s 0).evRun = none ∧
       (ctxOf s 0).det = false ∧ (match kernelOf s 0 0 0 with | some k => runnable k && k.lmem == 0 | none => false) = true ∧ liveGrids s 0 < 4096 ∧
       gridBefore s s.nextUid = false ∧ firingBefore s s.nextUid = false ∧ (s.blocks.all fun e => e.2.grid != s.nextUid) = true ∧
       (let n := newGrid (modCtx s 0 fun x => { x with events := [], evDue := x.evDue - 1 }) 0 (eventArgs 0 0 128) 0 0 []
        eventCore n.2.2 n.1 { n.2.1 with event := some (List.replicate 32 0) } = some 0)) := by unfold MemoryCanonical; decide +kernel
theorem wit_second_error_marks :
    (let s := { ready with harvCtl := 0x80020004, errors := [(0, 0, 5, 100)] }
     max 1 (s.harvCtl.toNat / 2 ^ 16 % 256) = 2 ∧ 2 ^ min (s.harvCtl.toNat % 64) 40 = 16 ∧ errorsOf s (0, 0, 5) = [100] ∧ 116 - 100 ≤ 16 ∧ 16 < 117 - 100 ∧
       s.marked = [] ∧ s.harvCtl.msb = true) ∧ ready.errors = [] := by decide +kernel
theorem wit_pop_enters_the_buffer :
    (let s := modCtx (paged (escrow sending)) 0 fun c => { c with det := true, queue := [List.replicate 32 7] }
     detOf s sending = true ∧ destFault s sending popped.dest 32 = none ∧ (popTake s 0 1).2.length = 32 ∧
       (match popUnits s sending popped.dest 32 with
        | .ok us => us.length == 8 && us.all fun q => isPhys q.loc
        | .error _ => false) = true ∧
       (match bufAdd s 2 [⟨0x41000, 7, 0⟩], bufAdd (modCtx s 0 fun c => { c with rbufg := 0 }) 2 [⟨0x41000, 7, 0⟩] with | .ok _, .error 0x14 => true | _, _ => false) = true) := by
  decide +kernel
theorem wit_completion_record :
    (let g := { graph1 0 with run := some (run1 .completed) }
     let s := paged (withGraph g)
     let put : State → Nat → State := fun z i => putUnit z hostAgent 0 (0x41000 + 4 * i) (some (0x1000 + 4 * i)) [0, 0, 0, 0] true []
     Memory.wf s.mem = true ∧ g.crec = 0x1000 ∧
       ([1, 2, 3, 4, 5, 6, 7, 0].mapIdx fun n i => isOk (resolve (([1, 2, 3, 4, 5, 6, 7, 0].take n).foldl put s) 0 (0x1000 + 4 * i) 1) (0x41000 + 4 * i)).all id = true) ∧
    ({ graph1 0 with run := some (run1 .waiting), killed := some 0x16 }).run ≠ none := by decide +kernel

end Sys2Proof.Tests
end

/-!
PROOFS. The floating lane words (R176-R183). Each operand form of the model meets the claim that `Safety` names, and a NaN gives the canonical NaN.
-/
namespace Sys2Proof.Proofs.Numbers
open Sys2Proof Sys2Proof.Machine

/-! ### The operand forms -/

/-- A word whose meaning is `laneRound` rounds one element a lane under its mode (R168, R176). -/
theorem roundWord_of_laneRound {i : Instr} {len : Nat} {sm : Bool} {md : Md} {xd xa xb kp : Nat} (f : RMode → Nat → Word → Word → Word → Word)
    (he : ∀ s, exec i s = laneRound len sm md f xd xa xb kp s) :
    RoundWord i len sm [xd, xa, xb] xd (fun s g => xmask s g kp) (fun g => modeOf g md) fun s g L =>
      f (modeOf g md) (srField s g L 1 0) (lane s g xd L) (lane s g xa L) (lane s g xb L) := roundWord_of he
/-- A word whose meaning is `laneRound1` rounds its one source under its mode (R168, R178, R179, R183). -/
theorem roundWord_of_laneRound1 {i : Instr} {sm : Bool} {md : Md} {xd xa kp : Nat} (f : RMode → Nat → Word → Word)
    (he : ∀ s, exec i s = laneRound1 sm md f xd xa kp s) :
    RoundWord i 4 sm [xd, xa] xd (fun s g => xmask s g kp) (fun g => modeOf g md) fun s g L =>
      f (modeOf g md) (srField s g L 1 0) (lane s g xa L) := roundWord_of he
/-- A family of words whose meaning is `laneOp` (R169). -/
theorem laneBinary_of_laneOp {c : Bool → Nat → Nat → Nat → Nat → Instr} (f : Word → Word → Word → Word)
    (he : ∀ sm xd xa xb kp s, exec (c sm xd xa xb kp) s = laneOp 4 sm f xd xa xb kp s) : LaneBinary c f :=
  fun sm xd xa xb kp => laneWord_of (he sm xd xa xb kp)
/-- A family of words whose meaning is `laneOp1` (R173). -/
theorem laneUnary_of_laneOp1 {c : Bool → Nat → Nat → Nat → Instr} (f : Word → Word)
    (he : ∀ sm xd xa kp s, exec (c sm xd xa kp) s = laneOp1 4 sm f xd xa kp s) : LaneUnary c f :=
  fun sm xd xa kp => laneWord_of (he sm xd xa kp)

/-! ### What becomes of a NaN (R68, R178-R180) -/

theorem decode_canonicalNan : fp32.decode (0x7FC00000 : Word).toNat = .nan := by decide
theorem fp32_nan : fp32.nan = 0x7FC00000 := by decide
/-- An exact NaN rounds to the canonical NaN under every mode. -/
@[simp] theorem round_nan (m : RMode) (h b : Nat) : Exact.nan.round fp32 m h b = 0x7FC00000 := fp32_nan
theorem frnd_nan {a : Word} (m : RMode) (h : Nat) (ha : fp32.decode a.toNat = .nan) : frnd m h a = 0x7FC00000 := by simp [frnd, ha]
theorem fclass_nan {a : Word} (ha : fp32.decode a.toNat = .nan) : fclass a = 0x100 := by simp [fclass, ha]
/-- A special function that keeps NaN gives the canonical NaN for every NaN. -/
theorem special_nan {f : FVal → Exact} {a : Word} (hf : f .nan = .nan) (m : RMode) (h : Nat) (ha : fp32.decode a.toNat = .nan) :
    special f m h a = 0x7FC00000 := by simp [special, ha, hf]

/-! ### The statement -/

/-- Settles O3: every word is one of the four operand forms on its rule's value, and the canonical NaN decodes as a NaN. -/
theorem laneFloatWordsWriteTheirValue : Obligations.LaneFloatWordsWriteTheirValue := by
  unfold Obligations.LaneFloatWordsWriteTheirValue
  refine ⟨⟨?vfadd, ?vfsub, ?vfmul, ?vfma, ?vfms, ?shortVfadd, ?shortVfmul, ?shortVfma⟩, ?vfmin, ?vfmax, ?vfabs, ?vfneg, ?vfclass,
    ?vrsq, ?vexp2, ?vlog2, ?vsin, ?vcos, ?vtanh, ?vrcp, ?vsqrt, ?vfrnd, ?vcvt, ?nan⟩
  case vfadd => exact fun _ _ _ _ _ => roundWord_of_laneRound vfaddVal fun _ => rfl
  case vfsub => exact fun _ _ _ _ _ => roundWord_of_laneRound vfsubVal fun _ => rfl
  case vfmul => exact fun _ _ _ _ _ => roundWord_of_laneRound vfmulVal fun _ => rfl
  case vfma => exact fun _ _ _ _ _ => roundWord_of_laneRound vfmaVal fun _ => rfl
  case vfms => exact fun _ _ _ _ _ => roundWord_of_laneRound vfmsVal fun _ => rfl
  case shortVfadd => exact fun _ _ => roundWord_of_laneRound vfaddVal fun _ => rfl
  case shortVfmul => exact fun _ _ => roundWord_of_laneRound vfmulVal fun _ => rfl
  case shortVfma => exact fun _ _ _ => roundWord_of_laneRound vfmaVal fun _ => rfl
  case vfmin => exact laneBinary_of_laneOp _ fun _ _ _ _ _ _ => rfl
  case vfmax => exact laneBinary_of_laneOp _ fun _ _ _ _ _ _ => rfl
  case vfabs => exact laneUnary_of_laneOp1 (notNan fun a => a &&& 0x7FFFFFFF) fun _ _ _ _ _ => rfl
  case vfneg => exact laneUnary_of_laneOp1 (notNan fun a => a ^^^ 0x80000000) fun _ _ _ _ _ => rfl
  case vfclass => exact laneUnary_of_laneOp1 fclass fun _ _ _ _ _ => rfl
  case vrsq => exact laneUnary_of_laneOp1 (special rsqF .rne 0) fun _ _ _ _ _ => rfl
  case vexp2 => exact laneUnary_of_laneOp1 (special exp2F .rne 0) fun _ _ _ _ _ => rfl
  case vlog2 => exact laneUnary_of_laneOp1 (special log2F .rne 0) fun _ _ _ _ _ => rfl
  case vsin => exact laneUnary_of_laneOp1 (special sinF .rne 0) fun _ _ _ _ _ => rfl
  case vcos => exact laneUnary_of_laneOp1 (special cosF .rne 0) fun _ _ _ _ _ => rfl
  case vtanh => exact laneUnary_of_laneOp1 (special tanhF .rne 0) fun _ _ _ _ _ => rfl
  case vrcp => exact fun _ _ _ _ _ => roundWord_of_laneRound1 (special rcpF) fun _ => rfl
  case vsqrt => exact fun _ _ _ _ _ => roundWord_of_laneRound1 (special sqrtF) fun _ => rfl
  case vfrnd => exact fun _ _ _ _ _ => roundWord_of_laneRound1 frnd fun _ => rfl
  case vcvt => exact fun _ kind _ _ _ _ => roundWord_of_laneRound1 (cvt kind) fun _ => rfl
  case nan =>
    exact fun m h => ⟨frnd_nan m h decode_canonicalNan, fclass_nan decode_canonicalNan,
      special_nan (f := rsqF) rfl .rne 0 decode_canonicalNan⟩

end Sys2Proof.Proofs.Numbers
